-- ==== Sys2Proof/Word.lean ====
section
/-! DEFINITION. The words of the module: bytes, register words, fetch words,
program counters. -/
namespace Sys2Proof

/-- One byte of memory. -/
abbrev Byte := BitVec 8
/-- A 32-bit element of a v-register. -/
abbrev Word := BitVec 32
/-- A 64-bit value of an s-register. -/
abbrev DWord := BitVec 64
/-- A program counter: a 57-bit virtual byte address (R103). -/
abbrev Pc := BitVec 57
/-- An instruction word of a vector, porter or sequencer program (R110). -/
abbrev IWord := BitVec 96

end Sys2Proof
end

