-- ==== Sys2Proof/Machine/Bits.lean ====
section
/-! DEFINITION. Sign extension, widths, saturation and bit fields (R5 bit numbering, R8 helpers). -/
namespace Sys2Proof

/-- Two's-complement reading of the low `n` bits of `x` (R8 `sext`). -/
def sextNat (n : Nat) (x : Nat) : Int :=
  let y := x % 2 ^ n
  if n = 0 then 0 else if y < 2 ^ (n - 1) then (y : Int) else (y : Int) - (2 ^ n : Nat)

/-- The low `n` bits of the two's complement of `x`, as a number (R8, assignment to a width). -/
def wrapNat (n : Nat) (x : Int) : Nat := (x % ((2 ^ n : Nat) : Int)).toNat

/-- `sat_s(x, n)` of R8. -/
def satS (x : Int) (n : Nat) : Int :=
  let hi : Int := ((2 ^ (n - 1) : Nat) : Int) - 1
  let lo : Int := -((2 ^ (n - 1) : Nat) : Int)
  if x < lo then lo else if hi < x then hi else x

/-- `sat_u(x, n)` of R8. -/
def satU (x : Int) (n : Nat) : Int :=
  let hi : Int := ((2 ^ n : Nat) : Int) - 1
  if x < 0 then 0 else if hi < x then hi else x

/-- Bits `hi` down to `lo` of a number (R5). -/
def bitsOf (x hi lo : Nat) : Nat := (x / 2 ^ lo) % 2 ^ (hi + 1 - lo)

/-- `floor(a / b)` rounded up. -/
def ceilDiv (a b : Nat) : Nat := (a + b - 1) / b

end Sys2Proof
end

