-- ==== Sys2Proof/Syntax.lean ====
section
/-! DEFINITION. The steps of the module as syntax: one constructor of `Instr` per row of the opcode table.
Rows with no encoding are the module's own steps (events); their operands are plain data. Rows of the 96-bit
instruction word (R110) carry its fields; hut rows carry the fields of R280. -/
namespace Sys2Proof

/-- A physical or virtual function (R69, R70). -/
inductive Fn where
  | pf (i : Fin 2)
  | vf (v : Nat)
  deriving DecidableEq, Repr

/-- A descriptor chain of a split virtqueue as the front end finds it (R76): the request buffer, the bytes of the
further device-readable buffers, and the final buffer. -/
structure Chain where
  head : Nat
  req : List Byte
  rest : List Byte
  finalLen : Nat
  finalWritable : Bool
  deriving DecidableEq, Repr

/-- A team of a placed cluster, by VF, launch number, cluster index and index within the cluster (R97). -/
structure TeamRef where
  vf : Nat
  launch : Nat
  cluster : Nat
  cteam : Nat
  deriving DecidableEq, Repr

/-- One direction of a fabric pair: from port `src` to port `dst` (R238). -/
structure DirRef where
  src : Nat
  dst : Nat
  deriving DecidableEq, Repr

/-- One lane of one direction of a pair, lane 2p + c (R238). -/
structure LaneRef where
  dir : DirRef
  lane : Nat
  deriving DecidableEq, Repr

/-- MESI states of a 64-byte block (R318). -/
inductive Mesi where
  | m | e | s | i
  deriving DecidableEq, Repr

/-- A host's M2S request for a block of HDM-DB memory (R327). -/
inductive HostReq where
  | readShared
  | readOwn
  | write (data : List Byte)
  deriving DecidableEq, Repr

/-- A request arriving from a peer module (R216, R232). -/
inductive PeerReq where
  | read (n : Nat)
  | write (data : List Byte)
  | atomicAdd (n : Nat) (value : DWord)
  deriving DecidableEq, Repr

/-- A guard (R112): a predicate, possibly negated. -/
structure Guard where
  neg : Bool
  p : BitVec 3
  deriving DecidableEq, Repr

/-- An operand specifier (R113). `reserved` keeps the bits of any combination the table does not show. -/
inductive Operand where
  | v (n : BitVec 8)
  | s (n : BitVec 6)
  | const (n : BitVec 7)
  | special (n : BitVec 7)
  | p (n : BitVec 3)
  | h (n : BitVec 4)
  | b (n : BitVec 4)
  | a (n : BitVec 2)
  | dp (n : BitVec 2)
  | imm (zx : Bool)
  | none
  | reserved (bits : BitVec 10)
  deriving DecidableEq, Repr

/-- The fields of an instruction word beside CLS and OP (R110). -/
structure Fields where
  er : Bool
  pg : Guard
  d : Operand
  a : Operand
  b : Operand
  c : Operand
  mod : BitVec 6
  imm : BitVec 32
  deriving DecidableEq, Repr

/-- The eight instruction classes (R110). -/
inductive Cls where
  | vec | scl | mem | ctl | asy | mtx | sys | pfx
  deriving DecidableEq, Repr

/-- The steps of the module: one constructor per row of the opcode table, the program and hut instructions first. -/
inductive Instr where
  | vadd (f : Fields)
  | vsub (f : Fields)
  | vmul (f : Fields)
  | vmulhi (f : Fields)
  | vmad (f : Fields)
  | vfma (f : Fields)
  | vfms (f : Fields)
  | vfnma (f : Fields)
  | vdiv (f : Fields)
  | vrem (f : Fields)
  | vmin (f : Fields)
  | vmax (f : Fields)
  | vabs (f : Fields)
  | vneg (f : Fields)
  | vclamp (f : Fields)
  | vavg (f : Fields)
  | vsad (f : Fields)
  | vdot4 (f : Fields)
  | vdot2 (f : Fields)
  | vsetp (f : Fields)
  | vsel (f : Fields)
  | vmov (f : Fields)
  | vand (f : Fields)
  | vor (f : Fields)
  | vxor (f : Fields)
  | vnot (f : Fields)
  | vlut3 (f : Fields)
  | vshl (f : Fields)
  | vshr (f : Fields)
  | vsra (f : Fields)
  | vrotl (f : Fields)
  | vfsh (f : Fields)
  | vpopc (f : Fields)
  | vclz (f : Fields)
  | vbrev (f : Fields)
  | vbfe (f : Fields)
  | vbfi (f : Fields)
  | vbytesel (f : Fields)
  | vrcp (f : Fields)
  | vrsqrt (f : Fields)
  | vsqrt (f : Fields)
  | vexp2 (f : Fields)
  | vlog2 (f : Fields)
  | vsin (f : Fields)
  | vcos (f : Fields)
  | vtanh (f : Fields)
  | vrint (f : Fields)
  | vfrac (f : Fields)
  | vldexp (f : Fields)
  | vgetexp (f : Fields)
  | vclass (f : Fields)
  | vcpsgn (f : Fields)
  | vcvt (f : Fields)
  | vcvtp (f : Fields)
  | vqn8 (f : Fields)
  | vqn4 (f : Fields)
  | vbpack (f : Fields)
  | vbunpack (f : Fields)
  | vbscale (f : Fields)
  | vbfmt (f : Fields)
  | vbzero (f : Fields)
  | vcairn (f : Fields)
  | vshfl (f : Fields)
  | vshfup (f : Fields)
  | vshfdn (f : Fields)
  | vshfx (f : Fields)
  | vballot (f : Fields)
  | vpoll (f : Fields)
  | vredadd (f : Fields)
  | vredmin (f : Fields)
  | vredmax (f : Fields)
  | vscan (f : Fields)
  | vmatch (f : Fields)
  | sadd (f : Fields)
  | ssub (f : Fields)
  | smul (f : Fields)
  | smulhi (f : Fields)
  | sdiv (f : Fields)
  | srem (f : Fields)
  | smin (f : Fields)
  | smax (f : Fields)
  | sabs (f : Fields)
  | sand (f : Fields)
  | sor (f : Fields)
  | sxor (f : Fields)
  | snot (f : Fields)
  | sshl (f : Fields)
  | sshr (f : Fields)
  | ssra (f : Fields)
  | srotl (f : Fields)
  | spopc (f : Fields)
  | sclz (f : Fields)
  | sbfe (f : Fields)
  | sbfi (f : Fields)
  | scmp (f : Fields)
  | ssel (f : Fields)
  | smov (f : Fields)
  | smovhi (f : Fields)
  | sget (f : Fields)
  | saddr (f : Fields)
  | sfirst (f : Fields)
  | nop (f : Fields)
  | bra (f : Fields)
  | brai (f : Fields)
  | bany (f : Fields)
  | ball (f : Fields)
  | bdiv (f : Fields)
  | join (f : Fields)
  | call (f : Fields)
  | ret (f : Fields)
  | pause (f : Fields)
  | exit (f : Fields)
  | reorder (f : Fields)
  | spawn (f : Fields)
  | callr (f : Fields)
  | rep (f : Fields)
  | ld (f : Fields)
  | st (f : Fields)
  | ldsp (f : Fields)
  | stsp (f : Fields)
  | ldcl (f : Fields)
  | stcl (f : Fields)
  | sld (f : Fields)
  | sst (f : Fields)
  | ldb (f : Fields)
  | stb (f : Fields)
  | recld (f : Fields)
  | recinv (f : Fields)
  | pref (f : Fields)
  | resid (f : Fields)
  | sptest (f : Fields)
  | acopy (f : Fields)
  | awrite (f : Fields)
  | agather (f : Fields)
  | ascatter (f : Fields)
  | astage (f : Fields)
  | afill (f : Fields)
  | ahut (f : Fields)
  | asummit (f : Fields)
  | hwait (f : Fields)
  | htest (f : Fields)
  | hpass (f : Fields)
  | hcancel (f : Fields)
  | barinit (f : Fields)
  | barexp (f : Fields)
  | mnop (f : Fields)
  | mzero (f : Fields)
  | mmac (f : Fields)
  | mldacc (f : Fields)
  | mdrain (f : Fields)
  | mdradd (f : Fields)
  | mbarw (f : Fields)
  | mbara (f : Fields)
  | mringw (f : Fields)
  | mrings (f : Fields)
  | mset (f : Fields)
  | msetBexp (f : Fields)
  | msetRing (f : Fields)
  | madd (f : Fields)
  | mloop (f : Fields)
  | mbra (f : Fields)
  | mexit (f : Fields)
  | mseed (f : Fields)
  | gadd (f : Fields)
  | gaddf (f : Fields)
  | gmin (f : Fields)
  | gmax (f : Fields)
  | gand (f : Fields)
  | gor (f : Fields)
  | gxor (f : Fields)
  | gxchg (f : Fields)
  | gcas (f : Fields)
  | ginc (f : Fields)
  | padd (f : Fields)
  | paddf (f : Fields)
  | pmin (f : Fields)
  | pmax (f : Fields)
  | pxchg (f : Fields)
  | pcas (f : Fields)
  | fence (f : Fields)
  | nbarr (f : Fields)
  | nbwait (f : Fields)
  | ringw (f : Fields)
  | rings (f : Fields)
  | barwait (f : Fields)
  | sread (f : Fields)
  | swrite (f : Fields)
  | trap (f : Fields)
  | isync (f : Fields)
  | icinv (f : Fields)
  | brk (f : Fields)
  | diagrd (f : Fields)
  | diagwr (f : Fields)
  | errinj (f : Fields)
  | hadd (t : BitVec 2) (d a b : BitVec 5)
  | hsub (t : BitVec 2) (d a b : BitVec 5)
  | hmul (t : BitVec 2) (d a b : BitVec 5)
  | hfma (t : BitVec 2) (d a b c : BitVec 5)
  | hmin (t : BitVec 2) (d a b : BitVec 5)
  | hmax (t : BitVec 2) (d a b : BitVec 5)
  | habs (t : BitVec 2) (d a : BitVec 5)
  | hand (d a b : BitVec 5)
  | hor (d a b : BitVec 5)
  | hxor (d a b : BitVec 5)
  | hshl (t : BitVec 2) (d a b : BitVec 5)
  | hshr (t : BitVec 2) (d a b : BitVec 5)
  | hcmp (t : BitVec 2) (d a b : BitVec 5) (cc : BitVec 3)
  | hsel (d a b c : BitVec 5)
  | hcvt (t : BitVec 2) (d a : BitVec 5) (u : BitVec 2)
  | hmov (d a : BitVec 5)
  | hbcast (d a : BitVec 5) (e : BitVec 3)
  | hsum (t : BitVec 2) (d a : BitVec 5)
  | hld (d k : BitVec 5) (n : BitVec 2)
  | hst (src k : BitVec 5) (n : BitVec 2)
  | hseti (t : BitVec 2) (d : BitVec 5) (imm : BitVec 19)
  | hloop (lv cs : Bool) (n : BitVec 12) (bl : BitVec 7)
  | hidx (t : BitVec 2) (d : BitVec 5) (sel : BitVec 2)
  | hnop
  | hend
  | icacheFill (core ctx line : Nat) (glitch : BitVec 5)
  | perst (port : Fin 2)
  | meminit (ok : Bool)
  | fabricTrain (ok : Bool)
  | planeDark (plane : Fin 4)
  | planeLit (plane : Fin 4)
  | containerLoad (vf ctr : Nat) (image : List Byte) (places : List (Nat × Nat))
  | registerWrite (fn : Fn) (off : Nat) (value : BitVec 64)
  | deviceStatusReset (vf : Nat)
  | vfFunctionLevelReset (vf : Nat)
  | pfFunctionLevelReset (pf : Fin 2)
  | featuresOk (fn : Fn) (accepted : BitVec 128)
  | driverOk (fn : Fn)
  | vfEnable (pf : Fin 2) (on : Bool)
  | numvfsWrite (pf : Fin 2) (n : Nat)
  | notify (fn : Fn) (queue : Nat) (posted : List Chain)
  | queueReset (vf queue : Nat)
  | launch (vf queue : Nat)
  | signal (vf queue : Nat)
  | createPart (pf : Fin 2)
  | createVf (pf : Fin 2)
  | destroyVf (pf : Fin 2)
  | clusterPlace (chiplet : Nat)
  | eventDeliver (vf : Nat)
  | laneFailure (quad lane : Nat)
  | laneSteer (quad : Nat)
  | laneGo (pf : Fin 2) (quad lane : Nat)
  | compactionTimeout (team : TeamRef) (entry : Nat)
  | emittedGroupPlace (team : TeamRef)
  | reorderTimeout (team : TeamRef) (slot : Nat)
  | spawnPoolEmit (team : TeamRef)
  | spawnLeftoverTimeout (team : TeamRef) (slot : Nat)
  | lodgeReply (quad entry : Nat) (error : Bool)
  | lodgeTimeout (quad entry : Nat)
  | scratchpadLoadReturn (quad op : Nat)
  | pageWalk (core ctx page : Nat)
  | storeQueueDrain (quad place : Nat)
  | bellDeliver (chiplet : Nat)
  | signatureRebuild (core : Nat)
  | homeRead (stack : Nat)
  | homeOwnership (stack : Nat)
  | homeNotice (stack : Nat)
  | homeAtomic (stack : Nat)
  | homeHutRead (stack : Nat)
  | homeHst (stack : Nat)
  | homeUncachedRead (stack : Nat)
  | forward (chiplet : Nat)
  | noticeAck (chiplet block : Nat)
  | snpinv (port : Fin 2) (block : Nat)
  | snpdata (port : Fin 2) (block : Nat)
  | snpcur (port : Fin 2) (block : Nat)
  | cxlCacheResponse (port : Fin 2) (block : Nat) (granted : Mesi) (data : List Byte)
  | hostM2sRequest (port : Fin 2) (block : Nat) (req : HostReq)
  | birsp (port : Fin 2) (block : Nat) (data : Option (List Byte))
  | peerRequest (port pa : Nat) (req : PeerReq)
  | fecWindowEnd (lane : LaneRef) (corrected : Nat)
  | resend (dir : DirRef) (charged : List Nat)
  | laneDrainEnd (lane : LaneRef)
  | laneTrainPass (lane : LaneRef)
  | laneTrainFail (lane : LaneRef)
  | laneHandback (lane : LaneRef)
  | colourLost (dir : DirRef) (colour : Fin 2)
  | colourRegained (dir : DirRef) (colour : Fin 2)
  | routingApply (dir : DirRef)
  | storeDarkTimeout (quad place : Nat)
  | asyncDarkTimeout (cmd : Nat)
  | walkDarkTimeout (core ctx page : Nat)
  | hostDarkTimeout (port : Fin 2) (block : Nat)
  | peerDarkTimeout (port pa : Nat)
  | noticeResend (chiplet block : Nat)
  | asyncAccept (core : Nat)
  | asyncBlockWrite (cmd : Nat)
  | asyncComplete (cmd : Nat)
  | ahutLoad (core : Nat)
  | ahutRun (core : Nat)
  | ahutReduce (core : Nat)
  | asummitPred (core : Nat)
  | asummitTopk (core : Nat)
  | hutLoadArrive (hut cmd : Nat)
  | hutCommandStart (hut : Nat)
  | commandSlotGrant (stack channel : Nat)
  | hutDeadline (cmd : Nat)
  | summitScanDone (stack cmd : Nat)
  | stackListArrive (stack cmd : Nat)
  | drainCapture (team : TeamRef) (slot acc : Nat)
  | drainEntry (team : TeamRef) (slot acc : Nat)
  | draddApply (tile : Nat)
  | draddLateFailure (tile : Nat)
  | preempt (vf : Nat)
  | haltComplete (quad : Nat)
  | resumego (vf : Nat)
  | restoreComplete (quad : Nat)
  | runstateRunning (vf : Nat)
  | runstateDesched (vf : Nat)
  | runstatePaused (vf : Nat)
  | kick (vf : Nat)
  | trapResume (ctx : Nat)
  | trapRelaunch (ctx : Nat)
  | trapEnd (ctx : Nat)
  | brkResume (ctx : Nat)
  | verifyTimeout (quad place : Nat)
  | invalidateGo (ctx : Nat)
  | invalidateComplete (ctx : Nat)
  | harvestGo (ctx : Nat)
  | harvestComplete (ctx : Nat)
  | collapseBegin (vf : Nat)
  | collapseComplete (vf : Nat)
  | wakeComplete (vf : Nat)
  | selfRefreshEntry (stack : Nat)
  | monitorClr (monitor : Nat)
  | linkUp (pf : Fin 2) (cxl : Bool)
  | arrayFree (quad : Nat)
  | icacheLinesDropped (quad place : Nat)
  | powerOn
  | oobReset
  | bootRom
  | fwverify
  | repair
  | junctionThrottle
  | junctionRecover
  | thermalTrip
  | priorityAging
  | energyRefill
  deriving DecidableEq, Repr

end Sys2Proof
end

