-- ==== Sys2Proof/Machine/Forms.lean ====
section
/-! DEFINITION. The forms of the instructions: when an instruction word is legal (R112 to R119, and the encoding rules of R136, R144, R154, R156,
R188, R242, R255, R332), with the reason recorded when it is not; and when a hut word is legal (R280, R281). -/
namespace Sys2Proof

/-- Illegal-instruction reasons in ascending code order (R119). -/
inductive Ill where
  | role | op | guard | spec | reg | mod | imm | pfx
  deriving DecidableEq, Repr

/-- The code of a reason (R119). -/
def Ill.code : Ill → BitVec 8
  | .role => 0x10 | .op => 0x11 | .guard => 0x12 | .spec => 0x13 | .reg => 0x14 | .mod => 0x15 | .imm => 0x16 | .pfx => 0x17

/-- Who issues (R115). -/
inductive Role where
  | vector | porter | sequencer
  deriving DecidableEq, Repr

/-- What the checks of R119 need of the issuer: its role, REGS, RINGS, whether its team has a matrix stream. -/
structure IssueCtx where
  role : Role
  regs : Nat
  rings : Nat
  matrix : Bool
  deriving DecidableEq, Repr

namespace Operand

def isV : Operand → Bool | .v _ => true | _ => false
def isS : Operand → Bool | .s _ => true | _ => false
def isP : Operand → Bool | .p _ => true | _ => false
def isH : Operand → Bool | .h _ => true | _ => false
def isB : Operand → Bool | .b _ => true | _ => false
def isA : Operand → Bool | .a _ => true | _ => false
def isDp : Operand → Bool | .dp _ => true | _ => false
def isImm : Operand → Bool | .imm _ => true | _ => false
def isNone : Operand → Bool | .none => true | _ => false
def isConst : Operand → Bool | .const _ => true | _ => false

/-- Special registers the table of R345 lists. -/
def knownSpecial (n : Nat) : Bool := n ≤ 9 || (16 ≤ n && n ≤ 20) || n == 24 || n == 25
/-- Special registers held per thread (R345). -/
def perThread (n : Nat) : Bool := n ≤ 3 || n == 16
/-- Special registers a sequencer may name (R186). -/
def seqSpecial (n : Nat) : Bool := (4 ≤ n && n ≤ 9) || n == 18 || n == 19

/-- A listed special register. -/
def isSpecial : Operand → Bool | .special n => knownSpecial n.toNat | _ => false
/-- A listed special register with one value for the whole group. -/
def isGroupSpecial : Operand → Bool | .special n => knownSpecial n.toNat && !perThread n.toNat | _ => false
/-- A special register permitted in the matrix stream. -/
def isSeqSpecial : Operand → Bool | .special n => seqSpecial n.toNat | _ => false

/-- A per-lane value (R242, R332). -/
def isValue (o : Operand) : Bool := o.isV || o.isS || o.isConst || o.isSpecial
/-- A once-per-group value (R242, R255, R332). -/
def isGroupValue (o : Operand) : Bool := o.isS || o.isConst || o.isGroupSpecial
/-- A source of a scalar instruction (R136). -/
def isScalar (o : Operand) : Bool := o.isS || o.isConst || o.isGroupSpecial || o.isImm
/-- A source of a vector instruction (R156). -/
def isVecSrc (immOk : Bool) (o : Operand) : Bool :=
  o.isV || o.isS || o.isConst || o.isSpecial || o.isDp || (immOk && o.isImm)
/-- A value of the matrix stream (R188). -/
def isSeqValue (immOk : Bool) (o : Operand) : Bool := o.isS || o.isConst || o.isSeqSpecial || (immOk && o.isImm)

/-- The v-register an operand names keeps within REGS over `w` registers and is a multiple of `al` (R119 ILLREG). -/
def regOk (regs w al : Nat) : Operand → Bool
  | .v n => n.toNat + w ≤ regs && n.toNat % al == 0
  | _ => true

end Operand

namespace Fields

def type (f : Fields) : Nat := (f.mod >>> 3).toNat
def rnd (f : Fields) : Nat := f.mod.toNat % 8
def scope (f : Fields) : Nat := f.mod.toNat % 8
def ord (f : Fields) : Nat := f.mod.toNat / 8 % 4
def m5 (f : Fields) : Bool := f.mod.getLsbD 5
def m (f : Fields) (i : Nat) : Bool := f.mod.getLsbD i
def i (f : Fields) (hi lo : Nat) : Nat := bitsOf f.imm.toNat hi lo
/-- The signed 24-bit displacement of R242. -/
def disp (f : Fields) : Int := sextNat 24 (f.imm.toNat / 256)
/-- A source names the IMM reference. -/
def usesImm (f : Fields) : Bool := f.a.isImm || f.b.isImm || f.c.isImm
/-- No guard (R112). -/
def unguarded (f : Fields) : Bool := f.pg == { neg := false, p := 7 }
/-- The reserved guard 0b1111 (R112). -/
def badGuard (f : Fields) : Bool := f.pg == { neg := true, p := 7 }
/-- IMM is 0 unless a source names the IMM reference (R156, R119 ILLIMM). -/
def immFree (f : Fields) : Bool := f.usesImm || f.imm == 0
/-- A 64-bit TYPE (R116). -/
def wide (f : Fields) : Bool := f.type == 5 || f.type == 6
def dps (f : Fields) : Nat := (if f.a.isDp then 1 else 0) + (if f.b.isDp then 1 else 0) + (if f.c.isDp then 1 else 0)

end Fields

/-- The rules of one instruction: class, opcode, per-lane guard, vector issuers only, and its checks of specifiers,
registers, MOD and IMM. -/
structure Form where
  cls : Cls
  op : Nat
  guarded : Bool
  vectorOnly : Bool
  spec : IssueCtx → Fields → Bool
  regs : Fields → List (Operand × Nat × Nat)
  modOk : Fields → Bool
  immOk : IssueCtx → Fields → Bool

/-- Which rounding field a float instruction accepts. -/
inductive Rnd where
  | modes | zero
  deriving DecidableEq, Repr

/-- MOD of a vector instruction (R115, R116, R156): accepted types, rounding field, whether `.sat` is shown. -/
def vecMod (types : List Nat) (r : Rnd) (sat : Bool) (f : Fields) : Bool :=
  types.contains f.type &&
    (if f.type ≤ 2 then (match r with | .modes => f.rnd ≤ 4 | .zero => f.rnd == 0)
     else f.rnd == 0 || (sat && f.rnd == 1))

/-- Float types, integer types, and all types (R156). -/
def tF : List Nat := [0, 1, 2]
def tI : List Nat := [3, 4, 5, 6, 7]
def tAny : List Nat := [0, 1, 2, 3, 4, 5, 6, 7]

/-- Drain-port conditions (R161). -/
def dpOk (k : IssueCtx) (f : Fields) : Bool :=
  f.dps == 0 || (f.dps == 1 && (f.type == 0 || f.type == 3 || f.type == 4) && k.matrix && decide (k.role = .vector))

/-- Register widths of a TYPE: 64-bit types take even pairs (R47, R157). -/
def vw (f : Fields) (o : Operand) : Operand × Nat × Nat := if f.wide then (o, 2, 2) else (o, 1, 1)

/-- A plain vector instruction with `n` sources (R156, R163, R166). -/
def vecForm (op n : Nat) (types : List Nat) (r : Rnd) (sat : Bool) : Form :=
  { cls := .vec, op := op, guarded := true, vectorOnly := true
    spec := fun k f => f.d.isV && f.a.isVecSrc true && (if 2 ≤ n then f.b.isVecSrc true else f.b.isNone) &&
      (if 3 ≤ n then f.c.isVecSrc true else f.c.isNone) && dpOk k f
    regs := fun f => [vw f f.d, vw f f.a, vw f f.b, vw f f.c]
    modOk := vecMod types r sat
    immOk := fun _ f => f.immFree }

/-- A vector instruction whose IMM has a meaning of its own. -/
def vecImm (op : Nat) (spec : Fields → Bool) (regs : Fields → List (Operand × Nat × Nat)) (modOk immOk : Fields → Bool) : Form :=
  { cls := .vec, op := op, guarded := true, vectorOnly := true, spec := fun k f => spec f && dpOk k f, regs := regs,
    modOk := modOk, immOk := fun _ f => immOk f }

/-- Sources without the IMM reference, `n` of them. -/
def src (n : Nat) (f : Fields) : Bool :=
  f.a.isVecSrc false && (if 2 ≤ n then f.b.isVecSrc false else f.b.isNone) && (if 3 ≤ n then f.c.isVecSrc false else f.c.isNone)

/-- One register each. -/
def w1 (f : Fields) : List (Operand × Nat × Nat) := [(f.d, 1, 1), (f.a, 1, 1), (f.b, 1, 1), (f.c, 1, 1)]

/-- Format codes a block instruction packs (R176). -/
def packFmt (x : Nat) : Bool := x == 0x10 || x == 0x11 || x == 0x20 || x == 0x21

/-- The registers `vbpack` reads from A on (R176). -/
def packRegs (x : Nat) : Nat := if x == 0x10 then 4 else if x == 0x11 then 8 else 2

/-- A float source or destination code of `vcvt` (R172). -/
def cvtFloat (f : Fields) : Bool := f.type ≤ 2 || f.i 3 0 ≤ 2
/-- The stochastic form of `vcvt` (R172). -/
def cvtSr (f : Fields) : Bool := f.type == 0 && f.i 3 0 == 2 && f.rnd == 5
/-- The destination code equals the source type (R172). -/
def cvtSame (f : Fields) : Bool := f.type == f.i 3 0

/-- A scalar instruction with `n` sources (R136). -/
def sclForm (op n : Nat) (modOk : Fields → Bool) : Form :=
  { cls := .scl, op := op, guarded := false, vectorOnly := false
    spec := fun _ f => f.d.isS && f.a.isScalar && (if 2 ≤ n then f.b.isScalar else f.b.isNone) &&
      (if 3 ≤ n then f.c.isScalar else f.c.isNone)
    regs := fun _ => []
    modOk := modOk
    immOk := fun _ f => f.immFree }

def modMax (n : Nat) (f : Fields) : Bool := f.mod.toNat ≤ n

/-- A direct target's slot is 0 to 4 (R104). -/
def targetOk (f : Fields) : Bool := f.i 2 0 ≤ 4

/-- Link and indirect target operands (R144). -/
def isLink (o : Operand) : Bool := o.isV || o.isS
def isTarget (o : Operand) : Bool := o.isV || o.isS || o.isImm

/-- A control instruction (R144). -/
def ctlForm (op : Nat) (guarded vectorOnly : Bool) (spec : Fields → Bool) (regs : Fields → List (Operand × Nat × Nat))
    (modN : Nat) (immOk : Fields → Bool) : Form :=
  { cls := .ctl, op := op, guarded := guarded, vectorOnly := vectorOnly, spec := fun _ f => spec f, regs := regs,
    modOk := fun f => f.mod.toNat ≤ modN, immOk := fun _ f => immOk f }

def noOps (f : Fields) : Bool := f.d.isNone && f.a.isNone && f.b.isNone && f.c.isNone

/-- MOD of a memory instruction (R242): its accepted order, and MOD[5]. -/
def memMod (ordOk : Nat) (hint : Bool) (f : Fields) : Bool :=
  f.scope ≠ 7 && (f.ord == 0 || f.ord == ordOk) && (f.ord ≠ 0 || f.scope == 0) && (hint || !f.m5)

/-- Access width and SX (R243): `sx` lists the widths that may set SX, `top` the widest code. -/
def widthOk (top : Nat) (sx : List Nat) (f : Fields) : Bool :=
  f.i 2 0 ≤ top && (f.i 3 3 == 0 || sx.contains (f.i 2 0)) && f.i 7 4 == 0

/-- Registers of a lane load or store's D (R243). -/
def dataRegs (f : Fields) : Operand × Nat × Nat :=
  if f.i 2 0 == 3 then (f.d, 2, 2) else if f.i 2 0 == 4 then (f.d, 4, 4) else (f.d, 1, 1)

/-- A per-lane access through a record (R246). -/
def memRec (op : Nat) (store : Bool) : Form :=
  { cls := .mem, op := op, guarded := true, vectorOnly := true
    spec := fun _ f => f.d.isV && f.a.isB && f.b.isValue && (f.c.isNone || f.c.isValue)
    regs := fun f => [dataRegs f, (f.b, 1, 1), (f.c, 1, 1)]
    modOk := memMod (if store then 2 else 1) false
    immOk := fun _ f => widthOk 4 (if store then [] else [0, 1]) f }

/-- A per-lane scratchpad access (R246). -/
def memSpad (op : Nat) (store : Bool) : Form :=
  { cls := .mem, op := op, guarded := true, vectorOnly := true
    spec := fun _ f => f.d.isV && f.a.isValue && f.b.isNone && f.c.isNone
    regs := fun f => [dataRegs f, (f.a, 1, 1)]
    modOk := memMod (if store then 2 else 1) false
    immOk := fun _ f => widthOk 4 (if store then [] else [0, 1]) f }

/-- A tensor-block access (R246). -/
def memBlock (op : Nat) (store : Bool) : Form :=
  { cls := .mem, op := op, guarded := true, vectorOnly := true
    spec := fun _ f => f.d.isV && f.a.isB && f.b.isValue && f.c.isNone
    regs := fun f => [(f.d, 1, 1), (f.b, 1, 1)]
    modOk := memMod (if store then 2 else 1) false
    immOk := fun _ f => f.imm == 0 }

/-- A once-per-group access (R249, R250). -/
def memGroup (op : Nat) (d : Operand → Bool) (store : Bool) (immOk : Fields → Bool) : Form :=
  { cls := .mem, op := op, guarded := false, vectorOnly := true
    spec := fun _ f => d f.d && f.a.isB && f.b.isGroupValue && (f.c.isNone || f.c.isGroupValue)
    regs := fun _ => []
    modOk := memMod (if store then 2 else 1) false
    immOk := fun _ f => immOk f }

/-- A hint (R252). -/
def memHint (op : Nat) : Form :=
  { cls := .mem, op := op, guarded := true, vectorOnly := true
    spec := fun _ f => f.d.isNone && f.a.isB && f.b.isValue && (f.c.isNone || f.c.isValue)
    regs := fun f => [(f.b, 1, 1), (f.c, 1, 1)]
    modOk := fun f => f.mod.toNat % 32 == 0
    immOk := fun _ f => f.i 7 0 == 0 }

/-- A command (R255, R260): the operands of its row, whether MOD[5] is used, and the bits of IMM[15:0] it uses. -/
def cmdForm (op : Nat) (a b c : Fields → Bool) (m5 : Bool) (imm : Nat → Bool) : Form :=
  { cls := .asy, op := op, guarded := false, vectorOnly := false
    spec := fun _ f => (f.d.isH || f.d.isNone) && a f && b f && c f
    regs := fun _ => []
    modOk := fun f => f.scope ≠ 7 && (f.ord ≠ 0 || f.scope == 0) && (m5 || !f.m5)
    immOk := fun _ f => (f.i 31 31 == 1 || f.i 30 16 == 0) && imm (f.i 15 0) }

/-- A handle or barrier-object instruction (R269, R272). -/
def asyForm (op : Nat) (spec : Fields → Bool) (modOk : Fields → Bool) (immOk : IssueCtx → Fields → Bool) : Form :=
  { cls := .asy, op := op, guarded := false, vectorOnly := false, spec := fun _ f => spec f, regs := fun _ => [],
    modOk := modOk, immOk := immOk }

/-- A matrix-stream instruction (R188, R189). -/
def mtxForm (op : Nat) (spec : Fields → Bool) (modN : Nat) (immOk : IssueCtx → Fields → Bool) : Form :=
  { cls := .mtx, op := op, guarded := false, vectorOnly := false, spec := fun _ f => spec f, regs := fun _ => [],
    modOk := fun f => f.mod.toNat ≤ modN, immOk := immOk }

/-- A memory-side atomic (R332, R333). -/
def gForm (op : Nat) (u cas : Bool) (top : Nat) : Form :=
  { cls := .sys, op := op, guarded := true, vectorOnly := false
    spec := fun _ f => (f.d.isV || (f.d.isNone && !cas)) && f.a.isB && f.b.isValue && f.c.isValue
    regs := fun f => if f.i 2 0 == 3 then [(f.d, 2, 2), (f.b, 1, 1), (f.c, 2, 2)] else [(f.d, 1, 1), (f.b, 1, 1), (f.c, 1, 1)]
    modOk := fun f => f.scope ≠ 7 && (u || !f.m5)
    immOk := fun _ f => 2 ≤ f.i 2 0 && f.i 2 0 ≤ top && f.i 7 3 == 0 }

/-- A scratchpad atomic (R332, R333). -/
def pForm (op : Nat) (u cas : Bool) (top : Nat) : Form :=
  { cls := .sys, op := op, guarded := true, vectorOnly := false
    spec := fun _ f => (f.d.isV || (f.d.isNone && !cas)) && f.a.isValue && f.b.isValue && f.c.isNone
    regs := fun f => if f.i 2 0 == 3 then [(f.d, 2, 2), (f.a, 1, 1), (f.b, 2, 2)] else [(f.d, 1, 1), (f.a, 1, 1), (f.b, 1, 1)]
    modOk := fun f => f.scope ≠ 7 && (u || !f.m5)
    immOk := fun _ f => 2 ≤ f.i 2 0 && f.i 2 0 ≤ top && f.i 7 4 == 0 }

/-- A once-per-group system instruction (R332). -/
def sysForm (op : Nat) (spec : Fields → Bool) (regs : Fields → List (Operand × Nat × Nat)) (modOk : Fields → Bool)
    (immOk : IssueCtx → Fields → Bool) : Form :=
  { cls := .sys, op := op, guarded := false, vectorOnly := false, spec := fun _ f => spec f, regs := regs, modOk := modOk,
    immOk := immOk }

/-- The form of each instruction of the 96-bit word, with its fields (R117, R139, R144, R163, R166, R168, R170, R172 to
R180, R189, R205, R246 to R253, R260, R269, R272, R332). Rows without an encoding have none. Which rounding codes `vshfl`, `vshfup`, `vshfdn`, `vshfx`,
`vmatch`, `vredmin` and `vredmax` take for a float type is the model's reading (DEDUCED, log 29). -/
def Instr.form : Instr → Option (Form × Fields)
  | .vadd f => some (vecForm 0x000 2 tAny .modes true, f)
  | .vsub f => some (vecForm 0x001 2 tAny .modes true, f)
  | .vmul f => some (vecForm 0x002 2 tAny .modes true, f)
  | .vmulhi f => some (vecForm 0x003 2 tI .zero false, f)
  | .vmad f => some (vecForm 0x004 3 tI .zero true, f)
  | .vfma f => some (vecForm 0x005 3 tF .modes false, f)
  | .vfms f => some (vecForm 0x006 3 tF .modes false, f)
  | .vfnma f => some (vecForm 0x007 3 tF .modes false, f)
  | .vdiv f => some (vecForm 0x008 2 tAny .modes false, f)
  | .vrem f => some (vecForm 0x009 2 tI .zero false, f)
  | .vmin f => some (vecForm 0x00A 2 tAny .zero false, f)
  | .vmax f => some (vecForm 0x00B 2 tAny .zero false, f)
  | .vabs f => some (vecForm 0x00C 1 [0, 1, 2, 3, 5, 7] .modes true, f)
  | .vneg f => some (vecForm 0x00D 1 [0, 1, 2, 3, 5, 7] .modes true, f)
  | .vclamp f => some (vecForm 0x00E 3 tAny .zero false, f)
  | .vavg f => some (vecForm 0x00F 2 tI .zero false, f)
  | .vsad f => some (vecForm 0x010 3 [3, 4] .zero true, f)
  | .vdot4 f => some (vecForm 0x011 3 [3, 4] .zero true, f)
  | .vdot2 f => some (vecForm 0x012 3 [7, 1, 2] .modes true, f)
  | .vsetp f => some ({ cls := .vec, op := 0x013, guarded := true, vectorOnly := true
                        spec := fun k f => f.d.isP && f.a.isVecSrc false && f.b.isVecSrc false &&
                          (if f.i 5 4 == 0 then f.c.isNone else f.c.isP) && dpOk k f
                        regs := fun f => [vw f f.a, vw f f.b]
                        modOk := vecMod [0, 3, 4, 5, 6] .zero false
                        immOk := fun _ f => f.i 31 6 == 0 && f.i 3 0 ≤ (if f.type == 0 then 7 else 5) }, f)
  | .vsel f => some ({ cls := .vec, op := 0x014, guarded := true, vectorOnly := true
                       spec := fun k f => f.d.isV && f.a.isVecSrc true && f.b.isVecSrc true && f.c.isP && dpOk k f
                       regs := fun f => [vw f f.d, vw f f.a, vw f f.b]
                       modOk := vecMod tAny .zero false
                       immOk := fun _ f => f.immFree }, f)
  | .vmov f => some (vecForm 0x015 1 tAny .zero false, f)
  | .vand f => some (vecForm 0x016 2 tI .zero false, f)
  | .vor f => some (vecForm 0x017 2 tI .zero false, f)
  | .vxor f => some (vecForm 0x018 2 tI .zero false, f)
  | .vnot f => some (vecForm 0x019 1 tI .zero false, f)
  | .vlut3 f => some (vecImm 0x01A (fun f => f.d.isV && src 3 f) (fun f => [vw f f.d, vw f f.a, vw f f.b, vw f f.c])
                        (vecMod tI .zero false) (fun f => f.i 31 8 == 0), f)
  | .vshl f => some (vecForm 0x01B 2 tI .zero false, f)
  | .vshr f => some (vecForm 0x01C 2 tI .zero false, f)
  | .vsra f => some (vecForm 0x01D 2 tI .zero false, f)
  | .vrotl f => some (vecForm 0x01E 2 tI .zero false, f)
  | .vfsh f => some (vecForm 0x01F 3 [3, 4] .zero false, f)
  | .vpopc f => some (vecForm 0x020 1 tI .zero false, f)
  | .vclz f => some (vecForm 0x021 1 tI .zero false, f)
  | .vbrev f => some (vecForm 0x022 1 tI .zero false, f)
  | .vbfe f => some (vecForm 0x023 3 [3, 4, 5, 6] .zero false, f)
  | .vbfi f => some (vecForm 0x024 3 [3, 4, 5, 6] .zero false, f)
  | .vbytesel f => some (vecForm 0x025 3 [4] .zero false, f)
  | .vrcp f => some (vecForm 0x040 1 tF .zero false, f)
  | .vrsqrt f => some (vecForm 0x041 1 tF .zero false, f)
  | .vsqrt f => some (vecForm 0x042 1 tF .modes false, f)
  | .vexp2 f => some (vecForm 0x043 1 tF .zero false, f)
  | .vlog2 f => some (vecForm 0x044 1 tF .zero false, f)
  | .vsin f => some (vecForm 0x045 1 tF .zero false, f)
  | .vcos f => some (vecForm 0x046 1 tF .zero false, f)
  | .vtanh f => some (vecForm 0x047 1 tF .zero false, f)
  | .vrint f => some (vecForm 0x048 1 tF .modes false, f)
  | .vfrac f => some (vecForm 0x049 1 tF .modes false, f)
  | .vldexp f => some (vecForm 0x04A 2 tF .modes false, f)
  | .vgetexp f => some (vecForm 0x04B 1 tF .zero false, f)
  | .vclass f => some (vecForm 0x04C 1 tF .zero false, f)
  | .vcpsgn f => some (vecForm 0x04D 2 tF .zero false, f)
  | .vcvt f => some (vecImm 0x080
      (fun f => f.d.isV && f.a.isVecSrc false &&
        (if cvtSr f then f.b.isValue && f.c.isValue else f.b.isNone && f.c.isNone))
      (fun f => [if f.i 3 0 == 5 || f.i 3 0 == 6 then (f.d, 2, 2) else (f.d, 1, 1), vw f f.a, (f.b, 1, 1), (f.c, 1, 1)])
      (fun f => if cvtFloat f then f.rnd ≤ 4 || cvtSr f else f.rnd ≤ 1)
      (fun f => f.i 3 0 ≤ 10 && !cvtSame f && f.i 15 4 == 0 && (cvtSr f || f.i 31 16 == 0)), f)
  | .vcvtp f => some (vecForm 0x081 2 [1, 2, 7] .modes true, f)
  | .vqn8 f => some (vecForm 0x082 2 [0] .zero false, f)
  | .vqn4 f => some (vecForm 0x083 2 [0] .zero false, f)
  | .vbpack f => some (vecImm 0x084 (fun f => f.d.isV && f.a.isV && f.b.isVecSrc false && f.c.isNone)
      (fun f => [(f.d, 1, 1), (f.a, packRegs (f.i 7 0), 1), (f.b, 1, 1)])
      (fun f => f.type == 0 && (if f.i 7 0 == 0x20 || f.i 7 0 == 0x21 then f.rnd ≤ 4 else f.rnd == 0))
      (fun f => f.i 31 8 == 0 && packFmt (f.i 7 0)), f)
  | .vbunpack f => some (vecImm 0x085 (fun f => f.d.isV && src 2 f) w1 (vecMod [0] .modes false) (fun f => f.i 31 3 == 0), f)
  | .vbscale f => some (vecImm 0x086 (fun f => f.d.isV && src 1 f) w1 (vecMod [0] .zero false)
      (fun f => f.i 31 8 == 0 && packFmt (f.i 7 0)), f)
  | .vbfmt f => some (vecForm 0x087 1 [4] .zero false, f)
  | .vbzero f => some (vecImm 0x088 (fun f => f.d.isV && f.a.isNone && f.b.isNone && f.c.isNone) w1 (vecMod [4] .zero false)
      (fun f => f.i 31 8 == 0 && (f.i 7 0 == 0x31 || f.i 7 0 == 0x32 || f.i 7 0 == 0x34)), f)
  | .vcairn f => some (vecImm 0x089 (fun f => f.d.isV && src 2 f) w1 (vecMod [4] .zero false) (fun f => f.i 31 16 == 0), f)
  | .vshfl f => some ({ vecForm 0x0C0 2 tAny .zero false with regs := fun f => [vw f f.d, vw f f.a, (f.b, 1, 1)] }, f)
  | .vshfup f => some ({ vecForm 0x0C1 2 tAny .zero false with regs := fun f => [vw f f.d, vw f f.a, (f.b, 1, 1)] }, f)
  | .vshfdn f => some ({ vecForm 0x0C2 2 tAny .zero false with regs := fun f => [vw f f.d, vw f f.a, (f.b, 1, 1)] }, f)
  | .vshfx f => some ({ vecForm 0x0C3 2 tAny .zero false with regs := fun f => [vw f f.d, vw f f.a, (f.b, 1, 1)] }, f)
  | .vballot f => some (vecImm 0x0C4 (fun f => f.d.isV && f.a.isP && f.b.isNone && f.c.isNone) w1
      (fun f => f.type == 4 && f.rnd ≤ 1) (fun f => f.imm == 0), f)
  | .vpoll f => some (vecImm 0x0C5 (fun f => f.d.isP && f.a.isP && f.b.isNone && f.c.isNone) w1
      (fun f => f.type == 0) (fun f => f.imm == 0), f)
  | .vredadd f => some (vecForm 0x0C6 1 tAny .modes true, f)
  | .vredmin f => some (vecForm 0x0C7 1 tAny .zero false, f)
  | .vredmax f => some (vecForm 0x0C8 1 tAny .zero false, f)
  | .vscan f => some (vecImm 0x0C9 (fun f => f.d.isV && src 1 f) (fun f => [vw f f.d, vw f f.a]) (vecMod tAny .modes true)
      (fun f => f.i 31 1 == 0), f)
  | .vmatch f => some (vecForm 0x0CA 1 tAny .zero false, f)
  | .sadd f => some (sclForm 0x000 2 (modMax 2), f)
  | .ssub f => some (sclForm 0x001 2 (modMax 2), f)
  | .smul f => some (sclForm 0x002 2 (modMax 0), f)
  | .smulhi f => some (sclForm 0x003 2 (modMax 1), f)
  | .sdiv f => some (sclForm 0x004 2 (modMax 1), f)
  | .srem f => some (sclForm 0x005 2 (modMax 1), f)
  | .smin f => some (sclForm 0x006 2 (modMax 1), f)
  | .smax f => some (sclForm 0x007 2 (modMax 1), f)
  | .sabs f => some (sclForm 0x008 1 (modMax 1), f)
  | .sand f => some (sclForm 0x009 2 (modMax 0), f)
  | .sor f => some (sclForm 0x00A 2 (modMax 0), f)
  | .sxor f => some (sclForm 0x00B 2 (modMax 0), f)
  | .snot f => some (sclForm 0x00C 1 (modMax 0), f)
  | .sshl f => some (sclForm 0x00D 2 (modMax 0), f)
  | .sshr f => some (sclForm 0x00E 2 (modMax 0), f)
  | .ssra f => some (sclForm 0x00F 2 (modMax 0), f)
  | .srotl f => some (sclForm 0x010 2 (modMax 0), f)
  | .spopc f => some (sclForm 0x011 1 (modMax 0), f)
  | .sclz f => some (sclForm 0x012 1 (modMax 0), f)
  | .sbfe f => some (sclForm 0x013 3 (modMax 1), f)
  | .sbfi f => some (sclForm 0x014 3 (modMax 0), f)
  | .scmp f => some ({ sclForm 0x015 2 (fun f => f.mod.toNat < 16 && f.mod.toNat % 8 ≤ 5) with
                       spec := fun _ f => f.d.isP && f.a.isScalar && f.b.isScalar && f.c.isNone }, f)
  | .ssel f => some (sclForm 0x016 3 (modMax 0), f)
  | .smov f => some (sclForm 0x017 1 (modMax 0), f)
  | .smovhi f => some ({ sclForm 0x018 0 (modMax 0) with
                         spec := fun _ f => f.d.isS && f.a.isNone && f.b.isNone && f.c.isNone, immOk := fun _ _ => true }, f)
  | .sget f => some ({ sclForm 0x019 2 (modMax 1) with
                       spec := fun _ f => f.d.isS && f.a.isV && f.b.isScalar && f.c.isNone
                       regs := fun f => [if f.m 0 then (f.a, 2, 2) else (f.a, 1, 1)] }, f)
  | .saddr f => some ({ sclForm 0x01A 3 (modMax 0) with
                        spec := fun _ f => f.d.isS && f.a.isB && f.b.isScalar && f.c.isScalar }, f)
  | .sfirst f => some ({ sclForm 0x01B 1 (modMax 1) with
                         spec := fun _ f => f.d.isS && f.a.isP && f.b.isNone && f.c.isNone }, f)
  | .nop f => some (ctlForm 0x000 false false noOps (fun _ => []) 0 (fun f => f.imm == 0), f)
  | .bra f => some (ctlForm 0x001 true false noOps (fun _ => []) 0 targetOk, f)
  | .brai f => some (ctlForm 0x002 true false (fun f => f.d.isNone && isTarget f.a && f.b.isNone && f.c.isNone)
      (fun f => [(f.a, 2, 2)]) 0 Fields.immFree, f)
  | .bany f => some (ctlForm 0x003 false false (fun f => f.d.isNone && f.a.isP && f.b.isNone && f.c.isNone) (fun _ => []) 1 targetOk, f)
  | .ball f => some (ctlForm 0x004 false false (fun f => f.d.isNone && f.a.isP && f.b.isNone && f.c.isNone) (fun _ => []) 1 targetOk, f)
  | .bdiv f => some (ctlForm 0x005 false true (fun f => f.d.isNone && f.a.isP && f.b.isNone && f.c.isNone) (fun _ => []) 1 targetOk, f)
  | .join f => some (ctlForm 0x006 false true noOps (fun _ => []) 0 (fun f => f.imm == 0), f)
  | .call f => some (ctlForm 0x007 true false (fun f => isLink f.d && f.a.isNone && f.b.isNone && f.c.isNone)
      (fun f => [(f.d, 2, 2)]) 0 targetOk, f)
  | .ret f => some (ctlForm 0x008 false false (fun f => f.d.isNone && isTarget f.a && f.b.isNone && f.c.isNone)
      (fun f => [(f.a, 2, 2)]) 0 Fields.immFree, f)
  | .pause f => some (ctlForm 0x009 false false noOps (fun _ => []) 0 (fun f => f.imm == 0), f)
  | .exit f => some (ctlForm 0x00A true false noOps (fun _ => []) 0 (fun f => f.imm == 0), f)
  | .reorder f => some (ctlForm 0x00B false true
      (fun f => f.d.isNone && f.a.isV && (f.b.isS || f.b.isConst || f.b.isImm) && f.c.isNone)
      (fun f => [(f.a, 1, 1)]) 0 Fields.immFree, f)
  | .spawn f => some (ctlForm 0x00C false false (fun f => f.d.isP && f.a.isV && f.b.isP && f.c.isNone)
      (fun f => [(f.a, 1, 1)]) 0 targetOk, f)
  | .callr f => some (ctlForm 0x00D true false (fun f => isLink f.d && isTarget f.a && f.b.isNone && f.c.isNone)
      (fun f => [(f.d, 2, 2), (f.a, 2, 2)]) 0 Fields.immFree, f)
  | .rep f => some ({ cls := .pfx, op := 0x000, guarded := false, vectorOnly := false, spec := fun _ f => noOps f,
                      regs := fun _ => [], modOk := fun _ => true, immOk := fun _ f => f.i 31 6 == 0 }, f)
  | .ld f => some (memRec 0x000 false, f)
  | .st f => some (memRec 0x001 true, f)
  | .ldsp f => some (memSpad 0x002 false, f)
  | .stsp f => some (memSpad 0x003 true, f)
  | .ldcl f => some (memSpad 0x004 false, f)
  | .stcl f => some (memSpad 0x005 true, f)
  | .sld f => some (memGroup 0x006 Operand.isS false (widthOk 3 [0, 1, 2]), f)
  | .sst f => some (memGroup 0x007 Operand.isS true (widthOk 3 []), f)
  | .ldb f => some (memBlock 0x008 false, f)
  | .stb f => some (memBlock 0x009 true, f)
  | .recld f => some (memGroup 0x00A Operand.isB false (fun f => f.i 7 0 == 0), f)
  | .recinv f => some ({ cls := .mem, op := 0x00B, guarded := false, vectorOnly := true, spec := fun _ f => noOps f,
                         regs := fun _ => [], modOk := fun f => f.scope ≠ 7 && f.mod.toNat < 8, immOk := fun _ f => f.imm == 0 }, f)
  | .pref f => some (memHint 0x00C, f)
  | .resid f => some (memHint 0x00D, f)
  | .sptest f => some ({ cls := .mem, op := 0x00E, guarded := true, vectorOnly := true
                         spec := fun _ f => f.d.isP && f.a.isValue && f.b.isNone && f.c.isNone
                         regs := fun f => [(f.a, 1, 1)], modOk := modMax 0, immOk := fun _ f => f.i 7 0 == 0 }, f)
  | .acopy f => some (cmdForm 0x000 (·.a.isGroupValue) (·.b.isGroupValue) (·.c.isNone) true (· ≤ 1), f)
  | .awrite f => some (cmdForm 0x001 (·.a.isB) (·.b.isGroupValue) (·.c.isGroupValue) false (· == 0), f)
  | .agather f => some (cmdForm 0x002 (·.a.isGroupValue) (·.b.isGroupValue) (·.c.isGroupValue) false (fun _ => true), f)
  | .ascatter f => some (cmdForm 0x003 (·.a.isGroupValue) (·.b.isGroupValue) (·.c.isGroupValue) false (fun _ => true), f)
  | .astage f => some (cmdForm 0x004 (·.a.isGroupValue) (·.b.isGroupValue) (·.c.isGroupValue) false (· ≤ 15), f)
  | .afill f => some (cmdForm 0x005 (·.a.isGroupValue) (fun f => if f.m5 then f.b.isNone else f.b.isGroupValue)
      (·.c.isGroupValue) true (· == 0), f)
  | .ahut f => some (cmdForm 0x006 (·.a.isGroupValue) (·.b.isNone) (·.c.isNone) false (· == 0), f)
  | .asummit f => some (cmdForm 0x007 (·.a.isGroupValue) (·.b.isNone) (·.c.isNone) false (· == 0), f)
  | .hwait f => some (asyForm 0x008 (fun f => f.d.isNone && f.a.isH && f.b.isNone && f.c.isNone) (modMax 0) (fun _ f => f.imm == 0), f)
  | .htest f => some (asyForm 0x009 (fun f => f.d.isS && f.a.isH && f.b.isNone && f.c.isNone) (modMax 0) (fun _ f => f.imm == 0), f)
  | .hpass f => some (asyForm 0x00A
      (fun f => f.d.isNone && f.a.isH && (if f.i 1 0 == 0 then f.b.isNone else f.b.isGroupValue) && f.c.isNone) (modMax 0)
      (fun k f => f.i 1 0 ≠ 3 && (if f.i 1 0 == 0 then f.i 31 6 == 0 else f.i 31 5 == 0 && f.i 4 2 < k.rings)), f)
  | .hcancel f => some (asyForm 0x00B (fun f => f.d.isNone && f.a.isH && f.b.isNone && f.c.isNone) (modMax 0) (fun _ f => f.imm == 0), f)
  | .barinit f => some (asyForm 0x00C (fun f => f.d.isNone && (f.a.isGroupValue || f.a.isImm) && (f.b.isGroupValue || f.b.isImm) && f.c.isNone)
      (modMax 0) (fun _ f => f.immFree), f)
  | .barexp f => some (asyForm 0x00D (fun f => f.d.isNone && (f.a.isGroupValue || f.a.isImm) && (f.b.isGroupValue || f.b.isImm) && f.c.isNone)
      (fun f => f.mod.toNat % 32 == 0) (fun _ f => f.immFree), f)
  | .mnop f => some (mtxForm 0x000 noOps 0 (fun _ f => f.imm == 0), f)
  | .mzero f => some (mtxForm 0x001 (fun f => f.d.isA && f.a.isNone && f.b.isNone && f.c.isNone) 0 (fun _ f => f.imm == 0), f)
  | .mmac f => some ({ mtxForm 0x002 (fun f => f.d.isA && f.a.isSeqValue false && f.b.isSeqValue false && f.c.isSeqValue false) 63
      (fun _ f => f.i 31 16 == 0 && f.i 15 0 ≠ 0) with modOk := fun f => f.mod.toNat % 8 ≤ 1 }, f)
  | .mldacc f => some (mtxForm 0x003 (fun f => f.d.isA && f.a.isSeqValue true && f.b.isNone && f.c.isNone) 0 (fun _ f => f.immFree), f)
  | .mdrain f => some (mtxForm 0x004 (fun f => f.d.isNone && f.a.isA && f.b.isNone && f.c.isNone) 3 (fun _ f => f.imm == 0), f)
  | .mdradd f => some (mtxForm 0x005 (fun f => f.d.isNone && f.a.isA && f.b.isS && f.c.isNone) 1
      (fun _ f => f.i 31 9 == 0 && f.i 3 2 == 0 && (f.i 8 8 == 1 || f.i 7 4 == 0)), f)
  | .mbarw f => some (mtxForm 0x006 noOps 0 (fun _ f => f.i 31 4 == 0), f)
  | .mbara f => some (mtxForm 0x007 noOps 0 (fun _ f => f.i 31 4 == 0), f)
  | .mringw f => some (mtxForm 0x008 (fun f => f.d.isNone && f.a.isSeqValue false && f.b.isNone && f.c.isNone) 0
      (fun k f => f.i 31 4 == 0 && f.i 2 0 < k.rings), f)
  | .mrings f => some (mtxForm 0x009 (fun f => f.d.isNone && f.a.isSeqValue false && f.b.isNone && f.c.isNone) 1
      (fun k f => f.i 31 3 == 0 && f.i 2 0 < k.rings), f)
  | .mset f => some (mtxForm 0x00A (fun f => f.b.isNone && f.c.isNone &&
      (if f.mod.toNat % 8 ≤ 2 then f.d.isS && f.a.isSeqValue true else (f.d.isNone || f.d.isS) && (f.a.isNone || f.a.isSeqValue true))) 0
      (fun _ f => f.immFree), f)
  | .msetBexp f => some ({ mtxForm 0x00A noOps 1 (fun _ f => f.i 31 16 == 0 && f.i 7 4 == 0 && f.i 15 8 ≠ 0) with
      modOk := fun f => f.mod.toNat == 1 }, f)
  | .msetRing f => some ({ mtxForm 0x00A noOps 2
      (fun k f => f.i 31 22 == 0 && f.i 15 14 == 0 && f.i 3 3 == 0 && f.i 2 0 < k.rings) with modOk := fun f => f.mod.toNat == 2 }, f)
  | .madd f => some (mtxForm 0x00B (fun f => f.d.isS && f.a.isSeqValue true && f.b.isSeqValue true && f.c.isNone) 0 (fun _ f => f.immFree), f)
  | .mloop f => some (mtxForm 0x00C (fun f => f.d.isS && f.a.isNone && f.b.isNone && f.c.isNone) 0 (fun _ => targetOk), f)
  | .mbra f => some (mtxForm 0x00D
      (fun f => f.d.isNone && f.c.isNone && (if f.mod.toNat % 8 == 6 then f.a.isNone && f.b.isNone
        else f.a.isSeqValue false && f.b.isSeqValue false)) 6 (fun _ => targetOk), f)
  | .mexit f => some (mtxForm 0x00E noOps 0 (fun _ f => f.imm == 0), f)
  | .mseed f => some (mtxForm 0x00F (fun f => f.d.isNone && f.a.isSeqValue true && f.b.isNone && f.c.isNone) 0 (fun _ f => f.immFree), f)
  | .gadd f => some (gForm 0x000 false false 3, f)
  | .gaddf f => some (gForm 0x001 false false 2, f)
  | .gmin f => some (gForm 0x002 true false 3, f)
  | .gmax f => some (gForm 0x003 true false 3, f)
  | .gand f => some (gForm 0x004 false false 3, f)
  | .gor f => some (gForm 0x005 false false 3, f)
  | .gxor f => some (gForm 0x006 false false 3, f)
  | .gxchg f => some (gForm 0x007 false false 3, f)
  | .gcas f => some (gForm 0x008 false true 3, f)
  | .ginc f => some (gForm 0x009 false false 3, f)
  | .padd f => some (pForm 0x010 false false 3, f)
  | .paddf f => some (pForm 0x011 false false 2, f)
  | .pmin f => some (pForm 0x012 true false 3, f)
  | .pmax f => some (pForm 0x013 true false 3, f)
  | .pxchg f => some (pForm 0x014 false false 3, f)
  | .pcas f => some (pForm 0x015 false true 3, f)
  | .fence f => some (sysForm 0x020 noOps (fun _ => []) (fun f => f.scope ≠ 7) (fun _ f => f.imm == 0), f)
  | .nbarr f => some (sysForm 0x021 noOps (fun _ => []) (fun f => f.mod.toNat % 32 == 0) (fun _ f => f.i 31 4 == 0), f)
  | .nbwait f => some (sysForm 0x022 noOps (fun _ => []) (modMax 0) (fun _ f => f.i 31 4 == 0), f)
  | .ringw f => some (sysForm 0x023 (fun f => f.d.isNone && f.a.isGroupValue && f.b.isNone && f.c.isNone) (fun _ => []) (modMax 0)
      (fun k f => f.i 31 4 == 0 && f.i 2 0 < k.rings), f)
  | .rings f => some (sysForm 0x024 (fun f => f.d.isNone && f.a.isGroupValue && f.b.isNone && f.c.isNone) (fun _ => [])
      (fun f => f.mod.toNat % 32 == 0) (fun k f => f.i 31 3 == 0 && f.i 2 0 < k.rings), f)
  | .barwait f => some (sysForm 0x025 (fun f => f.d.isNone && f.a.isGroupValue && f.b.isGroupValue && f.c.isNone) (fun _ => [])
      (fun f => f.mod.toNat % 32 == 0) (fun _ f => f.imm == 0), f)
  | .sread f => some (sysForm 0x040
      (fun f => (f.d.isV && f.a.isSpecial || f.d.isS && f.a.isGroupSpecial) && f.b.isNone && f.c.isNone)
      (fun f => [if f.m5 then (f.d, 2, 2) else (f.d, 1, 1)])
      (fun f => f.mod.toNat % 32 == 0 && (!f.m5 || f.d.isV)) (fun _ f => f.imm == 0), f)
  | .swrite f => some (sysForm 0x041
      (fun f => (match f.d with
        | .special n => if n == 16 then f.a.isV || f.a.isS || f.a.isConst || f.a.isImm
                        else (n == 17 || n == 18) && (f.a.isS || f.a.isConst || f.a.isImm)
        | _ => false) && f.b.isNone && f.c.isNone)
      (fun f => [(f.a, 1, 1)]) (modMax 0) (fun _ f => f.immFree), f)
  | .trap f => some (sysForm 0x042 noOps (fun _ => []) (modMax 0) (fun _ f => f.i 31 16 == 0), f)
  | .isync f => some (sysForm 0x043 noOps (fun _ => []) (modMax 0) (fun _ f => f.imm == 0), f)
  | .icinv f => some (sysForm 0x044
      (fun f => f.d.isNone && f.c.isNone && (if f.i 0 0 == 1 then f.a.isNone && f.b.isNone else f.a.isGroupValue && f.b.isGroupValue))
      (fun _ => []) (fun f => f.scope ≠ 7 && f.mod.toNat < 8) (fun _ f => f.i 31 1 == 0), f)
  | .brk f => some (sysForm 0x045 noOps (fun _ => []) (modMax 0) (fun _ f => f.i 31 16 == 0), f)
  | .diagrd f => some (sysForm 0x046 (fun f => f.d.isS && f.a.isNone && f.b.isNone && f.c.isNone) (fun _ => []) (modMax 0)
      (fun _ f => f.imm.toNat ≤ 7), f)
  | .diagwr f => some (sysForm 0x047 (fun f => f.d.isNone && f.a.isGroupValue && f.b.isNone && f.c.isNone) (fun _ => []) (modMax 0)
      (fun _ f => f.imm.toNat ≤ 7), f)
  | .errinj f => some (sysForm 0x048 (fun f => f.d.isNone && f.a.isGroupValue && f.b.isNone && f.c.isNone) (fun _ => []) (modMax 0)
      (fun _ f => f.imm.toNat ≤ 4), f)
  | _ => none

/-- A class is issued by this issuer (R115). -/
def roleOk (fm : Form) : Role → Bool
  | .vector => match fm.cls with | .vec | .scl | .mem | .ctl | .sys | .pfx => true | _ => false
  | .porter => match fm.cls with | .scl | .asy | .sys | .pfx => true | .ctl => !fm.vectorOnly | _ => false
  | .sequencer => match fm.cls with | .mtx | .pfx => true | _ => false

/-- The lowest reason that applies (R119). -/
def illegal (k : IssueCtx) (fm : Form) (f : Fields) : Option Ill :=
  if !roleOk fm k.role then some .role
  else if f.badGuard || (!fm.guarded && !f.unguarded) then some .guard
  else if !fm.spec k f then some .spec
  else if !(fm.regs f).all (fun (o, w, al) => o.regOk k.regs w al) then some .reg
  else if !fm.modOk f then some .mod
  else if !fm.immOk k f then some .imm
  else if decide (fm.cls = .pfx) && f.er then some .pfx
  else none

/-- The most permissive issuer of a class: what is wrong there is wrong for every issuer. -/
def freeCtx (c : Cls) : IssueCtx :=
  { role := match c with | .asy => .porter | .mtx => .sequencer | _ => .vector, regs := 256, rings := 8, matrix := true }

/-- A hut register number as destination, and as source (R280). -/
def hutD (d : BitVec 5) : Bool := d.toNat ≤ 23
def hutS (a : BitVec 5) : Bool := a.toNat ≤ 27
/-- T is an integer type. -/
def hutInt (t : BitVec 2) : Bool := t == 1 || t == 2

/-- Why a hut word breaks R280, R281 or R284. -/
inductive HutIll where
  | register | type | field
  deriving DecidableEq, Repr

/-- The check of one hut word (R280, R281, R284). -/
def hutIllegal : Instr → Option HutIll
  | .hnop => none
  | .hend => none
  | .hadd _ d a b => if hutD d && hutS a && hutS b then none else some .register
  | .hsub _ d a b => if hutD d && hutS a && hutS b then none else some .register
  | .hmul _ d a b => if hutD d && hutS a && hutS b then none else some .register
  | .hmin _ d a b => if hutD d && hutS a && hutS b then none else some .register
  | .hmax _ d a b => if hutD d && hutS a && hutS b then none else some .register
  | .hfma _ d a b c => if hutD d && hutS a && hutS b && hutS c then none else some .register
  | .habs t d a => if !(hutD d && hutS a) then some .register else if t == 2 then some .type else none
  | .hand d a b => if hutD d && hutS a && hutS b then none else some .register
  | .hor d a b => if hutD d && hutS a && hutS b then none else some .register
  | .hxor d a b => if hutD d && hutS a && hutS b then none else some .register
  | .hshl t d a b => if !(hutD d && hutS a && hutS b) then some .register else if hutInt t then none else some .type
  | .hshr t d a b => if !(hutD d && hutS a && hutS b) then some .register else if hutInt t then none else some .type
  | .hcmp _ d a b cc => if !(hutD d && hutS a && hutS b) then some .register else if cc.toNat ≤ 5 then none else some .field
  | .hsel d a b c => if hutD d && hutS a && hutS b && hutS c then none else some .register
  | .hcvt t d a u => if !(hutD d && hutS a) then some .register else if t == u then some .field else none
  | .hmov d a => if hutD d && hutS a then none else some .register
  | .hbcast d a _ => if hutD d && hutS a then none else some .register
  | .hsum t d a => if !(hutD d && hutS a) then some .register else if t == 3 then some .type else none
  | .hld d _ _ => if hutD d then none else some .register
  | .hst s _ _ => if hutD s then none else some .register
  | .hseti t d _ => if !hutD d then some .register else if t == 3 then some .type else none
  | .hloop _ cs n bl =>
    if !(1 ≤ bl.toNat && bl.toNat ≤ 96) then some .field
    else if cs then (if n.toNat ≤ 4 then none else some .field)
    else if 1 ≤ n.toNat then none else some .field
  | .hidx t d _ => if !hutD d then some .register else if hutInt t then none else some .type
  | _ => none

end Sys2Proof
end

