-- ==== Sys2Proof/WellFormed.lean ====
section
/-! DEFINITION. When an instruction is well formed wherever it stands (R119, R280): its form refuses nothing. -/
namespace Sys2Proof

/-- What is wrong with an instruction wherever it stands. -/
inductive Bad where
  | word (r : Ill)
  | hut (r : HutIll)
  deriving DecidableEq, Repr

/-- The static check: the lowest reason an instruction word breaks for every issuer, or the hut rule broken. -/
def Instr.bad (i : Instr) : Option Bad :=
  match i.form with
  | some (fm, f) => (illegal (freeCtx fm.cls) fm f).map Bad.word
  | none => (hutIllegal i).map Bad.hut

/-- An instruction that breaks no encoding rule by itself. -/
def Instr.WellFormed (i : Instr) : Prop := i.bad = none

end Sys2Proof
end

