-- ==== Sys2Proof/Decode.lean ====
section
/-! DEFINITION. Reading instructions from bits (R102, R110 to R117, R280, R281, R283, R284), and writing them. -/
namespace Sys2Proof

/-- The class of bits [94:92] (R110). -/
def Cls.decode (x : BitVec 3) : Cls :=
  match x.toNat with
  | 0 => .vec | 1 => .scl | 2 => .mem | 3 => .ctl | 4 => .asy | 5 => .mtx | 6 => .sys | _ => .pfx

/-- The three bits of a class. -/
def Cls.encode : Cls → BitVec 3
  | .vec => 0 | .scl => 1 | .mem => 2 | .ctl => 3 | .asy => 4 | .mtx => 5 | .sys => 6 | .pfx => 7

/-- A 10-bit specifier (R113): the file in [9:8], the entry in [7:0]. -/
def Operand.decode (x : BitVec 10) : Operand :=
  let n := x.toNat % 256
  match x.toNat / 256 with
  | 0 => .v (BitVec.ofNat 8 n)
  | 1 => if n < 64 then .s (BitVec.ofNat 6 n) else .reserved x
  | 2 => if n < 128 then .const (BitVec.ofNat 7 n) else .special (BitVec.ofNat 7 n)
  | _ =>
    if n < 8 then .p (BitVec.ofNat 3 n)
    else if 0x20 ≤ n ∧ n < 0x30 then .h (BitVec.ofNat 4 n)
    else if 0x40 ≤ n ∧ n < 0x50 then .b (BitVec.ofNat 4 n)
    else if 0x60 ≤ n ∧ n < 0x64 then .a (BitVec.ofNat 2 n)
    else if 0x80 ≤ n ∧ n < 0x84 then .dp (BitVec.ofNat 2 n)
    else if n = 0xA0 then .imm false
    else if n = 0xA1 then .imm true
    else if n = 0xE0 then .none
    else .reserved x

/-- The specifier of an operand (R113). -/
def Operand.encode : Operand → BitVec 10
  | .v n => BitVec.ofNat 10 n.toNat
  | .s n => BitVec.ofNat 10 (0x100 + n.toNat)
  | .const n => BitVec.ofNat 10 (0x200 + n.toNat)
  | .special n => BitVec.ofNat 10 (0x280 + n.toNat)
  | .p n => BitVec.ofNat 10 (0x300 + n.toNat)
  | .h n => BitVec.ofNat 10 (0x320 + n.toNat)
  | .b n => BitVec.ofNat 10 (0x340 + n.toNat)
  | .a n => BitVec.ofNat 10 (0x360 + n.toNat)
  | .dp n => BitVec.ofNat 10 (0x380 + n.toNat)
  | .imm zx => if zx then 0x3A1 else 0x3A0
  | .none => 0x3E0
  | .reserved x => x

/-- Bits `lo` up to `lo + n - 1` of a word. -/
def fieldOf {w : Nat} (x : BitVec w) (lo n : Nat) : BitVec n := x.extractLsb' lo n

/-- The fields of an instruction word beside CLS and OP (R110). -/
def Fields.decode (x : IWord) : Fields :=
  { er := x.getLsbD 95
    pg := { neg := x.getLsbD 81, p := fieldOf x 78 3 }
    d := Operand.decode (fieldOf x 68 10)
    a := Operand.decode (fieldOf x 58 10)
    b := Operand.decode (fieldOf x 48 10)
    c := Operand.decode (fieldOf x 38 10)
    mod := fieldOf x 32 6
    imm := fieldOf x 0 32 }

/-- The three forms of `mset` by MOD[2:0] (R205); the values without a form are `mset`, whose check refuses them. -/
def msetOf (f : Fields) : Instr :=
  if f.mod.toNat % 8 = 1 then .msetBexp f else if f.mod.toNat % 8 = 2 then .msetRing f else .mset f

/-- The opcode map: in each row the mnemonics hold consecutive opcodes from the first (R117). -/
def opMap : Cls → List (Nat × List (Fields → Instr))
  | .vec => [
      (0x000, [.vadd, .vsub, .vmul, .vmulhi, .vmad, .vfma, .vfms, .vfnma]),
      (0x008, [.vdiv, .vrem, .vmin, .vmax, .vabs, .vneg, .vclamp, .vavg]),
      (0x010, [.vsad, .vdot4, .vdot2, .vsetp, .vsel, .vmov, .vand, .vor]),
      (0x018, [.vxor, .vnot, .vlut3, .vshl, .vshr, .vsra, .vrotl, .vfsh]),
      (0x020, [.vpopc, .vclz, .vbrev, .vbfe, .vbfi, .vbytesel]),
      (0x040, [.vrcp, .vrsqrt, .vsqrt, .vexp2, .vlog2, .vsin, .vcos, .vtanh]),
      (0x048, [.vrint, .vfrac, .vldexp, .vgetexp, .vclass, .vcpsgn]),
      (0x080, [.vcvt, .vcvtp, .vqn8, .vqn4, .vbpack, .vbunpack, .vbscale, .vbfmt, .vbzero, .vcairn]),
      (0x0C0, [.vshfl, .vshfup, .vshfdn, .vshfx, .vballot, .vpoll, .vredadd, .vredmin, .vredmax, .vscan, .vmatch])]
  | .scl => [
      (0x000, [.sadd, .ssub, .smul, .smulhi, .sdiv, .srem, .smin, .smax]),
      (0x008, [.sabs, .sand, .sor, .sxor, .snot, .sshl, .sshr, .ssra]),
      (0x010, [.srotl, .spopc, .sclz, .sbfe, .sbfi, .scmp, .ssel, .smov]),
      (0x018, [.smovhi, .sget, .saddr, .sfirst])]
  | .mem => [
      (0x000, [.ld, .st, .ldsp, .stsp, .ldcl, .stcl, .sld, .sst]),
      (0x008, [.ldb, .stb, .recld, .recinv, .pref, .resid, .sptest])]
  | .ctl => [
      (0x000, [.nop, .bra, .brai, .bany, .ball, .bdiv, .join, .call]),
      (0x008, [.ret, .pause, .exit, .reorder, .spawn, .callr])]
  | .asy => [
      (0x000, [.acopy, .awrite, .agather, .ascatter, .astage, .afill, .ahut, .asummit]),
      (0x008, [.hwait, .htest, .hpass, .hcancel, .barinit, .barexp])]
  | .mtx => [
      (0x000, [.mnop, .mzero, .mmac, .mldacc, .mdrain, .mdradd, .mbarw, .mbara]),
      (0x008, [.mringw, .mrings, msetOf, .madd, .mloop, .mbra, .mexit, .mseed])]
  | .sys => [
      (0x000, [.gadd, .gaddf, .gmin, .gmax, .gand, .gor, .gxor, .gxchg, .gcas, .ginc]),
      (0x010, [.padd, .paddf, .pmin, .pmax, .pxchg, .pcas]),
      (0x020, [.fence, .nbarr, .nbwait, .ringw, .rings, .barwait]),
      (0x040, [.sread, .swrite, .trap, .isync, .icinv, .brk, .diagrd, .diagwr, .errinj])]
  | .pfx => [
      (0x000, [.rep])]

/-- The mnemonic of an opcode in the rows of its class; none where the opcode is reserved. -/
def lookupOp : List (Nat × List (Fields → Instr)) → Nat → Option (Fields → Instr)
  | [], _ => none
  | (first, ops) :: rest, op => if first ≤ op ∧ op < first + ops.length then ops[op - first]? else lookupOp rest op

/-- The instruction of a 96-bit word; none exactly when OP is reserved in its class (R117). -/
def decodeWord (x : IWord) : Option Instr :=
  (lookupOp (opMap (Cls.decode (fieldOf x 92 3))) (fieldOf x 82 10).toNat).map (fun mk => mk (Fields.decode x))

/-- An instruction word from its class, opcode and fields (R110). -/
def wordOf (c : Cls) (op : Nat) (f : Fields) : IWord :=
  BitVec.ofBool f.er ++ c.encode ++ BitVec.ofNat 10 op ++ BitVec.ofBool f.pg.neg ++ f.pg.p ++ f.d.encode ++ f.a.encode ++
    f.b.encode ++ f.c.encode ++ f.mod ++ f.imm

/-- The 96-bit word of an instruction; none for rows that have no such word. -/
def encodeWord (i : Instr) : Option IWord := i.form.map (fun (fm, f) => wordOf fm.cls fm.op f)

/-- The hut instruction of a 32-bit word; none where the opcode is reserved or an unused field is not 0 (R280, R281, R283, R284). -/
def decodeHut (x : BitVec 32) : Option Instr :=
  let t : BitVec 2 := fieldOf x 24 2
  let d : BitVec 5 := fieldOf x 19 5
  let a : BitVec 5 := fieldOf x 14 5
  let b : BitVec 5 := fieldOf x 9 5
  let c : BitVec 5 := fieldOf x 4 5
  let low (n : Nat) : Bool := x.toNat % 2 ^ n == 0
  let t0 : Bool := t == 0
  let three (i : Instr) : Option Instr := if low 9 then some i else none
  let bits3 (i : Instr) : Option Instr := if t0 && low 9 then some i else none
  match x.toNat / 2 ^ 26 with
  | 0x00 => if x = 0 then some .hnop else none
  | 0x01 => three (.hadd t d a b)
  | 0x02 => three (.hsub t d a b)
  | 0x03 => three (.hmul t d a b)
  | 0x04 => if low 4 then some (.hfma t d a b c) else none
  | 0x05 => three (.hmin t d a b)
  | 0x06 => three (.hmax t d a b)
  | 0x07 => if low 14 then some (.habs t d a) else none
  | 0x08 => bits3 (.hand d a b)
  | 0x09 => bits3 (.hor d a b)
  | 0x0A => bits3 (.hxor d a b)
  | 0x0B => three (.hshl t d a b)
  | 0x0C => three (.hshr t d a b)
  | 0x0D => if bitsOf x.toNat 8 3 = 0 then some (.hcmp t d a b (fieldOf x 0 3)) else none
  | 0x0E => if t0 && low 4 then some (.hsel d a b c) else none
  | 0x0F => if bitsOf x.toNat 13 2 = 0 then some (.hcvt t d a (fieldOf x 0 2)) else none
  | 0x10 => if t0 && low 14 then some (.hmov d a) else none
  | 0x11 => if t0 ∧ bitsOf x.toNat 13 3 = 0 then some (.hbcast d a (fieldOf x 0 3)) else none
  | 0x12 => if low 14 then some (.hsum t d a) else none
  | 0x13 => if t0 && low 12 then some (.hld d a (fieldOf x 12 2)) else none
  | 0x14 => if t0 && low 12 then some (.hst d a (fieldOf x 12 2)) else none
  | 0x15 => some (.hseti t d (fieldOf x 0 19))
  | 0x16 => if low 4 && !x.getLsbD 11 then some (.hloop (x.getLsbD 25) (x.getLsbD 24) (fieldOf x 12 12) (fieldOf x 4 7)) else none
  | 0x17 => if bitsOf x.toNat 18 2 = 0 then some (.hidx t d (fieldOf x 0 2)) else none
  | 0x18 => if x = 0x60000000 then some .hend else none
  | _ => none

/-- A hut word from opcode, T, D, A, B, C and M (R280). -/
def hutWord (op : BitVec 6) (t : BitVec 2) (d a b c : BitVec 5) (m : BitVec 4) : BitVec 32 := op ++ t ++ d ++ a ++ b ++ c ++ m

/-- The 32-bit word of a hut instruction; none for the other rows. -/
def encodeHut : Instr → Option (BitVec 32)
  | .hnop => some (hutWord 0x00 0 0 0 0 0 0)
  | .hadd t d a b => some (hutWord 0x01 t d a b 0 0)
  | .hsub t d a b => some (hutWord 0x02 t d a b 0 0)
  | .hmul t d a b => some (hutWord 0x03 t d a b 0 0)
  | .hfma t d a b c => some (hutWord 0x04 t d a b c 0)
  | .hmin t d a b => some (hutWord 0x05 t d a b 0 0)
  | .hmax t d a b => some (hutWord 0x06 t d a b 0 0)
  | .habs t d a => some (hutWord 0x07 t d a 0 0 0)
  | .hand d a b => some (hutWord 0x08 0 d a b 0 0)
  | .hor d a b => some (hutWord 0x09 0 d a b 0 0)
  | .hxor d a b => some (hutWord 0x0A 0 d a b 0 0)
  | .hshl t d a b => some (hutWord 0x0B t d a b 0 0)
  | .hshr t d a b => some (hutWord 0x0C t d a b 0 0)
  | .hcmp t d a b cc => some (hutWord 0x0D t d a b 0 (cc.zeroExtend 4))
  | .hsel d a b c => some (hutWord 0x0E 0 d a b c 0)
  | .hcvt t d a u => some (hutWord 0x0F t d a 0 0 (u.zeroExtend 4))
  | .hmov d a => some (hutWord 0x10 0 d a 0 0 0)
  | .hbcast d a e => some (hutWord 0x11 0 d a 0 0 (e.zeroExtend 4))
  | .hsum t d a => some (hutWord 0x12 t d a 0 0 0)
  | .hld d k n => some ((0x13 : BitVec 6) ++ (0 : BitVec 2) ++ d ++ k ++ n ++ (0 : BitVec 12))
  | .hst d k n => some ((0x14 : BitVec 6) ++ (0 : BitVec 2) ++ d ++ k ++ n ++ (0 : BitVec 12))
  | .hseti t d imm => some ((0x15 : BitVec 6) ++ t ++ d ++ imm)
  | .hloop lv cs n bl =>
    some ((0x16 : BitVec 6) ++ BitVec.ofBool lv ++ BitVec.ofBool cs ++ n ++ (0 : BitVec 1) ++ bl ++ (0 : BitVec 4))
  | .hidx t d sel => some (hutWord 0x17 t d 0 0 0 (sel.zeroExtend 4))
  | .hend => some (hutWord 0x18 0 0 0 0 0 0)
  | _ => none

/-- Bytes as a number, least significant first (R5). -/
def natOfBytes : List Byte → Nat
  | [] => 0
  | b :: bs => b.toNat + 256 * natOfBytes bs

/-- The low `n` bytes of a number, least significant first (R5). -/
def bytesOfNat : Nat → Nat → List Byte
  | 0, _ => []
  | n + 1, x => BitVec.ofNat 8 x :: bytesOfNat n (x / 256)

/-- The instruction in the twelve bytes of a slot (R102). -/
def decodeSlot (bytes : List Byte) : Option Instr :=
  if bytes.length = 12 then decodeWord (BitVec.ofNat 96 (natOfBytes bytes)) else none

/-- The instruction in the four bytes of a hut word (R280, R5). -/
def decodeHutBytes (bytes : List Byte) : Option Instr :=
  if bytes.length = 4 then decodeHut (BitVec.ofNat 32 (natOfBytes bytes)) else none

/-- The bytes of an instruction, in the order memory holds them; none for a row without an encoding. -/
def encode (i : Instr) : Option (List Byte) :=
  match encodeHut i with
  | some w => some (bytesOfNat 4 w.toNat)
  | none => (encodeWord i).map (fun w => bytesOfNat 12 w.toNat)

/-- The instruction the decoder reads from an instruction whose bits are `w`: a hut word where the table gives 32
bits, an instruction word otherwise. -/
def decodeTableWord (nbits w : Nat) : Option Instr :=
  if nbits ≤ 32 then decodeHutBytes (bytesOfNat 4 w) else decodeSlot (bytesOfNat 12 w)

end Sys2Proof
end

