-- ==== Sys2Proof/Config.lean ====
section
/-! DEFINITION. What stepping B0 fixes, and the free values: values the spec leaves open are opaque constants,
so that nothing can be proved of them. -/
namespace Sys2Proof.Config

/-- DESIGN CHOICE (unsafe, log 1): what a byte of memory that nothing has written reads as. R404 leaves device
memory unspecified after module reset. -/
def unlistedByte : Byte := 0

/-- Bytes of device memory (R217). -/
def deviceBytes : Nat := 2 ^ 40
/-- Cycles of the core clock in one microsecond (R4, R22). -/
def cyclesPerUs : Nat := 2000
/-- The lodge timeout, 2^21 cycles (R230, R401). -/
def lodgeTimeout : Nat := 2 ^ 21

/-- Free value (log 2): whether a line's fetch, a hint or a weight write within its grace time takes the one or
the other allowed course; read at a counter of State. -/
opaque freeBool : Nat → Bool
/-- Free value (log 2): a byte the spec does not state. -/
opaque freeByte : Nat → Byte
/-- Free value (log 2): a number the spec does not state. -/
opaque freeNat : Nat → Nat
/-- Free value (log 19): the bytes of device memory after a module reset in a run, which R404 leaves unspecified. -/
opaque freeCells : Nat → List (Nat × Byte)
/-- Free value (log 13): the set of a chiplet cache in which a 128-byte line lies, which R233 does not give. -/
opaque l2Set : Nat → Nat
/-- Free value (log 2): the set of an L1 in which a 128-byte line lies, which R233 does not give. -/
opaque l1Set : Nat → Nat
/-- Free value (log 3): which allowed result an elementary function of R168 gives; the meaning keeps it within the bound. -/
opaque elementary : Nat → Word → Int
/-- Free value (log 4): the ECDSA P-384 public key provisioned in the root of trust (R29), as a point. -/
opaque ecdsaKey : Nat × Nat
/-- Free value (log 4): the LMS public key provisioned in the root of trust (R29), 56 bytes as RFC 8554 writes it. -/
opaque lmsKey : List Byte
/-- Free value (log 18): Swetal's PCI-SIG vendor identifier, whose number R71 does not give. -/
opaque vendorId : Nat
/-- Free value (log 4): the fused minimum version of R406. -/
opaque minVersion : Nat
end Sys2Proof.Config
end

