-- ==== Sys2Proof/Machine/State.lean ====
section
/-! DEFINITION. The state of the module as plain data: every register, queue, table and bit the spec names, and the
model's own fields that say which agent moves next. -/
namespace Sys2Proof.Machine

/-- A table by number; a number not listed has the default its reader names. -/
abbrev Tab (α : Type) := List (Nat × α)

/-- Bytes by address, in one canonical form (`Memory.wf`). -/
abbrev Memory := List Host.Cell

/-- Poison kinds, highest rank first (R355). -/
inductive PoisonKind where
  | uncorrectable | protection | pageFault | bounds | format
  deriving DecidableEq, Repr

/-- One 32-bit element of a v-register with its tag (R356). -/
structure VReg where
  val : Word
  poison : Option PoisonKind
  deriving DecidableEq, Repr

/-- An s-register with its tag (R356). -/
structure SReg where
  val : DWord
  poison : Option PoisonKind
  deriving DecidableEq, Repr

/-- A b-register: a buffer record, or a poisoned record with its reason code (R250, R356). -/
structure BReg where
  bits : BitVec 256
  poison : Option PoisonKind
  reason : BitVec 8
  deriving DecidableEq, Repr

/-- Thread states (R123). -/
inductive ThreadState where
  | sub | lb | wait | held | done
  deriving DecidableEq, Repr

/-- One captured slot of a loop buffer (R124). -/
structure LbEntry where
  pc : Pc
  word : IWord
  deriving DecidableEq, Repr

/-- A thread at its position: register block (the team group index given at placement) and visible lane (R121); `u` is its
team thread number (R97, R134). -/
structure Thread where
  block : Nat
  lane : Nat
  u : Nat
  porter : Bool
  st : ThreadState
  pc : Pc
  v : List VReg
  p : BitVec 8
  fstat : Word
  tidX : Word
  tidY : Word
  tidZ : Word
  entry : Option Nat
  lbuf : List LbEntry
  deriving DecidableEq, Repr

/-- A signal to a numbered barrier or a stage ring (R203, R269). -/
inductive Signal where
  | barrier (n : Nat)
  | ring (cons : Bool) (r x : Nat)
  deriving DecidableEq, Repr

/-- Handle states (R267). -/
inductive HState where
  | null | pending | done | error | cancelled | part | poisoned
  deriving DecidableEq, Repr

/-- An h-register: its status word and one unfired signal (R267 to R269). -/
structure Handle where
  st : HState
  reason : BitVec 8
  pmask : BitVec 16
  mmask : BitVec 16
  cmd : Option Nat
  signal : Option Signal
  deriving DecidableEq, Repr

/-- Why a group is parked (R126, R231, R236, R268, R342 to R344). -/
inductive Park where
  | lodge (need : Nat)
  | pending (ops : List Nat)
  | handle (h : Nat)
  | allHandles
  | engineFull
  | barrier (n : Nat)
  | ringStage (r x : Nat) (full : Bool)
  | barObject (addr : Nat) (phase : Bool)
  | absent (cteam : Nat) (lines : List Nat)
  | drainPort (port : Nat)
  | stores
  | icinv (cores : Option (List Nat)) (lines : Option (Nat × Nat))
  | valueQueue
  deriving DecidableEq, Repr

/-- A repetition of the instruction at `pc`, in progress or announced by the repeat word before it (R129, R154). -/
structure Rep where
  pc : Pc
  count : Nat
  idx : Nat
  step : BitVec 4
  stride : Nat
  deriving DecidableEq, Repr

/-- What a trap records of its issuer (R358 to R361). -/
structure TrapInfo where
  cause : BitVec 8
  reason : BitVec 8
  code : BitVec 16
  pc : Pc
  repIdx : BitVec 6
  lanes : BitVec 32
  addr : DWord
  resumable : Bool
  deriving DecidableEq, Repr

/-- Where bytes live (R215, R216): physical memory, a peer module behind a port, or the scratchpads of the cluster, at cluster
scratchpad addresses. -/
inductive Space where
  | phys
  | peer (port : Nat)
  | spad
  deriving DecidableEq, Repr

/-- The operation of an atomic (R333). -/
inductive AtomKind where
  | add | addf | min | max | and | or | xor | xchg | cas | inc
  deriving DecidableEq, Repr

/-- One lane's part of an atomic: location, operand, comparison value and the place of its result. -/
structure AtomLane where
  addr : Nat
  val : DWord
  cmp : DWord
  block : Nat
  lane : Nat
  deriving DecidableEq, Repr

/-- What a store-queue entry does when it leaves (R305, R338). -/
inductive SqItem where
  | store (bytes : List Host.Cell)
  | atomic (kind : AtomKind) (uns : Bool) (width : Nat) (lanes : List AtomLane) (dst : Option Nat) (op : Option Nat)
  deriving DecidableEq, Repr

/-- A store-queue entry (R305). `since` is the cycle it reached the queue, `leaves` the page-table leaves whose DT
its write sets (R224), `home` the blocks performed at their home and not
in the core's L1 (MT = 01, CACHE 3, memory-side atomics), `keep` the retention its blocks are allocated with (R234), `unverified` an entry the second has not matched
(R369), `done` the blocks whose home has performed it, and `asked` the cycle at which its requests would have left (R401). -/
structure SqEntry where
  item : SqItem
  space : Space
  home : List Nat
  keep : Nat
  since : Nat
  leaves : List Nat
  unverified : Bool
  done : List Nat
  asked : Option Nat
  deriving DecidableEq, Repr

/-- The s-, b- and LP values that travel to an emitted group (R132), with the oldest write of `cairnkey` its threads may still see and the last one that their group
made (R173). -/
structure GroupRegs where
  s : List SReg
  b : List BReg
  lp : BitVec 16
  keyFrom : Nat
  wrote : Nat
  deriving DecidableEq, Repr

/-- A drain-port entry bound to a group: the port, the reading instruction, and the 32 values (R161, R162). -/
structure Binding where
  port : Nat
  pc : Pc
  entry : List VReg
  deriving DecidableEq, Repr

/-- A group (R122, R126, R129, R305, R342, R354, R369). `heldAt` is the cycle since which a barrier arrival or ring signal waits for its second (R370). `reps` holds the
repetitions announced or in progress, one for each program counter (R129). `lbAt` is the last cycle counted in `lbCycles` (R126). `sOld` is the value that an s-register
had before a broadcast instruction of the cycle it names wrote it (R138). `keyFrom` numbers the oldest write of `cairnkey` the group may still
see, `wrote` its own last one (R173). -/
structure Group where
  place : Nat
  slot : Nat
  porter : Bool
  remap : List (Option Nat)
  s : List SReg
  b : List BReg
  h : List Handle
  lp : BitVec 16
  runLen : Nat
  reps : List Rep
  parked : Option Park
  midRun : Bool
  brk : Option (BitVec 16)
  trap : Option TrapInfo
  storeQ : List SqEntry
  armed : Option (PoisonKind × Nat)
  bound : Option Binding
  arrived : Bool
  heldAt : Option Nat
  valueQueue : List (List (Nat × Option PoisonKind))
  polSeen : Nat
  lbCycles : Nat
  lbAt : Option Nat
  sOld : Option (Nat × Nat × SReg)
  keyFrom : Nat
  wrote : Nat
  deriving DecidableEq, Repr

/-- A value on its way to a pending destination (R229 to R231). -/
inductive PendVal where
  | v (block lane n : Nat) (x : VReg)
  | s (place n : Nat) (x : SReg)
  | b (place n : Nat) (x : BReg)
  deriving DecidableEq, Repr

/-- Where a load's bytes go: a lane's registers from `n` on, an s-register, or a b-register of the group with key `place`
(R243, R249, R250). -/
inductive LoadDst where
  | lane (block lane n width : Nat) (sx : Bool)
  | s (place n width : Nat) (sx : Bool)
  | b (place n : Nat)
  deriving DecidableEq, Repr

/-- A load or value-returning atomic whose destination is pending (R231), of the group with key `place` (slot × 16 + place). `known` is false until an atomic has been performed; while `acquire` holds, no later access of the group is performed (R338); `late`
lists the lanes whose bytes are read when the reply comes, with their physical ranges. -/
structure PendOp where
  id : Nat
  place : Nat
  vals : List PendVal
  entries : List Nat
  bank : Bool
  known : Bool
  acquire : Bool
  late : List (LoadDst × List (Nat × Nat))
  deriving DecidableEq, Repr

/-- Lodge entry states; FREE is absence (R230). -/
inductive LodgeState where
  | held | out | filled
  deriving DecidableEq, Repr

/-- A lodge entry (R230); `port` is the fabric port its request goes to, `home` whether the request has gone there (R388), and `await` holds the blocks of its
line that have not been granted yet. -/
structure LodgeEntry where
  id : Nat
  team : TeamRef
  op : Nat
  st : LodgeState
  line : Nat
  port : Nat
  home : Bool
  await : List Nat
  since : Nat
  lanes : List (Nat × Nat)
  deriving DecidableEq, Repr

/-- A thread in a bin of a compaction entry (R131). -/
structure BinItem where
  block : Nat
  lane : Nat
  target : Pc
  join : Bool
  at_ : Nat
  order : Nat
  regs : GroupRegs
  deriving DecidableEq, Repr

/-- An OPEN entry of the reconvergence stack (R130, R131). -/
structure CEntry where
  id : Nat
  pc : Pc
  parent : Option Nat
  expect : List (Nat × Nat)
  inside : List (Nat × Nat)
  bins : List BinItem
  deriving DecidableEq, Repr

/-- A group formed but not yet in a group place (R132). -/
structure GroupSeed where
  slot : Nat
  remap : List (Option Nat)
  regs : GroupRegs
  deriving DecidableEq, Repr

/-- A thread in a reorder unit (R133). -/
structure ReorderItem where
  block : Nat
  lane : Nat
  key : Nat
  mask : BitVec 32
  regs : GroupRegs
  at_ : Nat
  deriving DecidableEq, Repr

/-- An entry of the spawn pool, with the group place and quadrant it came from as place × 1,024 + quadrant, and the position and predicate register of the
thread that spawned it (R134, R150). -/
structure SpawnItem where
  place : Nat
  block : Nat
  lane : Nat
  preg : BitVec 3
  pc : Pc
  arg : VReg
  tidX : Word
  tidY : Word
  tidZ : Word
  at_ : Nat
  deriving DecidableEq, Repr

/-- A spawned thread waiting to be emitted (R134). -/
structure SpawnBin where
  block : Nat
  lane : Nat
  pc : Pc
  at_ : Nat
  order : Nat
  deriving DecidableEq, Repr

/-- A numbered barrier (R201). `keyNow` numbers the newest write of `cairnkey` whose writer has arrived in the current phase since, and
`keyLast` the newest in any phase completed so far, 0 for none (R173, R209, R342). -/
structure Barrier where
  phase : Bool
  cnt : Nat
  exp : Nat
  newExp : Option Nat
  keyNow : Nat
  keyLast : Nat
  deriving DecidableEq, Repr

/-- A stage ring: depth, producer and consumer counts, and PH and ARR of each stage (R203). -/
structure Ring where
  depth : Nat
  np : Nat
  nc : Nat
  stages : List (Bool × Nat)
  deriving DecidableEq, Repr

/-- A drain port: unbound entries and parked readers, earliest first (R161, R162). -/
structure DrainPort where
  entries : List (List VReg)
  readers : List Nat
  deriving DecidableEq, Repr

/-- Where a drain sends its tile (R195, R197). -/
inductive DrainTo where
  | port (col : Bool)
  | peer (team : TeamRef) (slot acc : Nat) (bar : Option Nat)
  deriving DecidableEq, Repr

/-- A drain or drain-add in progress (R187, R195, R198). -/
structure Drain where
  acc : Nat
  clear : Bool
  dest : DrainTo
  tile : Option (List VReg)
  next : Nat
  pc : Pc
  deriving DecidableEq, Repr

/-- What the matrix array is doing (R183, R184, R190, R191, R194): an `mmac` with the next block of each row of A and of each column of B
and the next granule, or an `mldacc`; `due` is the cycle at which the granule in progress ends. -/
structure ArrayJob where
  acc : Nat
  load : Bool
  abase : Nat
  boff : Nat
  pitch : Nat
  total : Nat
  next : Nat
  rows : List Nat
  cols : List Nat
  due : Nat
  deriving DecidableEq, Repr

/-- A uniform sequencer (R186, R187, R213). Array times are cycles of the core clock (R191); `lvlWait` is the cycle up to which a wait on LEVEL
has been counted (R353), `wrote` numbers its last write of `cairnkey` (R209). -/
structure Seq where
  slot : Nat
  pc : Pc
  s : List DWord
  lp : BitVec 16
  exited : Bool
  trap : Option TrapInfo
  rep : Option Rep
  pfx : Option Rep
  job : Option ArrayJob
  lvlWait : Option Nat
  wrote : Nat
  accReady : List Nat
  drains : List Drain
  deriving DecidableEq, Repr

/-- A tile sent by a drain-add and not yet applied, and the cycle it would have left in (R197 to R199, R210, R401). -/
structure Tile where
  id : Nat
  src : TeamRef
  srcSlot : Nat
  srcAcc : Nat
  pc : Pc
  dst : TeamRef
  slot : Nat
  acc : Nat
  bar : Option Nat
  data : List VReg
  since : Nat
  deriving DecidableEq, Repr

/-- A logged staging command (R373). -/
structure StageRec where
  shape : BitVec 512
  woff : Nat
  col0 : Nat
  slots : List Nat
  deriving DecidableEq, Repr

/-- A team on its core (R93 to R98, R130 to R134, R173, R182, R201 to R203, R236). `places`, `seconds` and `banks` list, by slot, the group
places of its groups and of their seconds (R368) and its core banks. `absent` counts the pending writes of each scratchpad line (R236), `objs` the
addresses that `barinit` has made barrier objects (R271, log 65), and `arrived` holds the cycle in which the last of a line's was done (R191). `keyLog` lists the values written to `cairnkey`, in order (R173, R209). -/
structure Team where
  ref : TeamRef
  teamId : Nat
  core : Nat
  quads : List Nat
  places : List (List Nat)
  seconds : List (List Nat)
  banks : List (List Nat)
  threads : List Thread
  groups : List Group
  stack : List CEntry
  nextEntry : Nat
  waiting : List GroupSeed
  reorder : Tab (List ReorderItem)
  pool : List SpawnItem
  spawned : List SpawnBin
  spad : Memory
  absent : Tab Nat
  objs : List Nat
  arrived : Tab Nat
  badLines : List Nat
  bsram : Tab Memory
  badBsram : Tab (List Nat)
  acc : Tab (List VReg)
  ports : Tab DrainPort
  seqs : List Seq
  barriers : List Barrier
  rings : List Ring
  ringerr : BitVec 8
  cairnkey : DWord
  keyLog : List DWord
  pend : List PendOp
  stageLog : List StageRec
  staged : Tab Nat
  haltedAt : Option Nat
  retired : Bool
  deriving DecidableEq, Repr

/-- Guest-book states (R88, R366). -/
inductive GbState where
  | free | placed | running | rollback | done | killed
  deriving DecidableEq, Repr

/-- A kernel descriptor (R31). -/
structure KDesc where
  entry : Nat
  pentry : Nat
  mentry : Nat
  tx : Nat
  ty : Nat
  tz : Nat
  cw : Nat
  ch : Nat
  regs : Nat
  porters : Nat
  rings : Nat
  spad : Nat
  bsram : Nat
  spawn : Nat
  flags : Nat
  decl : Nat
  codeSeg : Nat
  zeros : Bool
  deriving DecidableEq, Repr

/-- A resident cluster and its guest-book entry (R88, R95). -/
structure Cluster where
  vf : Nat
  gen : BitVec 16
  launch : Nat
  idx : Nat
  kidx : Nat
  ctr : Nat
  firstTeam : Nat
  chiplet : Nat
  x0 : Nat
  y0 : Nat
  copy : Nat
  gbQuad : Nat
  escaped : Bool
  verify : Bool
  retries : Nat
  st : GbState
  teams : List Team
  deriving DecidableEq, Repr

/-- A launch packet (R77). -/
structure Packet where
  flags : Nat
  prio : Nat
  ctr : Nat
  kidx : Nat
  recmask : Nat
  gx : Nat
  gy : Nat
  gz : Nat
  pvec : List Nat
  args : List DWord
  waittl : Nat
  sigtl : Nat
  waitval : Nat
  sigval : Nat
  tag : DWord
  zeros : Bool
  deriving DecidableEq, Repr

/-- An accepted launch (R83 to R86, R366, R367). -/
structure Launch where
  vf : Nat
  id : Nat
  queue : Nat
  head : Nat
  gen : BitVec 16
  order : Nat
  pkt : Packet
  kd : KDesc
  codeBase : Nat
  recs : Tab (BitVec 256)
  copy : Nat
  after : List (Nat × Nat)
  ready : Option Nat
  prio : Nat
  shares : List Nat
  nextCl : List Nat
  requeue : List (Nat × Nat)
  retired : Nat
  ended : Option (Nat × Nat)
  rollbacks : Nat
  deriving DecidableEq, Repr

/-- A completion record (R385). -/
structure CompRec where
  status : Nat
  reason : Nat
  slot : Nat
  rcode : Nat
  gen : BitVec 16
  launchId : Nat
  tag : DWord
  rollbacks : Nat
  deriving DecidableEq, Repr

/-- A used-ring entry, with the completion record written before it and the bytes the device wrote into the final buffer (R76, R376, R384, R385). -/
structure Used where
  fn : Fn
  queue : Nat
  head : Nat
  len : Nat
  record : Option CompRec
  written : List Byte
  deriving DecidableEq, Repr

/-- A virtqueue: the unread entries of its available ring, whether the front end was notified, its vector, the suppression state that collapse
writes, its size, and what the driver wrote for suppressing messages, with the used entries written so far (R71, R72, R74, R395). -/
structure VQueue where
  avail : List Chain
  kicked : Bool
  vector : Nat
  noNotify : Bool
  availEvent : Nat
  readIdx : Nat
  enabled : Bool
  size : Nat
  usedIdx : Nat
  usedEvent : Nat
  noInterrupt : Bool
  deriving DecidableEq, Repr

/-- An event of a VF (R376, R397). -/
structure VEvent where
  kind : Nat
  cause : Nat
  gen : BitVec 16
  cluster : Nat
  launchId : Nat
  retries : Nat
  deriving DecidableEq, Repr

/-- RUNSTATE (R378). -/
inductive RunState where
  | running | desched | paused
  deriving DecidableEq, Repr

/-- BSTATE (R393). -/
inductive BState where
  | active | collapsing | collapsed | waking
  deriving DecidableEq, Repr

/-- A loaded container: its segments as (kind, flags, va, pa, memsize) (R26 to R31). -/
structure Container where
  ctr : Nat
  feat : BitVec 128
  segs : List (Nat × Nat × Nat × Nat × Nat)
  deriving DecidableEq, Repr

/-- Driver-visible status of a function, with the other bits of device_status that a driver sets, the window selects of its feature word, its config_msix_vector, and
offset and length of its PCI configuration access capability (R71 to R74). -/
structure Transport where
  features : BitVec 128
  featuresOk : Bool
  driverOk : Bool
  unusable : Bool
  devSel : Nat
  drvSel : Nat
  cfgVector : BitVec 16
  acks : BitVec 8
  winOff : Nat
  winLen : Nat
  deriving DecidableEq, Repr

/-- A VF: its function state, timelines, queues, events, control, bivouac and scope policy registers
(R75, R78, R82, R90, R316, R376 to R378, R392, R393). -/
structure Vf where
  enabled : Option (Fin 2)
  created : Bool
  ready : Bool
  tr : Transport
  wclass : Nat
  nwq : Nat
  priocap : Nat
  idle : Nat
  keep : List Nat
  parts : List Nat
  gen : BitVec 16
  timelines : List DWord
  queues : Tab VQueue
  containers : List Container
  launchNo : Nat
  evBufs : List Nat
  held : List VEvent
  evDrop : BitVec 32
  evLost : BitVec 16
  runstate : RunState
  msixPend : List (Nat × BitVec 16)
  preempted : Bool
  bstate : BState
  holdoff : Bool
  lendvf : BitVec 8
  collapses : BitVec 32
  lastwake : BitVec 32
  timer : Nat
  wakeAt : Option Nat
  collapseStep : Nat
  told : Tab (Nat × Bool)
  devOk : Bool
  sysOk : Bool
  act : Bool
  refcnt : BitVec 32
  policyOld : Option (Bool × Bool × Bool × Nat)
  deriving DecidableEq, Repr

/-- The trap record of a context (R361). -/
structure TrapRec where
  valid : Bool
  resumable : Bool
  seq : Bool
  cause : BitVec 8
  reason : BitVec 8
  repIdx : BitVec 6
  code : BitVec 16
  quad : BitVec 10
  gplace : BitVec 4
  pc : Pc
  lanes : BitVec 32
  pending : BitVec 32
  addr : DWord
  launchId : DWord
  cluster : BitVec 32
  team : Option TeamRef
  hold : Bool
  deriving DecidableEq, Repr

/-- The registers of a context: translation and invalidation (R227), energy (R212), debug (R351), trap record (R361)
and harvest (R379). -/
structure Ctx where
  en : Bool
  root : Nat
  iva : Nat
  isize : Nat
  iall : Bool
  ibusy : Bool
  iwait : List Nat
  occlim : Nat
  drophint : BitVec 32
  lodgeto : BitVec 32
  level : Int
  refill : Nat
  cap : Nat
  capRefill : Nat
  brken : Bool
  diagen : Bool
  injen : Bool
  trap : TrapRec
  hva : Nat
  hcount : Nat
  hbmp : Nat
  hbusy : Bool
  herr : Bool
  hdirty : List Bool
  hsince : Nat
  hread : Bool
  hgo : Nat × Nat × Nat
  igo : Option (Nat × Nat)
  deriving DecidableEq, Repr

/-- An HDM decoder of a port: the device memory it exposes to the host, and whether it is committed (R69, R327). -/
structure Hdm where
  base : Nat
  size : Nat
  committed : Bool
  deriving DecidableEq, Repr

/-- A physical function (R69 to R75): its link with the speed and width it trained to and the width L0p leaves active, its capability registers, and its function state; `caperrAt` is the
cycle in which hardware last set CAPERR (R7). -/
structure Pf where
  linkUp : Bool
  cxl : Bool
  speed : Nat
  width : Nat
  l0p : Nat
  acs : BitVec 32
  aer : BitVec 32
  hdm : List Hdm
  caperrAt : Option Nat
  frs : Nat
  ready : Bool
  caperr : Bool
  numvfs : Nat
  vfEnable : Bool
  tr : Transport
  adminQ : VQueue
  deriving DecidableEq, Repr

/-- States of an outgoing context on a quadrant (R372). -/
inductive QState where
  | halting | halted | restoring
  deriving DecidableEq, Repr

/-- An outgoing context on a quadrant (R372, R373): its state, and which of its parts are spilt: register blocks by team and block, banks,
accumulators with drain-port entries, and whether its B-SRAM share was discarded. A context without one is RUNNING there. -/
structure Outgoing where
  st : QState
  rows : List (TeamRef × Nat)
  banks : List (TeamRef × Nat)
  acc : Bool
  bsramGone : Bool
  deriving DecidableEq, Repr

/-- A quadrant: lane register (R101), scheduler (R127), the group whose run filled the loop buffers last (R124), lodge (R229), pre-emption
state (R372, R373) and the diagnostic counters of each context (R353). -/
structure Quad where
  steered : Bool
  flane : Nat
  sparebad : Bool
  dead : Bool
  failcnt : Nat
  steering : Option Nat
  holder : Option (TeamRef × Nat)
  bufOwner : Option (TeamRef × Nat)
  queue : List (TeamRef × Nat)
  lodge : List LodgeEntry
  out : Tab Outgoing
  lentTo : Option Nat
  diag : Tab (List DWord)
  deriving DecidableEq, Repr

/-- A core's instruction cache lines, signatures and engine record cache (R107, R319, R42). -/
structure ILine where
  ctx : Nat
  line : Nat
  slots : List IWord
  word : BitVec 32
  bad : BitVec 5
  error : Bool
  deriving DecidableEq, Repr

/-- A TLB entry: holder (core 0 to 255, or 256 + chiplet), context, first byte and size of the page, the leaf value
cached and the leaf's own address (R224, R225). -/
structure TlbEntry where
  unit : Nat
  ctx : Nat
  base : Nat
  size : Nat
  pte : BitVec 64
  leaf : Nat
  deriving DecidableEq, Repr

/-- An entry of a stack's summit list: the word that is output, the element index, and the exact value it is ordered by, infinite or
±m × 2^e (R299 to R302). -/
structure SumEntry where
  word : Word
  idx : Nat
  inf : Bool
  neg : Bool
  m : Nat
  e : Int
  deriving DecidableEq, Repr

/-- A command of an async engine (R254 to R273, R286, R297). `stores` counts the entries of its group's store queue that a REL command waits for (R309), `signal` is
what `hpass` attached, once its group has dissolved (R269), and `scanAt` and `granted` hold the blocks each stack has scanned and the stacks whose next read has
its command slot (R277, R299). `held` keeps the source blocks that the next destination block needs as well (R258), `away` says that the block in progress waits
for a peer's acknowledgement (R324), and `grid` names the launch of its killed cluster, whose end waits for it (R367). -/
structure Cmd where
  id : Nat
  core : Nat
  team : TeamRef
  place : Nat
  slot : Nat
  hreg : Option Nat
  op : Nat
  a : DWord
  b : DWord
  c : DWord
  brec : BReg
  mod : BitVec 6
  imm : BitVec 32
  acq : Bool
  rel : Bool
  scope : Nat
  after : List Nat
  stores : Nat
  signal : Option Signal
  accepted : Bool
  acceptedAt : Nat
  shape : BitVec 512
  pages : List (Nat × BitVec 64 × Nat)
  total : Nat
  next : Nat
  counted : Nat
  subbed : Nat
  bar : Option Nat
  lines : List (Nat × Nat)
  fault : Option PoisonKind
  idxFault : Bool
  reject : Option Nat
  cancel : Bool
  sent : Bool
  arrived : List Nat
  left : List Nat
  hutFault : Option Nat
  busy : Bool
  reported : List Nat
  pmask : BitVec 16
  mmask : BitVec 16
  partials : Tab (List Word)
  lists : Tab (List SumEntry × Nat)
  scanned : List Nat
  scanAt : Tab Nat
  granted : List Nat
  result : Option (HState × Nat)
  finished : Bool
  unverified : Bool
  idxs : Option (List (Option Nat))
  asked : Option Nat
  prog : List (BitVec 32)
  held : List (Nat × List Byte)
  away : Bool
  grid : Option Nat
  deriving DecidableEq, Repr

/-- One loop in progress at a hut (R284). -/
structure HutLoop where
  lv : Bool
  first : Nat
  last : Nat
  count : Nat
  idx : Nat
  deriving DecidableEq, Repr

/-- A hut (R279, R289). -/
structure Hut where
  ib : List (BitVec 32)
  tag : Option (Nat × Nat × Nat)
  x : List (List Word)
  c : List Word
  i0 : Nat
  i1 : Nat
  wstart : Nat
  wn : Nat
  pc : Nat
  loops : List HutLoop
  running : Option Nat
  queue : List Nat
  granted : Bool
  deriving DecidableEq, Repr

/-- A memory stack's registers and channel windows (R277, R278, R391). -/
structure Stack where
  wnorm : Nat
  whut : Nat
  huten : Bool
  latedrop : BitVec 32
  busyref : BitVec 32
  hutcmd : BitVec 32
  sumcmd : BitVec 32
  windows : Tab (Nat × Nat × Nat × Nat)
  selfRefresh : Bool
  deriving DecidableEq, Repr

/-- Lane states of a fabric direction (R239). -/
inductive LaneState where
  | active | drain | train | ready | dead | lost
  deriving DecidableEq, Repr

/-- A lane: state, failed training attempts, whether it waits for its plane to be lit, whether it is in TRAIN since its plane went dark and so does not
count toward the limit, and whether it is marginal but must stay ACTIVE
until a lane leaves TRAIN (R239, R400). -/
structure FLane where
  st : LaneState
  fails : Nat
  darkWait : Bool
  exempt : Bool
  marginal : Bool
  deriving DecidableEq, Repr

/-- One direction of a pair: its lanes, rotation index, the MODE and RELAY in force, the colours that are out since a lock loss, whether its
flits are relayed now, and the resends of the flit in progress (R238 to R240). -/
structure FDir where
  lanes : List FLane
  rot : Nat
  mode : Nat
  relay : Nat
  out : List Nat
  belay : Bool
  charges : List Nat
  flitResends : Nat
  deriving DecidableEq, Repr

/-- A pair's routing register and its two directions (R241). -/
structure Pair where
  mode : Nat
  relay : Nat
  retrains : BitVec 16
  resends : BitVec 16
  a : FDir
  b : FDir
  deriving DecidableEq, Repr

/-- A monitor (R387), with the samples of the latest cycle in which it took one, which a clear of that cycle leaves in (R389). -/
structure Monitor where
  src : Nat
  target : Nat
  lane : Nat
  dir : Bool
  en : Bool
  min : BitVec 32
  max : BitVec 32
  count : BitVec 64
  buckets : Tab (BitVec 32)
  sampledAt : Nat
  samples : List Nat
  deriving DecidableEq, Repr

/-- A directory entry: presence by chiplet, single owner, host state of each port (R321). -/
structure DirEntry where
  present : BitVec 8
  owner : Option Nat
  host0 : Mesi
  host1 : Mesi
  deriving DecidableEq, Repr

/-- Bell request kinds (R318). -/
inductive BellKind where
  | gets | getx | upg | put
  deriving DecidableEq, Repr

/-- A request on the bell, with the context and retention its block is allocated with (R318, R234, R235). -/
structure BellReq where
  core : Nat
  kind : BellKind
  block : Nat
  sent : Nat
  ctx : Nat
  keep : Nat
  deriving DecidableEq, Repr

/-- A request at a home (R322). -/
inductive HomeKind where
  | read | ownership | notice (dirty : Bool) | atomic | hutRead | hst | uncachedRead | uncachedWrite | hostM2s (req : HostReq)
  deriving DecidableEq, Repr

/-- A request in a home's arrival order, with its requester: chiplet 0 to 7, port 8 or 9, or the home itself (R321, R322), the core
it is for, and its source: the store queue of group place `src % 16` of quadrant `src / 16`, or a command (R305, R286). -/
structure HomeReq where
  kind : HomeKind
  block : Nat
  who : Nat
  core : Nat
  src : Nat
  ctx : Nat
  keep : Nat
  waitFwd : Bool
  since : Nat
  deriving DecidableEq, Repr

/-- A forward on its way to an owner (R323). -/
structure Fwd where
  block : Nat
  stack : Nat
  own : Bool
  deriving DecidableEq, Repr

/-- A held eviction notice (R323, R401). -/
structure Notice where
  chiplet : Nat
  block : Nat
  dirty : Bool
  sent : Bool
  deriving DecidableEq, Repr

/-- A block an L1 holds, with its retention: 0 lowest, 1 normal, 2 high (R234, R318). -/
structure L1Entry where
  core : Nat
  block : Nat
  st : Mesi
  keep : Nat
  deriving DecidableEq, Repr

/-- A block a chiplet cache holds, the context that allocated it, and its retention: 0 lowest, 1 normal, 2 high (R233 to R235, R320). -/
structure L2Entry where
  chiplet : Nat
  block : Nat
  st : Mesi
  ctx : Nat
  keep : Nat
  deriving DecidableEq, Repr

/-- A request to a host for a block: RdOwn or RdShared, for a core (R325). -/
structure CxlReq where
  port : Nat
  block : Nat
  core : Nat
  own : Bool
  ctx : Nat
  keep : Nat
  deriving DecidableEq, Repr

/-- The coherence state: L1 and chiplet-cache states, signatures, bell, homes, directories, notices, the host filter, back-invalidates on their way, and writes of
the module itself that wait at their homes, each with its port (R318 to R327). -/
structure Coh where
  l1 : List L1Entry
  l2 : List L2Entry
  sigR : Tab (BitVec 2048)
  sigW : Tab (BitVec 2048)
  bell : Tab (List BellReq)
  homes : Tab (List HomeReq)
  dir : Tab DirEntry
  fwds : Tab (List Fwd)
  notices : List Notice
  filter : List (Nat × Nat × Nat × Mesi)
  cxlReqs : List CxlReq
  backInv : List (Nat × Nat × Bool)
  owed : List (Nat × Nat × List Byte)
  deriving DecidableEq, Repr

/-- A firmware image slot as the root of trust reads it (R406). -/
structure FwImage where
  bytes : List Byte
  ecdsa : List Byte
  lms : List Byte
  version : Nat
  deriving DecidableEq, Repr

/-- Reset and boot: the boot register and what survives a thermal trip (R399, R405 to R407). -/
structure Boot where
  stage : Nat
  slot : Bool
  ecdsaOk : Bool
  lmsOk : Bool
  failcode : Nat
  planedark : BitVec 4
  throt : Bool
  railsOff : Bool
  tripped : Bool
  romDone : Bool
  repair : List (Nat × Nat)
  repairOld : Nat
  images : List FwImage
  attest : List (BitVec 384)
  pwrlim : Nat
  pwrnow : Nat
  overSince : Option Nat
  deriving DecidableEq, Repr

/-- What goes to a peer module: an answer to its request at an address, or none for a failed access; a store of bytes; or an atomic with its width, its operand and,
for a compare-and-swap, its compare value (R216, R324). Each is one access at its home. -/
inductive PeerMsg where
  | answer (pa : Nat) (data : Option (List Byte))
  | read (pa n : Nat)
  | write (pa : Nat) (data : List Byte)
  | atomic (pa : Nat) (kind : AtomKind) (uns : Bool) (width : Nat) (val cmp : DWord)
  deriving DecidableEq, Repr

/-- What the module sends outward and what it has answered: messages and answers in the order given. -/
structure Outbox where
  used : List Used
  msix : List (Fn × Nat)
  events : List (Nat × VEvent)
  snoop : List (Nat × Nat × Nat)
  peer : List (Nat × PeerMsg)
  host : List (Nat × Nat × Bool)
  deriving DecidableEq, Repr

/-- Who executes the instruction now. -/
inductive Issuer where
  | module
  | group (quad : Nat) (team : TeamRef) (place : Nat)
  | lane (quad : Nat) (team : TeamRef) (place lane : Nat)
  | seq (quad : Nat) (team : TeamRef) (slot : Nat)
  | hut (h : Nat)
  deriving DecidableEq, Repr

/-- An entry of the schedule: which agent moves. -/
inductive Turn where
  | event (i : Instr)
  | quad (q : Nat)
  | lb (q lane : Nat)
  | seq (q : Nat)
  | hut (h : Nat)
  | second (q place : Nat) (agrees : Bool)
  | idle
  deriving DecidableEq, Repr, Inhabited

/-- The state of the module. `cycle` counts core cycles since module reset (R345); `refilled` the microseconds whose energy refill has been made
(R211); `agenda`, `tick`, `cur` and `nextId` are the
model's own: the turns that come next with the cycles that pass before each, the free-value counter, the issuer now
executing, and the next internal number. -/
structure State where
  cycle : Nat
  refilled : Nat
  agenda : List (Nat × Turn)
  tick : Nat
  cur : Issuer
  curWord : IWord
  nextId : Nat
  boot : Boot
  mem : Memory
  badBlocks : List Nat
  pf0 : Pf
  pf1 : Pf
  vfs : Tab Vf
  ctxs : Tab Ctx
  parts : Tab (List Nat)
  gbbase : Nat
  spillbase : Nat
  ccbase : Nat
  ccframes : Nat
  restsz : Nat
  restbase : Nat
  peers : Tab (Nat × Bool)
  quads : Tab Quad
  launches : List Launch
  clusters : List Cluster
  tiles : List Tile
  icache : Tab (List ILine)
  tlb : List TlbEntry
  recCache : Tab (List (Nat × Nat × List Byte))
  cmds : List Cmd
  late : List (Nat × Nat × Nat)
  huts : Tab Hut
  stackTab : Tab Stack
  fabric : Tab Pair
  monitors : Tab Monitor
  coh : Coh
  walkWait : List (Nat × Nat × Nat × Nat)
  walkFail : List (Nat × Nat × Nat)
  lineWait : List (Nat × Nat × Nat × Nat)
  peerReqs : List (Nat × Nat × PeerReq × Nat)
  out : Outbox
  deriving DecidableEq, Repr

/-- Why a step stops with a fault. -/
inductive Fault where
  /-- Raised by a meaning of a vector, porter, sequencer or hut instruction when `cur` names no resident issuer:
  the spec gives an instruction no effect without its issuer (R115). Safe: no run of the module reaches it, since the
  scheduler sets `cur` to the issuer it picked. -/
  | noIssuer
  deriving DecidableEq, Repr

/-- Why a step has no meaning. -/
inductive Refusal where
  /-- Raised by an arm of `exec` that has no meaning yet. Safe: the machine stops. -/
  | notModelled (mnemonic : String)
  deriving DecidableEq, Repr

/-- A virtqueue after reset: no entries, no vector, the largest size (R71; PRESUMED from virtio 1.2, log 18). -/
def VQueue.reset : VQueue :=
  { avail := [], kicked := false, vector := 0xFFFF, noNotify := false, availEvent := 0, readIdx := 0, enabled := true,
    size := 4096, usedIdx := 0, usedEvent := 0, noInterrupt := false }

/-- Driver-visible status after reset. -/
def Transport.reset : Transport :=
  { features := 0, featuresOk := false, driverOk := false, unusable := false, devSel := 0, drvSel := 0, cfgVector := 0xFFFF, acks := 0, winOff := 0, winLen := 0 }

/-- A VF that is not enabled and not created (R75, R316, R378, R393). -/
def Vf.reset : Vf :=
  { enabled := none, created := false, ready := false, tr := Transport.reset, wclass := 0, nwq := 0, priocap := 0,
    idle := 0, keep := [], parts := [], gen := 0, timelines := List.replicate 8 0, queues := [], containers := [],
    launchNo := 0, evBufs := [], held := [], evDrop := 0, evLost := 0, runstate := .running, msixPend := [],
    preempted := false, bstate := .active, holdoff := false, lendvf := 0xFF, collapses := 0, lastwake := 0,
    timer := 0, wakeAt := none, collapseStep := 0, told := [], devOk := false, sysOk := false, act := false, refcnt := 0,
    policyOld := none }

/-- A trap record with nothing recorded (R361). -/
def TrapRec.reset : TrapRec :=
  { valid := false, resumable := false, seq := false, cause := 0, reason := 0, repIdx := 0, code := 0, quad := 0,
    gplace := 0, pc := 0, lanes := 0, pending := 0, addr := 0, launchId := 0, cluster := 0, team := none, hold := false }

/-- The registers of a context after module reset (R212, R227, R351, R361, R379). -/
def Ctx.reset : Ctx :=
  { en := false, root := 0, iva := 0, isize := 0, iall := false, ibusy := false, iwait := [], occlim := 0, drophint := 0, lodgeto := 0, level := 0, refill := 0, cap := 0, capRefill := 0,
    brken := false, diagen := false, injen := false, trap := TrapRec.reset, hva := 0, hcount := 0, hbmp := 0,
    hbusy := false, herr := false, hdirty := [], hsince := 0, hread := false, hgo := (0, 0, 0), igo := none }

/-- A PF after module reset (R75). -/
def Pf.reset : Pf :=
  { linkUp := false, cxl := false, speed := 0, width := 0, l0p := 0, acs := 0, aer := 0, hdm := List.replicate 4 { base := 0, size := 0, committed := false },
    caperrAt := none, frs := 0, ready := false, caperr := false, numvfs := 0, vfEnable := false,
    tr := Transport.reset, adminQ := VQueue.reset }

/-- A quadrant after module reset (R101). -/
def Quad.reset : Quad :=
  { steered := false, flane := 0, sparebad := false, dead := false, failcnt := 0, steering := none, holder := none,
    bufOwner := none, queue := [], lodge := [], out := [], lentTo := none, diag := [] }

/-- A hut after module reset: an empty buffer and no tag (R279). DESIGN CHOICE (unsafe, log 6): the buffer words and
registers are 0. -/
def Hut.reset : Hut :=
  { ib := List.replicate 96 0, tag := none, x := List.replicate 24 (List.replicate 8 0), c := List.replicate 4 0,
    i0 := 0, i1 := 0, wstart := 0, wn := 0, pc := 0, loops := [], running := none, queue := [], granted := false }

/-- A stack's registers after module reset (R278). -/
def Stack.reset : Stack :=
  { wnorm := 8, whut := 4, huten := true, latedrop := 0, busyref := 0, hutcmd := 0, sumcmd := 0, windows := [],
    selfRefresh := false }

/-- A direction with all eight lanes active (R241). -/
def FDir.reset : FDir :=
  { lanes := List.replicate 8 { st := .active, fails := 0, darkWait := false, exempt := false, marginal := false }, rot := 0, mode := 0, relay := 0,
    out := [], belay := false,     charges := [], flitResends := 0 }

/-- A pair after module reset (R241). -/
def Pair.reset : Pair := { mode := 0, relay := 0, retrains := 0, resends := 0, a := FDir.reset, b := FDir.reset }

/-- A monitor after module reset (R387). -/
def Monitor.reset : Monitor :=
  { src := 0, target := 0, lane := 0, dir := false, en := false, min := 0xFFFFFFFF, max := 0, count := 0, buckets := [],
    sampledAt := 0, samples := [] }

/-- A block no one holds (R322). -/
def DirEntry.reset : DirEntry := { present := 0, owner := none, host0 := .i, host1 := .i }

/-- No cached copy and no request anywhere. -/
def Coh.reset : Coh :=
  { l1 := [], l2 := [], sigR := [], sigW := [], bell := [], homes := [], dir := [], fwds := [], notices := [],
    filter := [], cxlReqs := [], backInv := [], owed := [] }

/-- The boot and power registers after module reset (R403, R407). DESIGN CHOICE (unsafe, log 6): the firmware slots
and the repair record, which outlive a reset, are empty. -/
def Boot.reset : Boot :=
  { stage := 0, slot := false, ecdsaOk := false, lmsOk := false, failcode := 0, planedark := 0, throt := false,
    railsOff := false, tripped := false, romDone := false, repair := [], repairOld := 0, images := [], attest := [], pwrlim := 2800,
    pwrnow := 0, overSince := none }

/-- Nothing sent. -/
def Outbox.reset : Outbox := { used := [], msix := [], events := [], snoop := [], peer := [], host := [] }

/-- The module right after module reset (R404): every register at its Reset value, no container, no VF, and memory
with nothing listed. -/
def State.reset : State :=
  { cycle := 0, refilled := 0, agenda := [], tick := 0, cur := .module, curWord := 0, nextId := 0, boot := Boot.reset, mem := [],
    badBlocks := [], pf0 := Pf.reset, pf1 := Pf.reset, vfs := [], ctxs := [], parts := [], gbbase := 0, spillbase := 0,
    ccbase := 0, ccframes := 0, restsz := 0, restbase := 0, peers := [], quads := [], launches := [], clusters := [],
    tiles := [], icache := [], tlb := [], recCache := [], cmds := [], late := [], huts := [], stackTab := [], fabric := [],
    monitors := [], coh := Coh.reset, walkWait := [], walkFail := [], lineWait := [], peerReqs := [], out := Outbox.reset }

end Sys2Proof.Machine
end

