-- ==== Sys2Proof/Machine/Base.lean ====
section
/-! DEFINITION. Named operations over tables, memory, functions, contexts, stacks, quadrants, clusters, teams and groups, and what leaves an L1. -/
namespace Sys2Proof.Machine

/-! ### Sorting -/

/-- Insertion into a sorted list, after equal elements. -/
def insertBy {α : Type} (lt : α → α → Bool) (x : α) : List α → List α
  | [] => [x]
  | y :: t => if lt x y then x :: y :: t else y :: insertBy lt x t

/-- A stable sort. -/
def sortBy {α : Type} (lt : α → α → Bool) (l : List α) : List α := l.foldl (fun a x => insertBy lt x a) []

/-- Lexicographic order of three keys. -/
def lt3 (a b : Nat × Nat × Nat) : Bool := decide (a.1 < b.1) || (a.1 == b.1 && (decide (a.2.1 < b.2.1) || (a.2.1 == b.2.1 && decide (a.2.2 < b.2.2))))

/-- Distinct elements in order of first appearance. -/
def distinct (l : List Nat) : List Nat := l.foldl (fun a x => if a.contains x then a else a ++ [x]) []

/-! ### Tables and lists -/

/-- The entry of a table, or a default. -/
def Tab.get {α : Type} (t : Tab α) (k : Nat) (d : α) : α :=
  match t with
  | [] => d
  | (j, x) :: rest => if j = k then x else Tab.get rest k d

/-- Whether a table has an entry. -/
def Tab.has {α : Type} (t : Tab α) (k : Nat) : Bool := t.any (fun e => e.1 == k)

/-- A table without an entry. -/
def Tab.del {α : Type} (t : Tab α) (k : Nat) : Tab α := t.filter (fun e => e.1 != k)

/-- A table with one entry replaced or added. -/
def Tab.set {α : Type} (t : Tab α) (k : Nat) (x : α) : Tab α :=
  match t with
  | [] => [(k, x)]
  | (j, y) :: rest => if j = k then (k, x) :: rest else (j, y) :: Tab.set rest k x

/-- The element at an index changed. -/
def updAt {α : Type} (l : List α) (n : Nat) (f : α → α) : List α :=
  match l, n with
  | [], _ => []
  | x :: t, 0 => f x :: t
  | x :: t, n + 1 => x :: updAt t n f

/-- Sum of a list. -/
def sumOf (l : List Nat) : Nat := l.foldl (· + ·) 0

/-- Saturating increment of an unsigned register. -/
def satInc {w : Nat} (x : BitVec w) (n : Nat := 1) : BitVec w := BitVec.ofNat w (min (x.toNat + n) (2 ^ w - 1))

/-! ### Memory: one canonical form -/

/-- The byte at an address (log 1 for an address nothing has written). -/
def Memory.read (m : Memory) (a : Nat) : Byte :=
  match m with
  | [] => Config.unlistedByte
  | (k, x) :: rest => if k = a then x else if a < k then Config.unlistedByte else Memory.read rest a

/-- One byte written; writing what an unlisted address reads as removes the entry. -/
def Memory.write (m : Memory) (a : Nat) (b : Byte) : Memory :=
  match m with
  | [] => if b = Config.unlistedByte then [] else [(a, b)]
  | (k, x) :: rest =>
    if a < k then (if b = Config.unlistedByte then (k, x) :: rest else (a, b) :: (k, x) :: rest)
    else if a = k then (if b = Config.unlistedByte then rest else (a, b) :: rest)
    else (k, x) :: Memory.write rest a b

/-- The canonical form: addresses strictly rising from `lo`, no entry equal to what an unlisted address reads as. -/
def Memory.wfFrom (lo : Nat) : Memory → Bool
  | [] => true
  | (k, x) :: rest => decide (lo ≤ k) && decide (x ≠ Config.unlistedByte) && Memory.wfFrom (k + 1) rest

/-- The canonical form of a memory. -/
def Memory.wf (m : Memory) : Bool := Memory.wfFrom 0 m

/-- `n` bytes from an address on. -/
def Memory.bytes (m : Memory) (a n : Nat) : List Byte := (List.range n).map (fun i => m.read (a + i))

/-- Cells written in order. -/
def Memory.writeCells (m : Memory) (cs : List Host.Cell) : Memory := cs.foldl (fun m c => m.write c.1 c.2) m

/-- Bytes written from an address on. -/
def Memory.writeBytes (m : Memory) (a : Nat) : List Byte → Memory
  | [] => m
  | b :: bs => Memory.writeBytes (m.write a b) (a + 1) bs

/-- A little-endian number of `n` bytes (R5). -/
def Memory.nat (m : Memory) (a n : Nat) : Nat := natOfBytes (m.bytes a n)

/-- The cells of bytes from an address on. -/
def cellsOf (a : Nat) : List Byte → List Host.Cell
  | [] => []
  | b :: bs => (a, b) :: cellsOf (a + 1) bs

/-- Bits set in the byte-ordered number of `n` bytes at an address, by an atomic OR at its home (R224). -/
def Memory.orNat (m : Memory) (a n mask : Nat) : Memory := m.writeBytes a (bytesOfNat n ((m.nat a n) ||| mask))

/-! ### Poison -/

/-- Rank 1 is the highest (R355). -/
def PoisonKind.rank : PoisonKind → Nat
  | .uncorrectable => 1 | .protection => 2 | .pageFault => 3 | .bounds => 4 | .format => 5

/-- The code of a kind (R355). -/
def PoisonKind.code : PoisonKind → Nat
  | .uncorrectable => 0x20 | .protection => 0x21 | .pageFault => 0x22 | .bounds => 0x23 | .format => 0x24

/-- The higher-ranked of two tags (R355). -/
def worst (a b : Option PoisonKind) : Option PoisonKind :=
  match a, b with
  | none, y => y
  | x, none => x
  | some x, some y => if x.rank ≤ y.rank then some x else some y

/-- The highest-ranked tag of a list. -/
def worstOf (l : List (Option PoisonKind)) : Option PoisonKind := l.foldl worst none

/-! ### Functions, contexts, stacks and quadrants -/

def State.vf (s : State) (v : Nat) : Vf := s.vfs.get v Vf.reset
def State.setVf (s : State) (v : Nat) (x : Vf) : State := { s with vfs := s.vfs.set v x }
def State.updVf (s : State) (v : Nat) (f : Vf → Vf) : State := s.setVf v (f (s.vf v))
def State.ctx (s : State) (v : Nat) : Ctx := s.ctxs.get v Ctx.reset
def State.setCtx (s : State) (v : Nat) (x : Ctx) : State := { s with ctxs := s.ctxs.set v x }
def State.updCtx (s : State) (v : Nat) (f : Ctx → Ctx) : State := s.setCtx v (f (s.ctx v))
def State.quad (s : State) (q : Nat) : Quad := s.quads.get q Quad.reset
def State.setQuad (s : State) (q : Nat) (x : Quad) : State := { s with quads := s.quads.set q x }
def State.updQuad (s : State) (q : Nat) (f : Quad → Quad) : State := s.setQuad q (f (s.quad q))
def State.pf (s : State) (i : Fin 2) : Pf := if i = 0 then s.pf0 else s.pf1
def State.setPf (s : State) (i : Fin 2) (x : Pf) : State := if i = 0 then { s with pf0 := x } else { s with pf1 := x }
def State.hut (s : State) (h : Nat) : Hut := s.huts.get h Hut.reset
def State.setHut (s : State) (h : Nat) (x : Hut) : State := { s with huts := s.huts.set h x }
def State.stack (s : State) (k : Nat) : Stack := s.stackTab.get k Stack.reset
def State.setStack (s : State) (k : Nat) (x : Stack) : State := { s with stackTab := s.stackTab.set k x }
def State.pair (s : State) (k : Nat) : Pair := s.fabric.get k Pair.reset
def State.setPair (s : State) (k : Nat) (x : Pair) : State := { s with fabric := s.fabric.set k x }

/-- The whole microsecond reached (R345). -/
def State.usec (s : State) : Nat := s.cycle / Config.cyclesPerUs

/-- A context is outgoing on a quadrant: halting, halted or being restored, so that none of its groups wins the slot there and none of its
sequencers issues (R371, R372). -/
def State.frozen (s : State) (q v : Nat) : Bool := ((s.quad q).out).has v

/-- Some VF Enable is set (R70). -/
def State.anyEnable (s : State) : Bool := s.pf0.vfEnable || s.pf1.vfEnable

/-- Bytes written to physical memory. -/
def State.poke (s : State) (a : Nat) (bs : List Byte) : State := { s with mem := s.mem.writeBytes a bs }

/-- The rest range (R391). -/
def State.inRest (s : State) (pa : Nat) : Bool := decide (s.restbase ≤ pa) && decide (pa < s.restbase + 16 * s.restsz * 2 ^ 30)

/-- A fresh internal number. -/
def State.fresh (s : State) : Nat × State := (s.nextId, { s with nextId := s.nextId + 1 })

/-- The next free value, and the counter moved on (log 2). -/
def State.freeNat (s : State) : Nat × State := (Config.freeNat s.tick, { s with tick := s.tick + 1 })
def State.freeBool (s : State) : Bool × State := (Config.freeBool s.tick, { s with tick := s.tick + 1 })

/-! ### Clusters, teams, launches -/

def Cluster.is (c : Cluster) (vf launch idx : Nat) : Bool := c.vf == vf && c.launch == launch && c.idx == idx

def State.cluster? (s : State) (vf launch idx : Nat) : Option Cluster := s.clusters.find? (fun c => c.is vf launch idx)

def State.setCluster (s : State) (c : Cluster) : State :=
  { s with clusters := s.clusters.map (fun x => if x.is c.vf c.launch c.idx then c else x) }

def State.delCluster (s : State) (c : Cluster) : State :=
  { s with clusters := s.clusters.filter (fun x => !x.is c.vf c.launch c.idx) }

def State.clusterOf (s : State) (r : TeamRef) : Option Cluster := s.cluster? r.vf r.launch r.cluster

/-- A resident team. -/
def State.team? (s : State) (r : TeamRef) : Option Team :=
  match s.clusterOf r with
  | some c => c.teams.find? (fun t => t.ref == r)
  | none => none

def Cluster.setTeam (c : Cluster) (t : Team) : Cluster :=
  { c with teams := c.teams.map (fun x => if x.ref == t.ref then t else x) }

/-- A team's record replaced. -/
def State.setTeam (s : State) (t : Team) : State :=
  { s with clusters := s.clusters.map (fun c => if c.is t.ref.vf t.ref.launch t.ref.cluster then c.setTeam t else c) }

def State.updTeam (s : State) (r : TeamRef) (f : Team → Team) : State :=
  match s.team? r with
  | some t => s.setTeam (f t)
  | none => s

def State.launch? (s : State) (vf id : Nat) : Option Launch := s.launches.find? (fun l => l.vf == vf && l.id == id)

def State.setLaunch (s : State) (l : Launch) : State :=
  { s with launches := s.launches.map (fun (x : Launch) => if x.vf == l.vf && x.id == l.id then l else x) }

/-- The kernel descriptor of a team's launch. -/
def State.kd? (s : State) (r : TeamRef) : Option KDesc := (s.launch? r.vf r.launch).map (·.kd)

/-- Number of quadrants of a team. -/
def Team.slots (t : Team) : Nat := t.quads.length

/-- The team has a matrix stream (R31). -/
def Team.hasMatrix (t : Team) : Bool := !t.seqs.isEmpty

/-- A thread by block and visible lane (R121). -/
def Team.thread? (t : Team) (block lane : Nat) : Option Thread := t.threads.find? (fun x => x.block == block && x.lane == lane)

def Team.setThread (t : Team) (x : Thread) : Team :=
  { t with threads := t.threads.map (fun y => if y.block == x.block && y.lane == x.lane then x else y) }

/-- The group at a place of a slot. -/
def Team.group? (t : Team) (slot place : Nat) : Option Group := t.groups.find? (fun g => g.slot == slot && g.place == place)

def Team.setGroup (t : Team) (g : Group) : Team :=
  { t with groups := t.groups.map (fun x => if x.slot == g.slot && x.place == g.place then g else x) }

def Team.delGroup (t : Team) (g : Group) : Team :=
  { t with groups := t.groups.filter (fun x => !(x.slot == g.slot && x.place == g.place)) }

/-- A group's number within its team, for what names it while it may be regrouped. -/
def Group.key (g : Group) : Nat := 16 * g.slot + g.place

/-- A position is one of a group's (R122). -/
def Group.holds (g : Group) (block lane : Nat) : Bool := g.remap.getD lane none == some block

/-- A load or atomic of a group: one that it issued, or one on its way to a thread that has since come to it (R132, R306). -/
def Group.awaits (g : Group) (p : PendOp) : Bool :=
  p.place == g.key || p.vals.any (fun x => match x with | .v b l _ _ => g.holds b l | _ => false) ||
    p.late.any (fun x => match x.1 with | .lane b l _ _ _ => g.holds b l | _ => false)

/-- The loads and atomics of a group that are not over. -/
def Team.opsOf (t : Team) (g : Group) : List PendOp := t.pend.filter g.awaits

/-- What holds back a group's later accesses: its acquires, and loads whose bytes are still to come (R306, R310, R338). -/
def Team.acquires (t : Team) (g : Group) : List Nat := ((t.opsOf g).filter (·.acquire)).map (·.id)

/-- The number that stands for a group that has dissolved: no group has it, and it keeps the slot modulo 1,024. -/
def deadKey (key : Nat) : Nat := 16384 + key

/-- A group leaves its place: what is still on its way to its s- and b-registers reaches no register, since the group that takes the place is another one (R132;
DEDUCED, log 53). -/
def Team.dissolve (t : Team) (g : Group) : Team :=
  let kept (x : PendVal) : Bool := match x with | .v .. => true | .s p _ _ => p != g.key | .b p _ _ => p != g.key
  let late (x : LoadDst × List (Nat × Nat)) : Bool := match x.1 with | .lane .. => true | .s p _ _ _ => p != g.key | .b p _ => p != g.key
  { t with groups := t.groups.filter (fun x => !(x.slot == g.slot && x.place == g.place))
           pend := t.pend.map (fun (p : PendOp) =>
             { p with place := if p.place = g.key then deadKey p.place else p.place, vals := p.vals.filter kept, late := p.late.filter late }) }

/-- The slot of a quadrant of the team. -/
def Team.slotOf (t : Team) (quad : Nat) : Nat := t.quads.idxOf quad

/-- A thread belongs to a group when the group's table names its block at its lane (R122). -/
def Group.owns (g : Group) (t : Thread) : Bool := g.remap.getD t.lane none == some t.block

/-- The threads of a group, ascending visible lane. -/
def Team.members (t : Team) (g : Group) : List Thread :=
  (List.range 32).filterMap (fun l => (g.remap.getD l none).bind (fun b => t.thread? b l))

/-- Live outside HELD (R132). -/
def ThreadState.here : ThreadState → Bool
  | .sub | .lb | .wait => true
  | _ => false

/-- Visible lane to virtual lane: occupied entries below (R122). An exited thread's entry stays occupied until a spawned thread takes its position (DEDUCED,
log 53). -/
def Group.virt (g : Group) (lane : Nat) : Nat := ((g.remap.take lane).filter Option.isSome).length

/-- Bit mask of virtual lanes. -/
def laneMask (lanes : List Nat) : BitVec 32 := lanes.foldl (fun m l => m ||| BitVec.ofNat 32 (2 ^ (l % 32))) 0

/-! ### L1 contents leaving (R99, R318) -/

/-- M blocks of some L1 entries are written back into their chiplet cache. -/
def Coh.writeBack (c : Coh) (chiplet : Nat) (l : List L1Entry) : Coh :=
  { c with l2 := c.l2.map (fun (e : L2Entry) => if e.chiplet == chiplet && l.any (fun x => decide (x.st = .m) && x.block == e.block) then { e with st := .m } else e) }

/-- L1 entries of a chiplet that a test names leave, their M data written back. -/
def Coh.dropL1 (c : Coh) (chiplet : Nat) (gone : L1Entry → Bool) : Coh :=
  let hit (e : L1Entry) : Bool := e.core / 32 == chiplet && gone e
  let c := c.writeBack chiplet (c.l1.filter hit)
  { c with l1 := c.l1.filter (fun e => !hit e) }

end Sys2Proof.Machine
end

