-- ==== Sys2Proof/Machine/Directory.lean ====
section
/-! DEFINITION. Where a physical address lives (R217, R237, R274), the fabric and its flits (R20, R238 to R241), and who holds a block: L1 and
chiplet-cache states, the home's directory entry, and what a home does with it (R233 to R235, R318, R320 to R323, R325, R327). Caches hold no bytes
here: one physical store holds every write, and the states say who may read and write it. -/
namespace Sys2Proof.Machine

/-! ### Physical addresses (R217, R237, R274, R391) -/

/-- Device memory (R217). -/
def isDevice (pa : Nat) : Bool := pa < Config.deviceBytes
/-- Host memory behind port 0 or 1 (R217). -/
def isHost (pa : Nat) : Bool := 2 ^ 48 ≤ pa && pa < 3 * 2 ^ 48
/-- The port of a host address. -/
def hostPort (pa : Nat) : Nat := if pa < 2 ^ 49 then 0 else 1
/-- An implemented physical address (R217). -/
def implemented (pa : Nat) : Bool := isDevice pa || isHost pa

/-- The compute range (R274). -/
def State.inCompute (s : State) (pa : Nat) : Bool := s.ccbase * 2 ^ 21 ≤ pa && pa < (s.ccbase + s.ccframes) * 2 ^ 21

/-- The stack that homes a device address: bank-striped in the compute range (R274), the hash of R237 elsewhere. -/
def State.homeStack (s : State) (pa : Nat) : Nat :=
  if s.inCompute pa then bitsOf pa 13 10
  else
    let g := bitsOf pa 39 8
    (List.range 8).foldl (fun a i => a ^^^ (g / 16 ^ i % 16)) 0

/-- Banks of the rest range leave self-refresh for a request to a block (R391). -/
def State.rouse (s : State) (block : Nat) : State :=
  let k := s.homeStack (64 * block)
  if s.inRest (64 * block) && (s.stack k).selfRefresh then s.setStack k { s.stack k with selfRefresh := false } else s

/-- Banks leave self-refresh for requests to several blocks. -/
def State.rouseAll (s : State) (blocks : List Nat) : State := blocks.foldl (fun (s : State) b => s.rouse b) s

/-- The channel of a device address within its stack (R237, R274). -/
def State.homeChannel (s : State) (pa : Nat) : Nat :=
  if s.inCompute pa then bitsOf pa 20 10 / 16 / 4
  else
    let g := bitsOf pa 39 8
    bitsOf g 8 4 ^^^ bitsOf g 13 9 ^^^ bitsOf g 18 14 ^^^ bitsOf g 23 19 ^^^ bitsOf g 28 24 ^^^ bitsOf g 31 29

/-- A physical block of 64 bytes holds an uncorrectable error. -/
def State.badAt (s : State) (pa n : Nat) : Bool := s.badBlocks.any (fun b => pa / 64 ≤ b && b ≤ (pa + n - 1) / 64)

/-! ### Directions of the fabric (R238 to R241, R401) -/

/-- The register number of a pair (R241). -/
def pairKey (i j : Nat) : Nat := if i < j then 25 * i + j else 25 * j + i

/-- One direction of a pair. -/
def State.dirOf (s : State) (i j : Nat) : FDir := if i < j then (s.pair (pairKey i j)).a else (s.pair (pairKey i j)).b

/-- One direction of a pair changed. -/
def State.updDir (s : State) (d : DirRef) (h : FDir → FDir) : State :=
  if d.src = d.dst ∨ 25 ≤ d.src ∨ 25 ≤ d.dst then s
  else
    let k := pairKey d.src d.dst
    let p := s.pair k
    s.setPair k (if d.src < d.dst then { p with a := h p.a } else { p with b := h p.b })

/-- A lane of a direction changed; its active set starts at rotation 0 again (R239). -/
def FDir.setLane (d : FDir) (n : Nat) (h : FLane → FLane) : FDir := { d with lanes := updAt d.lanes n h, rot := 0 }

/-- The state of a lane. -/
def FDir.st (d : FDir) (n : Nat) : LaneState := match d.lanes[n]? with | some l => l.st | none => .dead

/-- A colour is lost in a direction. -/
def FDir.hasLost (d : FDir) : Bool := d.lanes.any (fun l => decide (l.st = .lost))

/-- A pair has a lost colour in either direction. -/
def Pair.hasLost (p : Pair) : Bool := p.a.hasLost || p.b.hasLost

/-- The flits of a direction travel through the relay: BELAY is in force, a colour is out, RELAY names a third port, and neither of the relay's
pairs has a lost colour; otherwise the pair continues on its remaining lanes (R240). -/
def State.relays (s : State) (src dst : Nat) (d : FDir) : Bool :=
  d.mode == 1 && !d.out.isEmpty && decide (d.relay < 25) && d.relay != src && d.relay != dst &&
    !(s.pair (pairKey src d.relay)).hasLost && !(s.pair (pairKey d.relay dst)).hasLost

/-- The way every direction takes from the next flit boundary on. -/
def State.route (s : State) : State :=
  { s with fabric := s.fabric.map (fun (e : Nat × Pair) =>
      let i := e.1 / 25
      let j := e.1 % 25
      (e.1, { e.2 with a := { e.2.a with belay := s.relays i j e.2.a }, b := { e.2.b with belay := s.relays j i e.2.b } })) }

/-- The colours out of which every lane that is not DEAD is ACTIVE again are back, when one is (R240). -/
def FDir.backIn (d : FDir) : FDir :=
  { d with out := d.out.filter (fun c =>
      let l := (List.range 4).map (fun p => d.st (2 * p + c))
      !(l.all (fun x => decide (x = .active) || decide (x = .dead)) && l.any (fun x => decide (x = .active)))) }

/-- Some lane carries flits: it is active, or rejoins the active set at the next flit boundary (R239). -/
def FDir.up (d : FDir) : Bool := d.lanes.any (fun l => decide (l.st = .active) || decide (l.st = .ready))

/-- A direction carries flits, directly or through its relay. -/
def State.wayUp (s : State) (i j : Nat) : Bool :=
  if i = j then true
  else
    let d := s.dirOf i j
    if d.belay then (s.dirOf i d.relay).up && (s.dirOf d.relay j).up else d.up

/-- Both directions between two ports. -/
def State.pathUp (s : State) (i j : Nat) : Bool := s.wayUp i j && s.wayUp j i

/-- The port of a stack, and of the I/O chiplet (R238). -/
def stackPort (k : Nat) : Nat := 8 + k
def ioPort : Nat := 24

/-- The port that a physical address is reached through. -/
def State.portOf (s : State) (pa : Nat) : Nat := if isDevice pa then stackPort (s.homeStack pa) else ioPort

/-! ### Flits (R20, R238, R239, R241) -/

/-- A direction as it stands at the next flit boundary: a draining lane leaves the active set, a READY lane rejoins it, the rotation index starts at 0 again when
the set changed, and the MODE and RELAY written to the pair's register are in force (R238, R239, R241). -/
def FDir.atBoundary (d : FDir) (mode relay : Nat) : FDir :=
  let moves (l : FLane) : Bool := decide (l.st = .drain) || decide (l.st = .ready)
  { { d with rot := if d.lanes.any moves then 0 else d.rot
             lanes := d.lanes.map (fun (l : FLane) =>
               if l.st = LaneState.drain then { l with st := .train, fails := 0 } else if l.st = LaneState.ready then { l with st := .active, fails := 0 } else l) }.backIn with
    mode := mode, relay := relay, charges := [], flitResends := 0 }

/-- Nothing waits for the next flit boundary of a direction. -/
def FDir.steady (d : FDir) (mode relay : Nat) : Bool :=
  d.mode == mode && d.relay == relay && d.lanes.all (fun l => decide (l.st ≠ .drain) && decide (l.st ≠ .ready))

/-- A flit boundary of a direction: every lane handed back counts in RETRAINS. -/
def State.boundary (s : State) (i j : Nat) : State :=
  let p := s.pair (pairKey i j)
  let d := s.dirOf i j
  if i = j ∨ d.steady p.mode p.relay = true then s
  else
    let back := (d.lanes.filter (fun l => decide (l.st = .ready))).length
    ((s.setPair (pairKey i j) { p with retrains := satInc p.retrains back }).updDir ⟨i, j⟩ (fun x => x.atBoundary p.mode p.relay)).route

/-- The lanes that carry the beats of the flit in progress, ascending: a draining lane does so until that flit ends (R239). -/
def FDir.carrying (d : FDir) : List Nat :=
  (List.range 8).filter (fun n => match d.lanes[n]? with | some l => decide (l.st = .active) || decide (l.st = .drain) | none => false)

/-- The lanes that the nine beats of the next flit travel on. -/
def FDir.beats (d : FDir) : List Nat := (List.range 9).map (fun b => d.carrying.getD ((d.rot + b) % d.carrying.length) 0)

/-- Flits sent in a direction: each beat moves the rotation on by one place. -/
def FDir.sent (d : FDir) (n : Nat) : FDir := { d with rot := if d.carrying.isEmpty then d.rot else (d.rot + 9 * n) % d.carrying.length }

/-- Flits sent over the pair of two ports; the first begins at a flit boundary. -/
def State.sendOver (s : State) (i j n : Nat) : State :=
  if i = j ∨ n = 0 then s
  else
    let s := s.boundary i j
    let p := s.pair (pairKey i j)
    s.setPair (pairKey i j) (if i < j then { p with a := p.a.sent n } else { p with b := p.b.sent n })

/-- Flits from one port to another, over the relay's own pairs while the direction is relayed (R240). -/
def State.flits (s : State) (i j n : Nat) : State :=
  if n = 0 then s
  else
    let s := s.boundary i j
    let d := s.dirOf i j
    if i ≠ j ∧ d.belay = true then (s.sendOver i d.relay n).sendOver d.relay j n else s.sendOver i j n

/-- Flits of a message of some bytes: one, and one for each 64 bytes it carries (R238). -/
def msgFlits (bytes : Nat) : Nat := 1 + ceilDiv bytes 64

/-- A request to a party on another port and its answer. -/
def State.exchange (s : State) (i j out back : Nat) : State := (s.flits i j out).flits j i back

/-! ### Copies and directory entries (R318, R320 to R322, R327) -/

/-- The state of a block in an L1. -/
def Coh.l1St (c : Coh) (core block : Nat) : Mesi :=
  match c.l1.find? (fun (e : L1Entry) => e.core == core && e.block == block) with
  | some e => e.st
  | none => .i

def Coh.l2Entry? (c : Coh) (chiplet block : Nat) : Option L2Entry :=
  c.l2.find? (fun (e : L2Entry) => e.chiplet == chiplet && e.block == block)

/-- The permission a chiplet cache holds a block in. -/
def Coh.l2St (c : Coh) (chiplet block : Nat) : Mesi := match c.l2Entry? chiplet block with | some e => e.st | none => .i

/-- A block held in E or M is held in S from now on, in the chiplet cache and its L1s. -/
def Coh.downgrade (c : Coh) (chiplet block : Nat) : Coh :=
  { c with l2 := c.l2.map (fun (e : L2Entry) => if e.chiplet == chiplet && e.block == block then { e with st := .s } else e)
           l1 := c.l1.map (fun (e : L1Entry) => if e.core / 32 == chiplet && e.block == block then { e with st := .s } else e) }

/-- Every copy of a block in a chiplet is gone. -/
def Coh.invalidate (c : Coh) (chiplet block : Nat) : Coh :=
  let c := c.dropL1 chiplet (fun e => e.block == block)
  { c with l2 := c.l2.filter (fun (e : L2Entry) => !(e.chiplet == chiplet && e.block == block)) }

/-- A dirty copy of a block in a chiplet. -/
def Coh.dirty (c : Coh) (chiplet block : Nat) : Bool :=
  decide (c.l2St chiplet block = .m) || c.l1.any (fun (e : L1Entry) => e.core / 32 == chiplet && e.block == block && decide (e.st = .m))

def Coh.dirEntry (c : Coh) (block : Nat) : DirEntry := c.dir.get block DirEntry.reset
def Coh.setDir (c : Coh) (block : Nat) (d : DirEntry) : Coh := { c with dir := if d = DirEntry.reset then c.dir.del block else c.dir.set block d }

/-- Chiplets present in an entry. -/
def DirEntry.chiplets (d : DirEntry) : List Nat := (List.range 8).filter (fun i => d.present.getLsbD i)

def DirEntry.add (d : DirEntry) (c : Nat) : DirEntry := { d with present := d.present ||| BitVec.ofNat 8 (2 ^ c) }
def DirEntry.del (d : DirEntry) (c : Nat) : DirEntry :=
  { d with present := d.present &&& ~~~(BitVec.ofNat 8 (2 ^ c)), owner := if d.owner = some c then none else d.owner }

/-- The ports whose host must be back-invalidated before a request: any holder for a write, an A holder for a read (R327). -/
def DirEntry.hostConflicts (d : DirEntry) (inval : Bool) : List Nat :=
  let bad (st : Mesi) : Bool := if inval then decide (st ≠ .i) else decide (st = .e) || decide (st = .m)
  (if bad d.host0 then [0] else []) ++ (if bad d.host1 then [1] else [])


/-! ### Chiplet caches (R233 to R235, R320) -/

/-- The 128-byte lines a chiplet cache holds, least recently used first: a line stands where the block of it that was used last stands (R235). -/
def Coh.l2Lines (c : Coh) (chiplet : Nat) : List L2Entry :=
  (c.l2.filter (fun (e : L2Entry) => e.chiplet == chiplet)).foldr
    (fun e (a : List L2Entry) => if a.any (fun x => x.block / 2 == e.block / 2) then a else e :: a) []

/-- The set of a line: 96 MiB of 128-byte lines in 16 ways are 49,152 sets (R17, R233). Which set a line falls into is free (log 2). -/
def l2SetOf (line : Nat) : Nat := Config.l2Set line % 49152

/-- OCC of a context in a chiplet cache (R227). -/
def Coh.occ (c : Coh) (ctx chiplet : Nat) : Nat := ((c.l2Lines chiplet).filter (fun e => e.ctx == ctx)).length

/-- The victim for a line in a full set: the oldest line of a context over its limit, else the oldest of the lowest retention
(R234, R235). -/
def State.victim (s : State) (chiplet line : Nat) : Option L2Entry :=
  let lines := s.coh.l2Lines chiplet
  if lines.length < 16 ∨ lines.any (fun e => e.block / 2 == line) then none
  else
    let mine := lines.filter (fun e => l2SetOf (e.block / 2) == l2SetOf line)
    if mine.length < 16 then none
    else
      let past := mine.filter (fun e => decide (0 < (s.ctx e.ctx).occlim) && decide ((s.ctx e.ctx).occlim * 8192 < s.coh.occ e.ctx chiplet))
      match past with
      | e :: _ => some e
      | [] => (mine.filter (fun e => mine.all (fun x => decide (e.keep ≤ x.keep)))).head?

/-- The port of the one who asks a home: a chiplet, the I/O chiplet for a host, or the home itself. -/
def whoPort (stack who : Nat) : Nat := if who < 8 then who else if who < 10 then ioPort else stackPort stack

/-- Flits of a request: one, and one for each 64 bytes it carries (R238). -/
def HomeKind.flits : HomeKind → Nat
  | .notice dirty => if dirty then 2 else 1
  | .uncachedWrite => 2
  | .hostM2s (.write _) => 2
  | _ => 1

/-- The other block of a request's line is being read for the same party: the two make one line read, which is one request flit (R238). -/
def HomeReq.joins (r : HomeReq) (l : List HomeReq) : Bool :=
  (decide (r.kind = .read) || decide (r.kind = .uncachedRead)) &&
    l.any (fun x => decide (x.kind = r.kind) && x.who == r.who && x.core == r.core && x.src == r.src && x.block != r.block && x.block / 2 == r.block / 2)

/-- A request joins a home's arrival order. -/
def State.sendHome (s : State) (r : HomeReq) : State :=
  let k := s.homeStack (64 * r.block)
  let l := s.coh.homes.get k []
  { s with coh := { s.coh with homes := s.coh.homes.set k (l ++ [r]) } }.flits (whoPort k r.who) (stackPort k) (if r.joins l then 0 else r.kind.flits)

/-- An eviction, or data written back, leaves for the host: DirtyEvict when dirty, else CleanEvict (R325). -/
def State.toHost (s : State) (block : Nat) (dirty : Bool) : State := { s with out := { s.out with host := s.out.host ++ [(hostPort (64 * block), block, dirty)] } }

/-- A chiplet's eviction of a host block reaches the I/O chiplet, which tells the host when no other holder is left (R325). -/
def State.hostEvicted (s : State) (chiplet block : Nat) (dirty : Bool) : State :=
  let s := { s with coh := { s.coh with filter := s.coh.filter.filter (fun f => !(f.2.1 == block && f.2.2.1 == chiplet)) } }.flits chiplet ioPort (if dirty then 2 else 1)
  if s.coh.filter.any (fun f => f.2.1 == block) then s else s.toHost block dirty

/-- A block leaves a chiplet cache: its L1 copies go first, then a notice to its home, or an eviction to its host; the notice buffer keeps either while its way carries
nothing (R320, R323, R325, R401). -/
def State.evict (s : State) (chiplet block ctx : Nat) : State :=
  let dirty := s.coh.dirty chiplet block
  let pa := 64 * block
  let s := { s with coh := s.coh.invalidate chiplet block }
  if isDevice pa then
    let up := s.wayUp chiplet (s.portOf pa)
    let s := { s with coh := { s.coh with notices := s.coh.notices ++ [{ chiplet := chiplet, block := block, dirty := dirty, sent := up }] } }
    if up then s.sendHome { kind := .notice dirty, block := block, who := chiplet, core := 256, src := 0, ctx := ctx, keep := 0, waitFwd := false, since := s.cycle } else s
  else
    if s.wayUp chiplet ioPort then s.hostEvicted chiplet block dirty
    else { s with coh := { s.coh with notices := s.coh.notices ++ [{ chiplet := chiplet, block := block, dirty := dirty, sent := false }] } }

/-- The set of a line has room, or room can be made: the notice buffer of 1,024 entries is not full (R232, R323). -/
def State.canAllocate (s : State) (chiplet block : Nat) : Bool :=
  match s.victim chiplet (block / 2) with
  | none => true
  | some _ => decide ((s.coh.notices.filter (fun (n : Notice) => n.chiplet == chiplet)).length + 2 ≤ 1024)

/-- A block enters a chiplet cache as its most recent line; the victim's blocks leave first. A block that a no-allocate store had to own for a moment is the first victim. -/
def State.allocate (s : State) (chiplet block ctx keep : Nat) (st : Mesi) : State :=
  let s := match s.victim chiplet (block / 2) with
    | none => s
    | some v =>
      let both := [v.block / 2 * 2, v.block / 2 * 2 + 1].filter (fun b => decide (s.coh.l2St chiplet b ≠ Mesi.i))
      both.foldl (fun (s : State) b => s.evict chiplet b v.ctx) s
  let rest := s.coh.l2.filter (fun (e : L2Entry) => !(e.chiplet == chiplet && e.block == block))
  { s with coh := { s.coh with l2 := rest ++ [{ chiplet := chiplet, block := block, st := st, ctx := ctx, keep := if keep = 3 then 0 else keep }] } }

/-- A request that waits for the acknowledgement of its own chiplet's notice for the block (R323): it holds back no other. -/
def Coh.heldBack (c : Coh) (r : HomeReq) : Bool :=
  (match r.kind with | .notice _ => false | _ => true) && c.notices.any (fun (n : Notice) => n.chiplet == r.who && n.block == r.block)

/-- No request for a device block stands at its home before one that arrives now (R321). -/
def State.homeClear (s : State) (block : Nat) : Bool := (s.coh.homes.get (s.homeStack (64 * block)) []).all (fun (r : HomeReq) => r.block != block || s.coh.heldBack r)

/-! ### Back-invalidates and recalls (R322, R323, R327) -/

/-- A back-invalidate leaves the home of a block for a host, unless one is on its way; it waits while its way to the I/O chiplet carries nothing (R401). -/
def State.sendBi (s : State) (port block : Nat) (inval : Bool) : State :=
  if s.coh.backInv.any (fun b => b.1 == port && b.2.1 == block) || !s.wayUp (s.portOf (64 * block)) ioPort then s
  else { s with coh := { s.coh with backInv := s.coh.backInv ++ [(port, block, inval)] } }.flits (s.portOf (64 * block)) ioPort 1

/-- Back-invalidates leave for hosts. -/
def State.sendBis (s : State) (l : List (Nat × Nat × Bool)) : State := l.foldl (fun (s : State) x => s.sendBi x.1 x.2.1 x.2.2) s

/-- Every copy on the module of a device block is recalled, at once, for a party that holds none: the owner is forwarded to, and for a write every holder is
invalidated (R322). -/
def State.recallAll (s : State) (block : Nat) (inval : Bool) : State :=
  let d := s.coh.dirEntry block
  let home := s.portOf (64 * block)
  if inval then
    let c := (d.chiplets.foldl (fun (c : Coh) x => c.invalidate x block) s.coh).setDir block { d with present := 0, owner := none }
    d.chiplets.foldl (fun (s : State) x => s.exchange home x 1 (if d.owner = some x then 2 else 1)) { s with coh := c }
  else
    match d.owner with
    | some o => { s with coh := (s.coh.downgrade o block).setDir block { d with owner := none } }.exchange home o 1 2
    | none => s

/-- Device blocks are recalled for an access made from a port, whose requests and answers travel, and their banks are awake (R322, R391). -/
def State.access (s : State) (port : Nat) (inval : Bool) (block : Nat) : State :=
  ((s.recallAll block inval).rouse block).exchange port (s.portOf (64 * block)) (if inval then 2 else 1) 1

/-- The way of a block and of the copies that an access from a port recalls carries flits: its owner's for a read, every holder's for a write. -/
def State.blockWays (s : State) (port : Nat) (inval : Bool) (block : Nat) : Bool :=
  let d := s.coh.dirEntry block
  let home := s.portOf (64 * block)
  s.pathUp port home && (!isDevice (64 * block) || ((if inval then d.chiplets else d.owner.toList).all (fun c => s.pathUp home c) &&
    ((d.hostConflicts inval).isEmpty || s.pathUp home ioPort)))

/-- What an access from a port to device blocks, read or written, must wait for at their homes: a dark way, the hosts, or requests that came first; none when it may
go on. The state then, with whether a way is dark (R321, R327, R401). -/
def State.homeWait (s : State) (port : Nat) (rd wr : List Nat) : Option (Bool × State) :=
  let conf (inval : Bool) (l : List Nat) : List (Nat × Nat × Bool) :=
    (l.filter (fun b => isDevice (64 * b))).flatMap (fun b => ((s.coh.dirEntry b).hostConflicts inval).map (fun p => (p, b, inval)))
  if !(rd.all (s.blockWays port false) && wr.all (s.blockWays port true)) then some (true, s)
  else
    match conf false rd ++ conf true wr with
    | [] => if ((rd ++ wr).filter (fun b => isDevice (64 * b))).all s.homeClear then none else some (false, s)
    | l => some (false, s.sendBis l)

/-! ### Writes of the module itself (R87, R321, R327) -/

/-- The blocks that bytes at an address lie in. -/
def blocksOf (a n : Nat) : List Nat := if n = 0 then [] else (List.range ((a + n - 1) / 64 - a / 64 + 1)).map (fun i => a / 64 + i)

/-- Bytes that the module itself writes to device memory, from a port and at their homes: copies on the module are recalled at once; behind a host, an earlier request
or a dark way the write waits (R321, R327; log 66). -/
def State.homeWrite (s : State) (port a : Nat) (bs : List Byte) : State :=
  let blocks := blocksOf a bs.length
  let late (s : State) : State := { s with coh := { s.coh with owed := s.coh.owed ++ [(port, a, bs)] } }
  if s.coh.owed.any (fun w => (blocksOf w.2.1 w.2.2.length).any blocks.contains) then late s
  else match s.homeWait port [] blocks with
    | some (_, s) => late s
    | none => (blocks.foldl (fun (s : State) b => s.access port true b) s).poke a bs

/-- Waiting writes are made where they can be now, in order. -/
def State.settleOwed (s : State) : State :=
  s.coh.owed.foldl (fun (s : State) (w : Nat × Nat × List Byte) => s.homeWrite w.1 w.2.1 w.2.2) { s with coh := { s.coh with owed := [] } }

/-- Device memory as it will stand once the waiting writes have been made. -/
def State.laid (s : State) : Memory := s.coh.owed.foldl (fun (m : Memory) (w : Nat × Nat × List Byte) => m.writeBytes w.2.1 w.2.2) s.mem

end Sys2Proof.Machine
end

