-- ==== Sys2Proof/Machine/Ops.lean ====
section
/-! DEFINITION. The guest book, messages, completions and events; rollback and the end of a grid; retirement; and taking a trap, returning from one, and what
waits behind it (R87, R88, R358 to R367, R376, R377, R383, R384). -/
namespace Sys2Proof.Machine

/-! ### The guest book (R87, R88) -/

def GbState.code : GbState → Nat
  | .free => 0 | .placed => 1 | .running => 2 | .rollback => 3 | .done => 4 | .killed => 5

/-- The 64 bytes of a guest-book entry (R88). -/
def Cluster.entryBytes (c : Cluster) (ctrW : Nat × Nat) : List Byte :=
  bytesOfNat 8 c.launch ++ bytesOfNat 1 c.vf ++ bytesOfNat 1 0 ++ bytesOfNat 2 c.gen.toNat ++ bytesOfNat 1 c.st.code ++
    bytesOfNat 1 ((if c.escaped then 1 else 0) + (if c.verify then 2 else 0) + 4 * c.retries) ++ bytesOfNat 2 c.kidx ++
    bytesOfNat 4 c.ctr ++ bytesOfNat 4 c.firstTeam ++ bytesOfNat 4 c.idx ++ bytesOfNat 1 c.chiplet ++
    bytesOfNat 1 (c.x0 + 8 * c.y0) ++ bytesOfNat 1 ctrW.1 ++ bytesOfNat 1 ctrW.2 ++ bytesOfNat 2 c.copy ++ bytesOfNat 30 0

/-- A cluster's entry written to the guest book at its lowest module quadrant (R87). -/
def State.writeEntry (s : State) (c : Cluster) : State :=
  let wh := match s.launch? c.vf c.launch with | some l => (l.kd.cw, l.kd.ch) | none => (0, 0)
  s.homeWrite ioPort (s.gbbase + 64 * c.gbQuad) (c.entryBytes wh)

/-- The entry at a cluster's slot of the guest book is still its own: no other cluster has taken the slot (R88). -/
def State.ownsEntry (s : State) (c : Cluster) : Bool :=
  let wh := match s.launch? c.vf c.launch with | some l => (l.kd.cw, l.kd.ch) | none => (0, 0)
  s.laid.bytes (s.gbbase + 64 * c.gbQuad) 64 == c.entryBytes wh

/-- A cluster's record and entry replaced together. -/
def State.putCluster (s : State) (c : Cluster) : State := (s.setCluster c).writeEntry c

/-- ESCAPED set for a team's cluster (R200, R245, R255, R339, R341). -/
def State.escape (s : State) (r : TeamRef) : State :=
  match s.clusterOf r with
  | some c => if c.escaped then s else s.putCluster { c with escaped := true }
  | none => s

/-! ### Messages, completions and events (R71, R376, R377, R384) -/

/-- The driver wants a message for the used entry just written: under VIRTIO_F_EVENT_IDX when it is the one used_event names, otherwise unless it has set
VIRTQ_AVAIL_F_NO_INTERRUPT (R72; virtio 1.2, PRESUMED, log 18). -/
def VQueue.wants (q : VQueue) (features : BitVec 128) : Bool :=
  if features.getLsbD 29 then decide ((q.usedEvent + 1) % 65536 = q.usedIdx % 65536) else !q.noInterrupt

/-- An MSI-X message of a VF's queue (R71), held while the VF is not RUNNING and dropped on a stale generation (R377). -/
def State.message (s : State) (v queue : Nat) (gen : BitVec 16) : State :=
  let f := s.vf v
  let q := f.queues.get queue VQueue.reset
  if q.vector = 0xFFFF then s
  else if f.runstate ≠ .running then
    -- one bit of the Pending Bit Array per vector
    if f.msixPend.contains (q.vector, gen) then s else s.setVf v { f with msixPend := f.msixPend ++ [(q.vector, gen)] }
  else if f.gen = gen then { s with out := { s.out with msix := s.out.msix ++ [(.vf v, q.vector)] } }
  else s.setVf v { f with evDrop := satInc f.evDrop }

/-- The message that follows a used entry, unless the driver suppresses it (R72, R377, R384). -/
def State.sendMsix (s : State) (v queue : Nat) (gen : BitVec 16) : State :=
  let f := s.vf v
  if (f.queues.get queue VQueue.reset).wants f.tr.features then s.message v queue gen else s

/-- A message pending on a vector sent once the VF runs, or dropped on a stale generation (R377). -/
def State.sendPending (s : State) (v : Nat) (p : Nat × BitVec 16) : State :=
  let f := s.vf v
  if f.gen = p.2 then { s with out := { s.out with msix := s.out.msix ++ [(.vf v, p.1)] } } else s.setVf v { f with evDrop := satInc f.evDrop }

/-- The 32 bytes of an event (R376, R397). -/
def VEvent.bytes (e : VEvent) : List Byte :=
  bytesOfNat 1 e.kind ++ bytesOfNat 1 e.cause ++ bytesOfNat 2 e.gen.toNat ++ bytesOfNat 4 e.cluster ++ bytesOfNat 8 e.launchId ++ bytesOfNat 1 e.retries ++
    bytesOfNat 15 0

/-- The used index of a queue moved on by one entry (virtio 1.2). -/
def VQueue.counted (q : VQueue) : VQueue := { q with usedIdx := (q.usedIdx + 1) % 65536 }

/-- A used-ring entry (R384 step 3). -/
def State.pushUsed (s : State) (u : Used) : State :=
  let s := { s with out := { s.out with used := s.out.used ++ [u] } }
  match u.fn with
  | .vf v => s.updVf v (fun f => { f with queues := f.queues.set u.queue (f.queues.get u.queue VQueue.reset).counted })
  | .pf i => s.setPf i { s.pf i with adminQ := (s.pf i).adminQ.counted }

/-- An event written into the next buffer of the VF's ring (R376), and its message. -/
def State.writeEvent (s : State) (v : Nat) (e : VEvent) : State :=
  let f := s.vf v
  let s := (s.setVf v { f with evBufs := f.evBufs.drop 1 }).pushUsed
    { fn := .vf v, queue := f.nwq, head := f.evBufs.headD 0, len := 32, record := none, written := e.bytes }
  let s := { s with out := { s.out with events := s.out.events ++ [(v, e)] } }
  s.sendMsix v f.nwq e.gen

/-- An event raised: written when the ring has a buffer and nothing waits before it, otherwise held, at most 64 (R377). -/
def State.raiseEvent (s : State) (v : Nat) (e : VEvent) : State :=
  let f := s.vf v
  if f.held.isEmpty && !f.evBufs.isEmpty then s.writeEvent v e
  else if f.held.length < 64 then s.setVf v { f with held := f.held ++ [e] }
  else s.setVf v { f with evLost := satInc f.evLost }

/-- Every accepted launch's condition to start is looked at again: earlier requests of its queue done, its timeline
reached (R77, R78). The moment it became dispatchable is recorded (R86). -/
def State.refreshReady (s : State) : State :=
  { s with launches := s.launches.map (fun l =>
      if l.ready.isNone && l.after.isEmpty &&
          (l.pkt.waittl == 0xFF || decide (l.pkt.waitval ≤ ((s.vf l.vf).timelines.getD l.pkt.waittl 0).toNat))
      then { l with ready := some s.cycle } else l) }

/-- A timeline raised to a value (R78). -/
def State.raiseTimeline (s : State) (v i value : Nat) : State :=
  (s.updVf v (fun f => { f with timelines := updAt f.timelines i (fun t => BitVec.ofNat 64 (max t.toNat value)) })).refreshReady

/-- Status codes (R386). -/
def statusDone : Nat := 0
def statusRefused : Nat := 1
def statusCancelled : Nat := 2
def statusTrapped : Nat := 3
def statusUncorrectable : Nat := 4
def statusEscaped : Nat := 5

/-- The 32 bytes of a completion record (R385). -/
def CompRec.bytes (c : CompRec) : List Byte :=
  bytesOfNat 1 c.status ++ bytesOfNat 1 c.reason ++ bytesOfNat 1 c.slot ++ bytesOfNat 1 c.rcode ++ bytesOfNat 2 c.gen.toNat ++
    bytesOfNat 2 0 ++ bytesOfNat 8 c.launchId ++ bytesOfNat 8 c.tag.toNat ++ bytesOfNat 4 c.rollbacks ++ bytesOfNat 4 0

/-- A launch's grid completes (R384): record, used-ring entry, SIGTL, message; the launch and its copy are gone. -/
def State.completeLaunch (s : State) (l : Launch) (status reason : Nat) : State :=
  let rc : CompRec := { status := status, reason := reason, slot := 0xFF, rcode := 0, gen := l.gen, launchId := l.id,
                        tag := l.pkt.tag, rollbacks := min l.rollbacks (2 ^ 32 - 1) }
  let s := s.pushUsed { fn := .vf l.vf, queue := l.queue, head := l.head, len := 32, record := some rc, written := rc.bytes }
  let s := { s with launches := (s.launches.filter (fun (x : Launch) => !(x.vf == l.vf && x.id == l.id))).map (fun (x : Launch) =>
              if x.vf == l.vf then { x with after := x.after.filter (fun a => a != (l.queue, l.head)) } else x) }
  let s := if l.pkt.sigtl ≠ 0xFF ∧ (status = statusDone ∨ l.pkt.flags / 4 % 2 = 1) then s.raiseTimeline l.vf l.pkt.sigtl l.pkt.sigval
           else s.refreshReady
  s.sendMsix l.vf l.queue l.gen

/-! ### The end of a fused cluster and of a launch (R99, R384) -/

/-- A fused cluster's caches are written back and separated (R99). -/
def State.unfuse (s : State) (c : Cluster) : State :=
  match s.launch? c.vf c.launch with
  | some l =>
    if l.kd.flags.testBit 0 then { s with coh := s.coh.dropL1 c.chiplet (fun e => c.teams.any (fun t => t.core == e.core)) } else s
  | none => s

/-- A command of a killed team runs on for a launch (R365). -/
def State.runsOn (s : State) (vf id : Nat) : Bool := s.cmds.any (fun (k : Cmd) => k.team.vf == vf && k.grid == some id)

/-- A launch whose last cluster has retired completes; one that no longer fits is refused with FIT, and an ended one completes with its status (R100, R367, R384). Every
write that was not discarded comes before the record: hut and summit commands of killed teams are waited for (R81, R365). -/
def State.finishLaunch (s : State) (vf id : Nat) : State :=
  match s.launch? vf id with
  | none => s
  | some l =>
    if s.clusters.any (fun c => c.vf == vf && c.launch == id) || s.runsOn vf id then s
    else match l.ended with
      | some (st, re) => s.completeLaunch l st re
      | none => if l.retired = l.pkt.gx * l.pkt.gy * l.pkt.gz / (l.kd.cw * l.kd.ch) then s.completeLaunch l statusDone 0 else s

/-! ### Rollback and the end of a grid (R363 to R367) -/

/-- A reference that names no team: launch numbers start at 1 (R88). -/
def deadRef (r : TeamRef) : TeamRef := { r with launch := 0 }

def refIn (r : TeamRef) (c : Cluster) : Bool := c.is r.vf r.launch r.cluster

/-- Spilt parts without those of the teams a test names (R372). -/
def Outgoing.drop (o : Outgoing) (gone : TeamRef → Bool) : Outgoing :=
  { o with rows := o.rows.filter (fun x => !gone x.1), banks := o.banks.filter (fun x => !gone x.1) }

/-- A quadrant without any trace of the teams a test names. -/
def Quad.drop (q : Quad) (gone : TeamRef → Bool) : Quad :=
  { q with holder := q.holder.filter (fun h => !gone h.1)
           bufOwner := q.bufOwner.filter (fun h => !gone h.1)
           queue := q.queue.filter (fun h => !gone h.1)
           lodge := q.lodge.filter (fun e => !gone e.team)
           out := q.out.map (fun (e : Nat × Outgoing) => (e.1, e.2.drop gone)) }

/-- Hut and summit commands, which run on once sent (R365). -/
def Cmd.nearMemory (c : Cmd) : Bool := c.op == 6 || c.op == 7

/-- Traps that wait behind the record of a context, in one team (R362). -/
def Team.trapped (t : Team) : Nat :=
  (t.groups.filter (fun g => g.trap.isSome)).length + (t.seqs.filter (fun q => q.trap.isSome)).length

/-- Every team of a cluster killed (R365): its registers, queues, engines and tiles discarded; what has left a store
queue or been performed stays. Waiting traps are withdrawn, and a held record no longer names a killed team (R362, log 31). -/
def State.killTeams (s : State) (c : Cluster) : State :=
  let gone := fun r : TeamRef => refIn r c
  let x := s.ctx c.vf
  let waiting := sumOf (c.teams.map Team.trapped) -
    (if x.trap.valid && (match x.trap.team with | some r => gone r | none => false) then 1 else 0)
  let site := match x.trap.team with | some r => if gone r then none else some r | none => none
  let s := if x.trap.hold then s.setCtx c.vf { x with trap := { x.trap with team := site, pending := BitVec.ofNat 32 (x.trap.pending.toNat - waiting) } } else s
  { s with quads := s.quads.map (fun (e : Nat × Quad) => (e.1, e.2.drop gone))
           tiles := s.tiles.filter (fun t => !gone t.src)
           cmds := (s.cmds.filter (fun k => !(gone k.team) || (k.nearMemory && k.sent))).map (fun k =>
              if gone k.team then { k with team := deadRef k.team, hreg := none, bar := none, grid := some c.launch } else k)
           clusters := s.clusters.map (fun d => if d.is c.vf c.launch c.idx then { d with teams := [] } else d) }

/-- The outgoing state of quadrants that no halted group needs any more is discarded (R372). -/
def State.settleQuads (s : State) : State :=
  { s with quads := s.quads.map (fun (e : Nat × Quad) =>
      let held (v : Nat) : Bool := s.clusters.any (fun c => c.teams.any (fun t => t.quads.contains e.1 && t.ref.vf == v))
      (e.1, { e.2 with out := e.2.out.filter (fun (o : Nat × Outgoing) => held o.1) })) }

/-- A grid's clusters are killed, their entries become KILLED, and tiles sent to them are discarded (R367 step 2, R214). -/
def State.killGrid (s : State) (vf id : Nat) : State :=
  let mine := s.clusters.filter (fun c => c.vf == vf && c.launch == id)
  let s := mine.foldl (fun s c => if c.st = .rollback && !s.ownsEntry c then s else (s.killTeams c).writeEntry { c with st := .killed }) s
  { s with clusters := s.clusters.filter (fun c => !(c.vf == vf && c.launch == id))
           tiles := s.tiles.filter (fun t => !(t.dst.vf == vf && t.dst.launch == id)) }.settleQuads

/-- A grid ends (R367): placed clusters are killed and their entries become KILLED, then the launch completes, once no command of theirs runs on. -/
def State.endGrid (s : State) (vf id status reason : Nat) : State :=
  match s.launch? vf id with
  | none => s
  | some l =>
    if l.ended.isSome && !s.clusters.any (fun c => c.vf == vf && c.launch == id) then s
    else ((s.killGrid vf id).setLaunch { l with ended := some (status, reason), requeue := [] }).finishLaunch vf id

/-- A cluster whose launch has ended is killed, and the launch may complete (R100; log 38). -/
def State.killCluster (s : State) (c : Cluster) : State :=
  (((if c.st = .rollback && !s.ownsEntry c then s else (s.killTeams c).writeEntry { c with st := .killed, teams := [] }).delCluster c).settleQuads).finishLaunch c.vf c.launch

/-- A cluster rolled back: its teams killed, RETRIES raised, its relaunch queued ahead of unplaced clusters, a ROLLBACK
event raised (R364 to R366, R376). A launch that has been refused with FIT relaunches no cluster (R100; log 38). -/
def State.rollback (s : State) (c : Cluster) : State :=
  if (match s.launch? c.vf c.launch with | some l => l.ended.isSome | none => false) then s.killCluster c else
  let s := s.killTeams c
  let c' : Cluster := { c with teams := [], st := .rollback, retries := c.retries + 1 }
  let s := (s.putCluster c').settleQuads
  let s := match s.launch? c.vf c.launch with
    | some l => s.setLaunch { l with requeue := l.requeue ++ [(c.idx, c.retries + 1)], rollbacks := l.rollbacks + 1 }
    | none => s
  s.raiseEvent c.vf { kind := 2, cause := 0, gen := (s.vf c.vf).gen, cluster := c.idx, launchId := c.launch, retries := c.retries + 1 }

/-- A cluster consumes an uncorrectable error (R363, R364). -/
def State.consume (s : State) (r : TeamRef) : State :=
  match s.clusterOf r with
  | none => s
  | some c =>
    if c.st = .rollback then s
    else if c.escaped then s.endGrid c.vf c.launch statusEscaped 0
    else if 2 ≤ c.retries then s.endGrid c.vf c.launch statusUncorrectable 0
    else s.rollback c

/-- RELAUNCH (R362): as a consumed error, but where that would end the grid it ends TRAPPED. -/
def State.relaunch (s : State) (r : TeamRef) (cause : Nat) : State :=
  match s.clusterOf r with
  | none => s
  | some c =>
    if c.st = .rollback then s
    else if c.escaped || decide (2 ≤ c.retries) then s.endGrid c.vf c.launch statusTrapped cause
    else s.rollback c

/-! ### Groups in the scheduler -/

/-- A diagnostic counter of a context on a quadrant changed (R353). -/
def State.diag (s : State) (q v n : Nat) (h : DWord → DWord) : State :=
  s.updQuad q (fun x => { x with diag := x.diag.set v (updAt (x.diag.get v (List.replicate 8 0)) n h) })

/-- Live threads outside HELD. -/
def Team.hereOf (t : Team) (g : Group) : List Thread := (t.members g).filter (fun x => x.st.here)

/-- A group that may issue unless its context is halted: it has a live thread and is neither parked, trapped nor stopped at `brk` (R127, R352, R360). -/
def Team.ready (t : Team) (g : Group) : Bool :=
  g.parked.isNone && g.trap.isNone && g.brk.isNone && !(t.hereOf g).isEmpty

/-- A group's run ends (R126, R127): it leaves the slot and, while ready, joins the queue at the
tail; under pre-emption it halts there, since its context wins the slot no more (R371). -/
def State.endRun (s : State) (r : TeamRef) (quad place : Nat) : State :=
  let q := s.quad quad
  match s.team? r with
  | none => s
  | some t =>
    match t.group? (t.slotOf quad) place with
    | none => s.setQuad quad { q with holder := none }
    | some g =>
      let g' := { g with runLen := 0, midRun := false, lbCycles := 0 }
      let s := s.setTeam (t.setGroup g')
      s.setQuad quad { q with holder := none
                              queue := if t.ready g' then q.queue ++ [(r, place)] else q.queue }

/-- A group parks on a condition, in the middle of its run (R126). -/
def State.park (s : State) (r : TeamRef) (quad place : Nat) (p : Park) : State :=
  let s := s.diag quad r.vf 3 (· + 1)
  let q := s.quad quad
  (s.updTeam r (fun t => match t.group? (t.slotOf quad) place with
    | some g => t.setGroup { g with parked := some p, midRun := true }
    | none => t)).setQuad quad { q with holder := none }

/-! ### Retirement (R383, R384, R152, R210) -/

/-- A sequencer has exited, its drains have captured their tiles and its drain-adds have been applied (R210). -/
def Seq.finished (q : Seq) : Bool :=
  q.exited && q.trap.isNone && q.drains.all (fun d => match d.dest with | .port _ => d.tile.isSome | .peer .. => false)

/-- The team may retire: every thread has exited, the pool and the regrouping units are empty, stores have left, commands
have completed (R152, R134, R307), and its streams have finished (R210). -/
def State.teamDone (s : State) (t : Team) : Bool :=
  !t.retired && t.threads.all (fun x => decide (x.st = .done)) && t.pool.isEmpty && t.spawned.isEmpty && t.waiting.isEmpty &&
    t.groups.isEmpty && t.reorder.all (fun (e : Nat × List ReorderItem) => e.2.isEmpty) && t.seqs.all Seq.finished &&
    s.cmds.all (fun k => k.team != t.ref) && s.tiles.all (fun x => x.src != t.ref)

/-- What a retired team leaves: its name, so that a later drain-add to it is recognised (R199). -/
def Team.empty (t : Team) : Team :=
  { t with quads := [], places := [], banks := [], threads := [], groups := [], stack := [], waiting := [], reorder := [],
           pool := [], spawned := [], spad := [], absent := [], objs := [], arrived := [], badLines := [], bsram := [], badBsram := [], acc := [],
           ports := [], seqs := [], pend := [], stageLog := [], retired := true }

/-- A team that is done retires, releasing everything in one step; with its last team the cluster retires (R383). Its guest-book entry is written again, over
that of another resident cluster that shares its slot too (R88; DEDUCED, log 60). -/
def State.tryRetire (s : State) (r : TeamRef) : State :=
  match s.team? r with
  | none => s
  | some t =>
    if !s.teamDone t then s
    else
      let s := { s with quads := s.quads.map (fun (e : Nat × Quad) => (e.1, e.2.drop (· == r))) }
      let s := (s.setTeam t.empty).settleQuads
      match s.clusterOf r with
      | none => s
      | some c =>
        if !c.teams.all (·.retired) then s
        else
          let s := ((s.unfuse c).delCluster c).writeEntry { c with st := .done, teams := [] }
          let s := match s.launch? c.vf c.launch with
            | some l => s.setLaunch { l with retired := l.retired + 1 }
            | none => s
          s.finishLaunch c.vf c.launch

/-- A group none of whose threads is live outside HELD dissolves once its stores have left its queue (R132, R152, R307). -/
def State.tryDissolve (s : State) (r : TeamRef) (quad place : Nat) : State :=
  match s.team? r with
  | none => s
  | some t =>
    match t.group? (t.slotOf quad) place with
    | none => s
    | some g =>
      if (t.hereOf g).isEmpty && g.storeQ.isEmpty then
        let q := s.quad quad
        let s := s.setTeam (t.dissolve g)
        -- a command still pending on one of its handles keeps the signal attached to it (R269)
        let s := { s with cmds := s.cmds.map (fun (k : Cmd) => match g.h.find? (fun (h : Handle) => h.cmd == some k.id) with
          | some h => { k with hreg := none, signal := h.signal }
          | none => k) }
        let me := fun h : TeamRef × Nat => h == (r, place)
        let s := s.setQuad quad { q with holder := q.holder.filter (fun h => !me h), queue := q.queue.filter (fun h => !me h) }
        s.tryRetire r
      else s

/-! ### Traps (R358 to R362) -/

/-- Cause codes (R358). -/
def causeBrtgt : Nat := 0x03
def causePriv : Nat := 0x30
def causeDradd : Nat := 0x31
def causeSoft : Nat := 0x38

/-- A cause that may be resumed (R358). -/
def causeResumable (c : Nat) : Bool := c == 0x04 || c == 0x29 || c == 0x2A || c == 0x38

/-- Who traps: a group at a place of a quadrant, or the sequencer of a quadrant. -/
structure TrapSite where
  team : TeamRef
  quad : Nat
  place : Nat
  seq : Bool
  deriving DecidableEq, Repr

/-- A trap written into the record of its context (R361, R362), raising TRAPHELD under HOLD. -/
def State.recordTrap (s : State) (w : TrapSite) (ti : TrapInfo) : State :=
  let x := s.ctx w.team.vf
  let rec' : TrapRec :=
    { x.trap with valid := true, resumable := ti.resumable, seq := w.seq, cause := ti.cause, reason := ti.reason, repIdx := ti.repIdx,
                  code := ti.code, quad := BitVec.ofNat 10 w.quad, gplace := BitVec.ofNat 4 (if w.seq then 0 else w.place),
                  pc := ti.pc, lanes := if w.seq then 0 else ti.lanes, addr := ti.addr, launchId := BitVec.ofNat 64 w.team.launch,
                  cluster := BitVec.ofNat 32 w.team.cluster, team := some w.team }
  let s := s.setCtx w.team.vf { x with trap := rec' }
  if x.trap.hold then
    let retries := match s.clusterOf w.team with | some c => c.retries | none => 0
    s.raiseEvent w.team.vf { kind := 1, cause := ti.cause.toNat, gen := (s.vf w.team.vf).gen, cluster := w.team.cluster,
                             launchId := w.team.launch, retries := retries }
  else s

/-- The trapping issuer enters TRAPPED: a group leaves the slot and its run ends, a sequencer stops (R126, R360). -/
def State.stopIssuer (s : State) (w : TrapSite) (ti : TrapInfo) : State :=
  if w.seq then
    s.updTeam w.team (fun t => { t with seqs := t.seqs.map (fun q => if q.slot == t.slotOf w.quad then { q with trap := some ti } else q) })
  else
    let s := s.updTeam w.team (fun t => match t.group? (t.slotOf w.quad) w.place with
      | some g => t.setGroup { g with trap := some ti, runLen := 0, midRun := false }
      | none => t)
    s.updQuad w.quad (fun q => { q with holder := q.holder.filter (fun h => h != (w.team, w.place))
                                        queue := q.queue.filter (fun h => h != (w.team, w.place)) })

/-- Taking a trap (R358 to R362). Causes 0x20 and 0x28 are consumed uncorrectable errors (R363). Otherwise the issuer enters
TRAPPED, and the trap is recorded or counted; under END its grid ends. -/
def State.takeTrap (s : State) (w : TrapSite) (ti : TrapInfo) : State :=
  if ti.cause = 0x20 ∨ ti.cause = 0x28 then s.consume w.team
  else
    let s := s.stopIssuer w ti
    let x := s.ctx w.team.vf
    let s := if x.trap.valid then s.setCtx w.team.vf { x with trap := { x.trap with pending := satInc x.trap.pending } }
             else s.recordTrap w ti
    if x.trap.hold then s else s.endGrid w.team.vf w.team.launch statusTrapped ti.cause.toNat

/-- Every earlier instruction of an issuer has completed: nothing is on its way to the group's registers, and the sequencer's array job and captures
are over (R360). -/
def State.quiet (s : State) (w : TrapSite) : Bool :=
  match s.team? w.team with
  | none => true
  | some t =>
    if w.seq then t.seqs.all (fun q => q.slot != t.slotOf w.quad || (q.job.isNone && q.drains.all (·.tile.isSome)))
    else match t.group? (t.slotOf w.quad) w.place with
      | some g => (t.opsOf g).isEmpty
      | none => true

/-- A trap at an instruction: taken once every earlier instruction of the issuer has completed, and until then the instruction waits in place
(R360; DEDUCED, log 52). A consumed uncorrectable error does not wait, since its cluster is killed (R363). -/
def State.trapAt (s : State) (w : TrapSite) (ti : TrapInfo) : State :=
  if s.quiet w || ti.cause == 0x20 || ti.cause == 0x28 then s.takeTrap w ti else s

/-- The traps that wait behind the record, as sites with what they record. -/
def State.waitingTraps (s : State) (v : Nat) : List (TrapSite × TrapInfo) :=
  (s.clusters.filter (fun c => c.vf == v)).flatMap (fun c => c.teams.flatMap (fun t =>
    t.groups.filterMap (fun g => g.trap.map (fun ti => (⟨t.ref, t.quads.getD g.slot 0, g.place, false⟩, ti))) ++
    t.seqs.filterMap (fun q => q.trap.map (fun ti => (⟨t.ref, t.quads.getD q.slot 0, 0, true⟩, ti)))))

/-- The first of two waiting traps: lowest module quadrant, then lowest group place (R362). -/
def trapFirst : List (TrapSite × TrapInfo) → Option (TrapSite × TrapInfo)
  | [] => none
  | x :: rest => match trapFirst rest with
    | none => some x
    | some y => if x.1.quad * 16 + x.1.place ≤ y.1.quad * 16 + y.1.place then some x else some y

/-- After an action has taken effect: VALID becomes 0 and the next waiting trap is recorded (R362). -/
def State.nextTrap (s : State) (v : Nat) : State :=
  let x := s.ctx v
  let s := s.setCtx v { x with trap := { x.trap with valid := false, resumable := false } }
  match trapFirst (s.waitingTraps v) with
  | none => s
  | some (w, ti) =>
    let s := s.updCtx v (fun x => { x with trap := { x.trap with pending := BitVec.ofNat 32 (x.trap.pending.toNat - 1) } })
    s.recordTrap w ti

/-- The site a trap record names. -/
def TrapRec.site (t : TrapRec) : Option TrapSite := t.team.map (fun r => ⟨r, t.quad.toNat, t.gplace.toNat, t.seq⟩)

/-- The loop buffers of a group's lanes empty: resumption starts so (R135). -/
def Team.emptyLoops (t : Team) (g : Group) : Team :=
  { t with threads := t.threads.map (fun x => if g.owns x then { x with lbuf := [] } else x) }

/-- Return from a trap (R362 RESUME): the trapped issuer becomes ready again at its saved program counter and REPIDX. -/
def State.resumeIssuer (s : State) (w : TrapSite) : State :=
  if w.seq then
    s.updTeam w.team (fun t => { t with seqs := t.seqs.map (fun q => if q.slot == t.slotOf w.quad then { q with trap := none } else q) })
  else
    match s.team? w.team with
    | none => s
    | some t =>
      match t.group? (t.slotOf w.quad) w.place with
      | none => s
      | some g =>
        let g' := { g with trap := none }
        let t' := (t.setGroup g').emptyLoops g'
        let s := s.setTeam t'
        if t'.ready g' then s.updQuad w.quad (fun q => { q with queue := q.queue ++ [(w.team, w.place)] }) else s

/-- A step of the module itself. -/
def module (s : State) (h : State → State) : Host.Outcome State Fault Refusal := .next (h { s with cur := .module })

end Sys2Proof.Machine
end

