-- ==== Sys2Proof/Machine/Flags.lean ====
section
/-! DEFINITION. The float conditions of R52, the float status register `fstat` (R159, R160) and the resolution of a
rounding code (R51, R160). -/
namespace Sys2Proof.Machine

/-- Conditions raised by an operation: bit 0 NV, 1 DZ, 2 OF, 3 UF, 4 NX (R159). -/
abbrev FFlags := BitVec 5

def flagNone : FFlags := 0
def flagNv : FFlags := 1
def flagDz : FFlags := 2
def flagOf : FFlags := 4
def flagUf : FFlags := 8
def flagNx : FFlags := 16

/-- A condition when a test holds. -/
def flagIf (c : Bool) (f : FFlags) : FFlags := if c then f else 0

/-- The four static rounding modes (R51). -/
inductive RMode where
  | rne | rtz | rup | rdn
  deriving DecidableEq, Repr

/-- The mode of a two-bit code (R51, R159). -/
def RMode.ofCode (n : Nat) : RMode :=
  match n with
  | 0 => .rne | 1 => .rtz | 2 => .rup | _ => .rdn

/-- Conditions ORed into a thread's `fstat` (R160). -/
def Thread.raise (t : Thread) (f : FFlags) : Thread := { t with fstat := t.fstat ||| f.zeroExtend 32 }

/-- RM of a thread (R159). -/
def Thread.rm (t : Thread) : RMode := RMode.ofCode ((t.fstat.toNat / 256) % 4)

/-- The mode of a rounding code in one lane: DYN reads RM at issue (R51, R160). -/
def Thread.mode (t : Thread) (code : Nat) : RMode := if code = 4 then t.rm else RMode.ofCode code

/-- The bits of `fstat` that can be written: [4:0] and [9:8] (R159, R347). -/
def fstatMask : Word := 0x31F

/-- A write of `fstat` by `swrite`: reserved bits unchanged (R347). -/
def Thread.writeFstat (t : Thread) (x : Word) : Thread := { t with fstat := (t.fstat &&& ~~~fstatMask) ||| (x &&& fstatMask) }

end Sys2Proof.Machine
end

