-- ==== Sys2Proof/Machine/Float.lean ====
section
/-! DEFINITION. Exact arithmetic of the float formats (R48 to R54, R164, R165), the elementary functions within their
bounds (R168, R169), and the cairn hash with stochastic rounding (R65, R67). -/
namespace Sys2Proof.Machine

/-- A binary format by its exponent and fraction widths (R48). -/
structure Fmt where
  ew : Nat
  fw : Nat
  deriving DecidableEq, Repr

def fp32 : Fmt := { ew := 8, fw := 23 }
def fp16 : Fmt := { ew := 5, fw := 10 }
def bf16 : Fmt := { ew := 8, fw := 7 }

def Fmt.width (F : Fmt) : Nat := F.ew + F.fw + 1
def Fmt.bias (F : Fmt) : Nat := 2 ^ (F.ew - 1) - 1
def Fmt.emax (F : Fmt) : Nat := 2 ^ F.ew - 1
/-- Exponent of the smallest normal, and of the smallest subnormal. -/
def Fmt.emin (F : Fmt) : Int := 1 - (F.bias : Int)
def Fmt.qmin (F : Fmt) : Int := F.emin - (F.fw : Int)
def Fmt.signBit (F : Fmt) : Nat := 2 ^ (F.ew + F.fw)
def Fmt.sign (F : Fmt) (neg : Bool) : Nat := if neg then F.signBit else 0
def Fmt.inf (F : Fmt) (neg : Bool) : Nat := F.sign neg + F.emax * 2 ^ F.fw
/-- The canonical quiet NaN (R50). -/
def Fmt.nan (F : Fmt) : Nat := F.emax * 2 ^ F.fw + 2 ^ (F.fw - 1)
def Fmt.largest (F : Fmt) (neg : Bool) : Nat := F.sign neg + F.emax * 2 ^ F.fw - 1

/-- The value of an encoding (R49): a finite value is `m * 2^e` with its sign. -/
inductive FVal where
  | nan (signalling : Bool)
  | inf (neg : Bool)
  | fin (neg : Bool) (m : Nat) (e : Int)
  deriving DecidableEq, Repr

/-- Reading an encoding (R49). -/
def Fmt.unpack (F : Fmt) (x : Nat) : FVal :=
  let frac := x % 2 ^ F.fw
  let e := x / 2 ^ F.fw % 2 ^ F.ew
  let neg := x / F.signBit % 2 == 1
  if e = F.emax then (if frac = 0 then .inf neg else .nan (frac / 2 ^ (F.fw - 1) == 0))
  else if e = 0 then .fin neg frac F.qmin
  else .fin neg (2 ^ F.fw + frac) (F.qmin + (e : Int) - 1)

def FVal.isNan : FVal → Bool | .nan _ => true | _ => false
def FVal.isSnan : FVal → Bool | .nan s => s | _ => false
def FVal.isInf : FVal → Bool | .inf _ => true | _ => false
def FVal.neg? : FVal → Bool | .nan _ => false | .inf n => n | .fin n _ _ => n
def FVal.isZero : FVal → Bool | .fin _ m _ => m == 0 | _ => false
def FVal.negate : FVal → FVal | .nan s => .nan s | .inf n => .inf (!n) | .fin n m e => .fin (!n) m e

/-- Whether a magnitude whose discarded part is `rem` of `2 * half`, or more by `sticky`, rounds up (R51). -/
def roundUp (mode : RMode) (neg odd : Bool) (rem half : Nat) (sticky : Bool) : Bool :=
  match mode with
  | .rne => decide (half < rem) || (decide (rem = half) && decide (0 < half) && (sticky || odd))
  | .rtz => false
  | .rup => !neg && (decide (0 < rem) || sticky)
  | .rdn => neg && (decide (0 < rem) || sticky)

/-- The magnitude of `m * 2^e` (more, by less than one unit of `m`, when `sticky`) as a multiple of `2^q`, rounded, and whether
it is inexact. -/
def roundAt (mode : RMode) (neg : Bool) (m : Nat) (e q : Int) (sticky : Bool) : Nat × Bool :=
  if q ≤ e then
    let k := m * 2 ^ (e - q).toNat
    (if roundUp mode neg (k % 2 == 1) 0 0 sticky then k + 1 else k, sticky)
  else
    let sh := (q - e).toNat
    let k := m / 2 ^ sh
    let rem := m % 2 ^ sh
    (if roundUp mode neg (k % 2 == 1) rem (2 ^ (sh - 1)) sticky then k + 1 else k, decide (0 < rem) || sticky)

/-- What an overflow delivers (R51). -/
def Fmt.overflow (F : Fmt) (mode : RMode) (neg : Bool) : Nat :=
  match mode with
  | .rne => F.inf neg
  | .rtz => F.largest neg
  | .rup => if neg then F.largest true else F.inf false
  | .rdn => if neg then F.inf true else F.largest false

/-- `round(x, fmt, mode)` of R8 and R51 on a nonzero magnitude, with the conditions of R52: tininess after rounding,
underflow only when inexact. -/
def Fmt.roundMag (F : Fmt) (mode : RMode) (neg : Bool) (m : Nat) (e : Int) (sticky : Bool) : Nat × FFlags :=
  let top := e + (Nat.log2 m : Int)
  if top > (F.emax : Int) then (F.overflow mode neg, flagOf ||| flagNx)
  else
    -- a value far below the smallest subnormal rounds as any other such value does
    let far := decide (top < F.qmin - 2)
    let m := if far then 1 else m
    let e := if far then F.qmin - 3 else e
    let sticky := sticky || far
    let top := e + (Nat.log2 m : Int)
    let q := max top F.emin - (F.fw : Int)
    let (k, inexact) := roundAt mode neg m e q sticky
    let bits := (q - F.qmin).toNat * 2 ^ F.fw + k
    if F.emax * 2 ^ F.fw ≤ bits then (F.overflow mode neg, flagOf ||| flagNx)
    else
      let tiny := decide (top < F.emin - 1) ||
        (decide (top = F.emin - 1) && decide ((roundAt mode neg m e (top - (F.fw : Int)) sticky).1 < 2 ^ (F.fw + 1)))
      (F.sign neg + bits, flagIf inexact flagNx ||| flagIf (tiny && inexact) flagUf)

/-- `round` of a value; a zero keeps its sign and a NaN becomes canonical, with NV when it signals (R50). -/
def Fmt.round (F : Fmt) (mode : RMode) (x : FVal) : Nat × FFlags :=
  match x with
  | .nan s => (F.nan, flagIf s flagNv)
  | .inf n => (F.inf n, 0)
  | .fin n m e => if m = 0 then (F.sign n, 0) else F.roundMag mode n m e false

/-! ### Sums and products -/

/-- The signed value of a finite term as a multiple of `2^q`, where `q` is at most its exponent. -/
def termAt (q : Int) : FVal → Int
  | .fin n m e => let k : Int := ((m * 2 ^ (e - q).toNat : Nat) : Int); if n then -k else k
  | _ => 0

/-- The least exponent of finite terms. -/
def leastExp : List FVal → Int → Int
  | [], q => q
  | .fin _ _ e :: rest, q => leastExp rest (min e q)
  | _ :: rest, q => leastExp rest q

/-- The exact value of a sum of finite terms. -/
def exactSum (terms : List FVal) : Int × Int :=
  let q := leastExp terms (match terms with | .fin _ _ e :: _ => e | _ => 0)
  (terms.foldl (fun a t => a + termAt q t) 0, q)

/-- A term with its sign bit set that is zero. -/
def isNegZero : FVal → Bool | .fin true 0 _ => true | _ => false
def isPosZero : FVal → Bool | .fin false 0 _ => true | _ => false

/-- `fsum` of R165. NV is raised by a signalling term and by infinities of both signs; a product of infinity and zero comes
with its own NV. -/
def Fmt.fsum (F : Fmt) (mode : RMode) (terms : List FVal) : Nat × FFlags :=
  let snan := terms.any FVal.isSnan
  let pinf := terms.any (fun t => t.isInf && !t.neg?)
  let ninf := terms.any (fun t => t.isInf && t.neg?)
  if terms.any FVal.isNan then (F.nan, flagIf (snan || (pinf && ninf)) flagNv)
  else if pinf && ninf then (F.nan, flagNv)
  else if pinf then (F.inf false, 0)
  else if ninf then (F.inf true, 0)
  else
    let (x, q) := exactSum terms
    if x = 0 then
      (F.sign (terms.all isNegZero || (decide (mode = .rdn) && terms.any (fun t => !isPosZero t))), 0)
    else F.roundMag mode (decide (x < 0)) x.natAbs q false

/-- An exact product and the invalid condition of infinity times zero or a signalling operand. -/
def mulVal (a b : FVal) : FVal × FFlags :=
  let nv := flagIf (a.isSnan || b.isSnan) flagNv
  match a, b with
  | .nan _, _ => (.nan false, nv)
  | _, .nan _ => (.nan false, nv)
  | .inf n, .inf n' => (.inf (n != n'), 0)
  | .inf n, .fin n' m _ => if m = 0 then (.nan false, flagNv) else (.inf (n != n'), 0)
  | .fin n m _, .inf n' => if m = 0 then (.nan false, flagNv) else (.inf (n != n'), 0)
  | .fin n m e, .fin n' m' e' => (.fin (n != n') (m * m') (e + e'), 0)

/-- a + b (R163). -/
def Fmt.add (F : Fmt) (mode : RMode) (a b : FVal) : Nat × FFlags := F.fsum mode [a, b]

/-- a × b, one rounding. -/
def Fmt.mul (F : Fmt) (mode : RMode) (a b : FVal) : Nat × FFlags :=
  let (p, f) := mulVal a b
  let (r, g) := F.round mode p
  (r, f ||| g)

/-- a × b + c, one rounding. Infinity times zero raises NV with a quiet-NaN addend as well, which IEEE 754 leaves open (R52; DESIGN CHOICE, log 58). -/
def Fmt.fma (F : Fmt) (mode : RMode) (a b c : FVal) : Nat × FFlags :=
  let (p, f) := mulVal a b
  let (r, g) := F.fsum mode [p, c]
  (r, f ||| g)

/-- a / b, correctly rounded; the quotient is taken to 100 bits with a sticky rest. -/
def Fmt.div (F : Fmt) (mode : RMode) (a b : FVal) : Nat × FFlags :=
  let nv := flagIf (a.isSnan || b.isSnan) flagNv
  match a, b with
  | .nan _, _ => (F.nan, nv)
  | _, .nan _ => (F.nan, nv)
  | .inf _, .inf _ => (F.nan, flagNv)
  | .inf n, .fin n' _ _ => (F.inf (n != n'), 0)
  | .fin n _ _, .inf n' => (F.sign (n != n'), 0)
  | .fin n m e, .fin n' m' e' =>
    if m' = 0 then (if m = 0 then (F.nan, flagNv) else (F.inf (n != n'), flagDz))
    else if m = 0 then (F.sign (n != n'), 0)
    else
      let num := m * 2 ^ 100
      F.roundMag mode (n != n') (num / m') (e - e' - 100) (num % m' != 0)

/-- Integer square root, bit by bit from `2^k` down. -/
def isqrtFrom (x : Nat) : Nat → Nat → Nat
  | 0, r => r
  | k + 1, r => let r' := r + 2 ^ k; if r' * r' ≤ x then isqrtFrom x k r' else isqrtFrom x k r

/-- Floor of the square root of a number below `2^256`. -/
def isqrt (x : Nat) : Nat := isqrtFrom x 128 0

/-- √a, correctly rounded (R168). -/
def Fmt.sqrt (F : Fmt) (mode : RMode) (a : FVal) : Nat × FFlags :=
  match a with
  | .nan s => (F.nan, flagIf s flagNv)
  | .inf n => if n then (F.nan, flagNv) else (F.inf false, 0)
  | .fin n m e =>
    if m = 0 then (F.sign n, 0)
    else if n then (F.nan, flagNv)
    else
      let e' := if e % 2 = 0 then e else e - 1
      let x := (if e % 2 = 0 then m else 2 * m) * 2 ^ 128
      let r := isqrt x
      F.roundMag mode false r (e' / 2 - 64) (r * r != x)

/-! ### Comparison (R164, R167) -/

/-- a < b for values that are not NaN, −0 equal to +0. -/
def FVal.lt (a b : FVal) : Bool :=
  match a, b with
  | .inf n, .inf n' => n && !n'
  | .inf n, _ => n
  | _, .inf n => !n
  | a, b => let q := leastExp [a, b] 0; decide (termAt q a < termAt q b)

def FVal.unordered (a b : FVal) : Bool := a.isNan || b.isNan
def FVal.eqv (a b : FVal) : Bool := !a.unordered b && !a.lt b && !b.lt a

/-- Float minimum and maximum (R164): minimumNumber and maximumNumber of IEEE 754-2019 on encodings. -/
def Fmt.minmax (F : Fmt) (wantMax : Bool) (x y : Nat) : Nat × FFlags :=
  let a := F.unpack x
  let b := F.unpack y
  let nv := flagIf (a.isSnan || b.isSnan) flagNv
  if a.isNan && b.isNan then (F.nan, nv)
  else if a.isNan then (y, nv)
  else if b.isNan then (x, nv)
  else
    let less := a.lt b || (a.isZero && b.isZero && a.neg? && !b.neg?)
    (if wantMax then (if less then y else x) else (if less then x else if b.lt a || (a.isZero && b.isZero && b.neg?) then y else x), nv)

/-! ### Conversions (R54) -/

/-- An integer as a value. -/
def ofInt (x : Int) : FVal := .fin (decide (x < 0)) x.natAbs 0

/-- Float to integer under a mode, saturating to a range (R54). -/
def toIntSat (mode : RMode) (lo hi : Int) (x : FVal) : Int × FFlags :=
  match x with
  | .nan _ => (0, flagNv)
  | .inf n => (if n then lo else hi, flagNv)
  | .fin n m e =>
    if m ≠ 0 ∧ e + (Nat.log2 m : Int) > 80 then (if n then lo else hi, flagNv)
    else
      let far := decide (m ≠ 0) && decide (e + (Nat.log2 m : Int) < -4)
      let (k, inexact) := roundAt mode n (if far then 1 else m) (if far then -4 else e) 0 far
      let v : Int := if n then -(k : Int) else k
      if v < lo then (lo, flagNv) else if hi < v then (hi, flagNv) else (v, flagIf inexact flagNx)

/-- A value rounded to an integral value in its format (R170 `vrint`). -/
def Fmt.rint (F : Fmt) (mode : RMode) (x : Nat) : Nat × FFlags :=
  match F.unpack x with
  | .nan s => (F.nan, flagIf s flagNv)
  | .inf _ => (x, 0)
  | .fin n m e =>
    if m = 0 ∨ 0 ≤ e then (x, 0)
    else
      let far := decide (e + (Nat.log2 m : Int) < -4)
      let (k, inexact) := roundAt mode n (if far then 1 else m) (if far then -4 else e) 0 far
      if k = 0 then (F.sign n, flagIf inexact flagNx) else ((F.roundMag .rne n k 0 false).1, flagIf inexact flagNx)

/-- round(a − floor(a)); 1.0 is replaced by the largest value below it; ±0 → +0; ±∞ → NaN with NV (R170). An integral a other than ±0 cancels exactly:
+0, or −0 under RDN (R53). -/
def Fmt.frac (F : Fmt) (mode : RMode) (x : FVal) : Nat × FFlags :=
  match x with
  | .nan s => (F.nan, flagIf s flagNv)
  | .inf _ => (F.nan, flagNv)
  | .fin n m e =>
    let whole : Nat × FFlags := if m ≠ 0 && decide (mode = .rdn) then (F.sign true, 0) else (0, 0)
    if m = 0 ∨ 0 ≤ e then whole
    else
      let d := (-e).toNat
      let part := if n then (2 ^ d - m % 2 ^ d) % 2 ^ d else m % 2 ^ d
      if part = 0 then whole
      else
        let (r, f) := F.roundMag mode false part e false
        let one := F.bias * 2 ^ F.fw
        (if r = one then one - 1 else r, f)

/-- floor(log2 |a|), or none for ±0, NaN and ±∞ (R170 `vgetexp`). -/
def FVal.exponent (x : FVal) : Option Int :=
  match x with
  | .fin _ m e => if m = 0 then none else some (e + (Nat.log2 m : Int))
  | _ => none

/-- The class bit of an encoding (R171). -/
def Fmt.classBit (F : Fmt) (x : Nat) : Nat :=
  match F.unpack x with
  | .nan s => if s then 0 else 1
  | .inf n => if n then 2 else 9
  | .fin n m e =>
    if m = 0 then (if n then 5 else 6)
    else if m < 2 ^ F.fw ∧ e = F.qmin then (if n then 4 else 7)
    else if n then 3 else 8

/-! ### Elementary functions (R168, R169)

The manual gives each result as a fixed function within a bound. The model takes the free value of log 3 where it lies
within the bound of the function's value, computed below to far more than FP32 precision, and the nearest FP32 value
otherwise. -/

/-- π × 2^320, rounded down. -/
def piFix : Nat := 0x3243f6a8885a308d313198a2e03707344a4093822299f31d0082efa98ec4e6c89452821e638d01377
/-- ln 2 × 2^128, rounded down. -/
def ln2Fix : Nat := 0xb17217f7d1cf79abc9e3b39803f2f6af

/-- Σ terms of a series in fixed point with 128 fraction bits: each term is the last times `x` over `d`, `d` stepping. -/
def series (x : Int) (next : Nat → Nat) : Nat → Nat → Int → Int → Int
  | 0, _, _, acc => acc
  | fuel + 1, k, t, acc => let t' := t * x / (2 ^ 128 * (next k : Int)); series x next fuel (k + 1) t' (acc + t')

/-- e^x for 0 ≤ x < 1, with 128 fraction bits. -/
def expFix (x : Int) : Int := series x (fun k => k + 1) 40 0 (2 ^ 128) (2 ^ 128)

/-- sine and cosine of 0 ≤ x < 7, with 128 fraction bits. -/
def sinFix (x : Int) : Int := series (-(x * x / 2 ^ 128)) (fun k => (2 * k + 2) * (2 * k + 3)) 40 0 x x
def cosFix (x : Int) : Int := series (-(x * x / 2 ^ 128)) (fun k => (2 * k + 1) * (2 * k + 2)) 40 0 (2 ^ 128) (2 ^ 128)

/-- A nonnegative dyadic with 128 fraction bits, rounded down. -/
def fix128 (m : Nat) (e : Int) : Nat := if 0 ≤ e + 128 then m * 2 ^ (e + 128).toNat else m / 2 ^ (-(e + 128)).toNat

/-- |a| modulo 2π with 128 fraction bits. -/
def modTwoPi (m : Nat) (e : Int) : Nat := (if 0 ≤ e + 320 then m * 2 ^ (e + 320).toNat else m / 2 ^ (-(e + 320)).toNat) % (2 * piFix) / 2 ^ 192

/-- log2 of a number in [1, 2) with 128 fraction bits, by repeated squaring, to `n` bits. -/
def log2Bits : Nat → Nat → Nat → Nat
  | 0, _, acc => acc
  | n + 1, x, acc =>
    let y := x * x / 2 ^ 128
    if 2 ^ 129 ≤ y then log2Bits n (y / 2) (2 * acc + 1) else log2Bits n y (2 * acc)

/-- The opcodes of R168. -/
inductive Elem where
  | rcp | rsqrt | exp2 | log2 | sin | cos | tanh
  deriving DecidableEq, Repr

def Elem.code : Elem → Nat
  | .rcp => 0 | .rsqrt => 1 | .exp2 => 3 | .log2 => 4 | .sin => 5 | .cos => 6 | .tanh => 7

/-- The function at a finite operand that has no exact result, as a signed dyadic (sign, m, e) accurate far beyond FP32. -/
def Elem.value (f : Elem) (n : Bool) (m : Nat) (e : Int) : Bool × Nat × Int :=
  let signed (x : Int) : Bool × Nat × Int := (decide (x < 0), x.natAbs, -128)
  match f with
  | .rcp => (n, 2 ^ 200 / m, -200 - e)
  | .rsqrt =>
    -- 1/√(m·2^e) = √(2^400/m') · 2^(-200 - e'/2), m' = m or 2m, e' even
    let e' := if e % 2 = 0 then e else e - 1
    let m' := if e % 2 = 0 then m else 2 * m
    (false, isqrt (2 ^ 240 / m'), -120 - e' / 2)
  | .exp2 =>
    -- 2^a = 2^k · e^(g ln 2), 0 ≤ g < 1; |a| ≥ 2^20 is far outside the range either way
    if e + (Nat.log2 m : Int) ≥ 20 then (false, 1, if n then -1048576 else 1048576)
    else
      let x : Int := if n then -(fix128 m e : Int) else fix128 m e
      let k := x / 2 ^ 128
      (false, (expFix ((x - k * 2 ^ 128) * (ln2Fix : Int) / 2 ^ 128)).natAbs, k - 128)
  | .log2 =>
    let L := Nat.log2 m
    let x := m * 2 ^ (128 - L)
    signed ((e + (L : Int)) * 2 ^ 128 + ((log2Bits 80 x 0 : Nat) : Int) * 2 ^ 48)
  | .sin => let v := sinFix (modTwoPi m e); signed (if n then -v else v)
  | .cos => signed (cosFix (modTwoPi m e))
  | .tanh =>
    -- (E − 1)/(E + 1) with E = e^(2|a|) = 2^k e^g; 1 to within 2^-40 for |a| ≥ 16
    if e + (Nat.log2 m : Int) ≥ 4 then (n, 2 ^ 60 - 1, -60)
    else
      let x := 2 * fix128 m e
      let k := x / ln2Fix
      let E := (expFix ((x % ln2Fix : Nat) : Int)).natAbs * 2 ^ k
      (n, (E - 2 ^ 128) * 2 ^ 160 / (E + 2 ^ 128), -160)

/-- Distance of two signed dyadics at most `b * 2^q` (R168 bounds). -/
def within (x y : Bool × Nat × Int) (b : Nat) (q : Int) : Bool :=
  let vx : FVal := .fin x.1 x.2.1 x.2.2
  let vy : FVal := .fin y.1 y.2.1 y.2.2
  let least := min q (min x.2.2 y.2.2)
  decide ((termAt least vx - termAt least vy).natAbs ≤ b * 2 ^ (q - least).toNat)

/-- The bound of R168 between an FP32 candidate and the function's value: ulps of the value's binade, or an absolute error. -/
def Elem.inBound (f : Elem) (n : Bool) (m : Nat) (e : Int) (y c : Bool × Nat × Int) : Bool :=
  let ulp := max (y.2.2 + (Nat.log2 y.2.1 : Int)) fp32.emin - 23
  match f with
  | .rcp | .rsqrt => within y c 1 ulp
  | .exp2 => within y c 2 ulp
  | .log2 =>
    let one : FVal := .fin false 1 0
    let a : FVal := .fin n m e
    within y c 2 ulp || (!a.lt (.fin false 1 (-1)) && !(FVal.fin false 1 1).lt a && !(a.eqv one) && within y c 1 (-22))
  | .sin | .cos | .tanh => within y c 1 (-21)

/-- The result where R169 makes it exact or special; none where it is only bounded. -/
def Elem.special (f : Elem) (x : FVal) : Option (Nat × FFlags) :=
  match x with
  | .nan s => some (fp32.nan, flagIf s flagNv)
  | .inf n =>
    match f with
    | .rcp => some (fp32.sign n, 0)
    | .rsqrt | .log2 => if n then some (fp32.nan, flagNv) else some (if f = .rsqrt then 0 else fp32.inf false, 0)
    | .exp2 => some (if n then 0 else fp32.inf false, 0)
    | .sin | .cos => some (fp32.nan, flagNv)
    | .tanh => some (fp32.sign n + 0x3F800000, 0)
  | .fin n m e =>
    if m = 0 then
      match f with
      | .rcp | .rsqrt => some (fp32.inf n, flagDz)
      | .log2 => some (fp32.inf true, flagDz)
      | .exp2 | .cos => some (0x3F800000, 0)
      | .sin | .tanh => some (fp32.sign n, 0)
    else
      let p2 := m == 2 ^ Nat.log2 m
      let L := e + (Nat.log2 m : Int)
      match f with
      | .rcp =>
        if p2 then
          let r := fp32.roundMag .rne n 1 (-L) false
          if r.2 = 0 then some r else none
        else none
      | .rsqrt => if n then some (fp32.nan, flagNv) else if p2 && L % 2 == 0 then some (fp32.roundMag .rne false 1 (-(L / 2)) false) else none
      | .log2 => if n then some (fp32.nan, flagNv) else if p2 then some (fp32.round .rne (ofInt L)) else none
      | .exp2 =>
        if decide (L < 12) && (decide (0 ≤ e) || m % 2 ^ (-e).toNat == 0) then
          let k : Int := ((if 0 ≤ e then m * 2 ^ e.toNat else m / 2 ^ (-e).toNat : Nat) : Int)
          let r := fp32.roundMag .rne false 1 (if n then -k else k) false
          if r.2 = 0 then some r else none
        else none
      | _ => none

/-- An elementary function of an FP32 encoding: special and exact results of R169, otherwise a result within the bound, with
NX, and OF and UF as rounding gives them. -/
def Elem.eval (f : Elem) (x : Nat) : Nat × FFlags :=
  match f.special (fp32.unpack x) with
  | some r => r
  | none =>
    match fp32.unpack x with
    | .fin n m e =>
      let y := f.value n m e
      let r : Nat × FFlags := if y.2.1 = 0 then (fp32.sign y.1, flagNx ||| flagUf) else fp32.roundMag .rne y.1 y.2.1 y.2.2 true
      let w := (BitVec.ofInt 32 (Config.elementary f.code (BitVec.ofNat 32 x))).toNat
      match fp32.unpack w with
      | .fin n' m' e' =>
        if decide (flagOf &&& r.2 = 0) && f.inBound n m e y (n', m', e') then
          (w, flagNx ||| flagIf (w % 2 ^ 31 < 2 ^ 23) flagUf)
        else (r.1, r.2 ||| flagNx)
      | _ => (r.1, r.2 ||| flagNx)
    | _ => (fp32.nan, 0)

/-! ### Cairn hash and stochastic rounding -/

def rotl64 (x n : Nat) : Nat := (x * 2 ^ (n % 64) % 2 ^ 64) + x / 2 ^ (64 - n % 64) % 2 ^ (n % 64)

/-- The rounds of the cairn hash (R65). -/
def cairnRounds : Nat → Nat → Nat → Nat
  | 0, x, _ => x
  | i + 1, x, k =>
    let x := (x + k) % 2 ^ 64
    let x := x ^^^ (x / 2 ^ 29)
    let x := x * 0x9C4F2B7D61A3E58B % 2 ^ 64
    let x := x ^^^ (x / 2 ^ 32)
    cairnRounds i x (rotl64 k 11)

/-- The cairn hash (R65). -/
def cairn (key tag row col : Nat) : Nat :=
  cairnRounds 6 ((tag % 2 ^ 16) * 2 ^ 48 + (row % 2 ^ 24) * 2 ^ 24 + col % 2 ^ 24) key / 2 ^ 32

/-- Stochastic rounding of an FP32 encoding to BF16, with its conditions (R67). -/
def srBf16 (f key tag row col : Nat) : Nat × FFlags :=
  match fp32.unpack f with
  | .nan s => (bf16.nan, flagIf s flagNv)
  | v =>
    let h := cairn key tag row col
    let hi := f / 2 ^ 16
    let r := if 0x10000 ≤ f % 2 ^ 16 + h % 2 ^ 16 then (hi + 1) % 2 ^ 16 else hi
    let inexact := f % 2 ^ 16 != 0
    let past := !v.isInf && r % 0x8000 == 0x7F80
    (r, flagIf inexact flagNx ||| flagIf past (flagOf ||| flagNx) ||| flagIf (inexact && r / 0x80 % 0x100 == 0) flagUf)

end Sys2Proof.Machine
end

