-- ==== Sys2Proof/Machine/Operands.lean ====
section
/-! DEFINITION. Who executes an instruction, and every operand form: registers, constants, the IMM reference, special
registers and drain ports (R113, R114, R121, R122, R157, R161, R345). -/
namespace Sys2Proof.Machine

/-- A group about to execute an instruction: its team, its quadrant, the loop-buffer lane that executes alone if one does,
the instruction's fields (stepped when repeated), the scope that applies, and whether the scope it names was refused (R317). -/
structure GCtx where
  s : State
  team : Team
  grp : Group
  quad : Nat
  lb : Option Nat
  f : Fields
  scope : Nat
  refused : Bool
  deriving DecidableEq, Repr

def GCtx.ref (g : GCtx) : TeamRef := g.team.ref

/-- The threads that execute: SUB threads for a broadcast issue, the one thread for a loop-buffer issue (R123, R157). -/
def GCtx.runs (g : GCtx) (t : Thread) : Bool :=
  g.grp.owns t && (match g.lb with | none => decide (t.st = .sub) | some l => t.lane == l)

/-- The executing threads in ascending visible lane. -/
def GCtx.lanes (g : GCtx) : List Thread := (g.team.members g.grp).filter g.runs

/-- The program counter of the instruction. -/
def GCtx.pc (g : GCtx) : Pc := match g.lanes with | t :: _ => t.pc | [] => 0

/-- A thread's virtual lane (R122). -/
def GCtx.virt (g : GCtx) (t : Thread) : Nat := g.grp.virt t.lane

/-- A predicate of a thread (R112, R114). -/
def Thread.pred (t : Thread) (n : BitVec 3) : Bool := t.p.getLsbD n.toNat || n == 7

/-- A predicate written; p7 keeps reading true (R114). -/
def Thread.setPred (t : Thread) (n : BitVec 3) (x : Bool) : Thread :=
  if n = 7 then t
  else { t with p := if x then t.p ||| BitVec.ofNat 8 (2 ^ n.toNat) else t.p &&& ~~~(BitVec.ofNat 8 (2 ^ n.toNat)) }

/-- The guard of an instruction in a thread (R112). -/
def guardOn (pg : Guard) (t : Thread) : Bool := t.pred pg.p != pg.neg

/-- An active lane (R112, R157). -/
def GCtx.active (g : GCtx) (t : Thread) : Bool := g.runs t && guardOn g.f.pg t

/-- The active lanes, ascending. -/
def GCtx.actives (g : GCtx) : List Thread := g.lanes.filter (fun t => guardOn g.f.pg t)

/-! ### Registers -/

def VReg.zero : VReg := { val := 0, poison := none }
def SReg.zero : SReg := { val := 0, poison := none }
def BReg.null : BReg := { bits := 0, poison := none, reason := 0 }

def Thread.vreg (t : Thread) (n : Nat) : VReg := t.v.getD n VReg.zero

/-- A v-register written. -/
def Thread.setV (t : Thread) (n : Nat) (x : VReg) : Thread := { t with v := t.v.set n x }

/-- An s-register read; s0 reads 0 (R114). -/
def Group.sreg (g : Group) (n : Nat) : SReg := if n = 0 then SReg.zero else g.s.getD n SReg.zero

/-- An s-register written; a write of s0 has no effect (R114). -/
def Group.setS (g : Group) (n : Nat) (x : SReg) : Group := if n = 0 then g else { g with s := g.s.set n x }

def Group.breg (g : Group) (n : Nat) : BReg := g.b.getD n BReg.null
def Group.setB (g : Group) (n : Nat) (x : BReg) : Group := { g with b := g.b.set n x }

def Handle.null : Handle := { st := .null, reason := 0, pmask := 0, mmask := 0, cmd := none, signal := none }
def Group.hreg (g : Group) (n : Nat) : Handle := g.h.getD n Handle.null
def Group.setH (g : Group) (n : Nat) (x : Handle) : Group := { g with h := g.h.set n x }

/-- The 64-bit value of an even/odd pair (R47), with the higher-ranked tag of its halves (R356). -/
def Thread.vpair (t : Thread) (n : Nat) : Nat × Option PoisonKind :=
  ((t.vreg n).val.toNat + 2 ^ 32 * (t.vreg (n + 1)).val.toNat, worst (t.vreg n).poison (t.vreg (n + 1)).poison)

/-- A 32-bit result, or a pair for a 64-bit one. -/
def Thread.writeV (t : Thread) (wide : Bool) (n : Nat) (x : Nat) (p : Option PoisonKind) : Thread :=
  let t := t.setV n { val := BitVec.ofNat 32 x, poison := p }
  if wide then t.setV (n + 1) { val := BitVec.ofNat 32 (x / 2 ^ 32), poison := p } else t

/-! ### Special registers (R345) -/

/-- `scopepol` as programs read it (R316). -/
def Vf.scopepol (v : Vf) : Nat :=
  (if v.devOk then 1 else 0) + (if v.sysOk then 2 else 0) + (if v.act then 4 else 0) + 2 ^ 32 * v.refcnt.toNat

/-- `ebudget` (R212). -/
def Ctx.ebudget (c : Ctx) : Nat := wrapNat 32 c.level + 2 ^ 32 * (c.refill % 2 ^ 16) + 2 ^ 48 * (c.cap % 2 ^ 16)

/-- A special register with one value for a group or sequencer. -/
def groupSpecial (s : State) (t : Team) (quad n : Nat) : Nat :=
  match n with
  | 4 => t.teamId
  | 5 => t.ref.cluster
  | 6 => t.ref.cteam
  | 7 => quad % 4
  | 8 => t.slotOf quad
  | 9 => t.core
  | 17 => t.cairnkey.toNat
  | 18 => t.ringerr.toNat
  | 19 => (s.ctx t.ref.vf).ebudget
  | 20 => (s.vf t.ref.vf).scopepol
  | 24 => s.cycle % 2 ^ 64
  | 25 => s.usec % 2 ^ 64
  | _ => 0

/-- `cairnkey` as a group sees it: the value of any write from the oldest it may still see up to the last one, write 0 being the 0 of the team's start
(R173, R209); which is free (log 2). -/
def GCtx.cairnkey (g : GCtx) : Nat :=
  ((0 :: g.team.keyLog).getD (g.grp.keyFrom + Config.freeNat (g.s.tick + g.s.cycle) % (g.team.keyLog.length + 1 - g.grp.keyFrom)) 0).toNat

/-- An s-register as an instruction reads it: a loop-buffer lane that executes in the cycle in which a broadcast instruction wrote the register reads the
value from before (R138). -/
def GCtx.sreg (g : GCtx) (n : Nat) : SReg :=
  match g.lb, g.grp.sOld with
  | some _, some (c, k, old) => if c = g.s.cycle ∧ k = n then old else g.grp.sreg n
  | _, _ => g.grp.sreg n

/-- A special register with one value for a group, as the group reads it. -/
def GCtx.specialOnce (g : GCtx) (n : Nat) : Nat := if n = 17 then g.cairnkey else groupSpecial g.s g.team g.quad n

/-- A special register as a thread reads it. -/
def GCtx.special (g : GCtx) (t : Thread) (n : Nat) : Nat :=
  match n with
  | 0 => g.virt t
  | 1 => t.tidX.toNat
  | 2 => t.tidY.toNat
  | 3 => t.tidZ.toNat
  | 16 => t.fstat.toNat
  | _ => g.specialOnce n

/-! ### Operand values -/

/-- The integer of an inline constant (R114). -/
def constInt (n : BitVec 7) : Int := (n.toNat : Int) - 64

/-- IMM extended to 64 bits as the reference states (R114). -/
def immExt (zx : Bool) (x : BitVec 32) : Nat := if zx then x.toNat else wrapNat 64 (sextNat 32 x.toNat)

/-- An operand of one lane as 64 bits, a v-register as a pair when `wide` (R114, R157). -/
def GCtx.raw (g : GCtx) (t : Thread) (wide : Bool) (o : Operand) : Nat × Option PoisonKind :=
  match o with
  | .v n => if wide then t.vpair n.toNat else ((t.vreg n.toNat).val.toNat, (t.vreg n.toNat).poison)
  | .s n => ((g.sreg n.toNat).val.toNat, (g.sreg n.toNat).poison)
  | .const n => (wrapNat 64 (constInt n), none)
  | .special n => (g.special t n.toNat % 2 ^ 64, none)
  | .imm zx => (immExt zx g.f.imm, none)
  | .dp _ => let x := (match g.grp.bound with | some e => e.entry | none => []).getD (g.virt t) VReg.zero; (x.val.toNat, x.poison)
  | _ => (0, none)

/-- The encoding of an inline constant at an operand type: exact floats, both halves of packed types (R114, R116). -/
def constTyped (ty : Nat) (n : BitVec 7) : Nat :=
  let k := constInt n
  let half (F : Fmt) : Nat := (F.round .rne (ofInt k)).1
  match ty with
  | 0 => half fp32
  | 1 => half fp16 * 65537
  | 2 => half bf16 * 65537
  | 5 => wrapNat 64 k
  | 6 => wrapNat 64 k
  | 7 => wrapNat 16 k * 65537
  | _ => wrapNat 32 k

/-- An operand of a vector instruction at TYPE (R114, R116, R157). -/
def GCtx.typed (g : GCtx) (t : Thread) (ty : Nat) (o : Operand) : Nat × Option PoisonKind :=
  let wide := ty == 5 || ty == 6
  match o with
  | .const n => (constTyped ty n, none)
  | _ => let (x, p) := g.raw t wide o; (if wide then x else x % 2 ^ 32, p)

/-- An operand that stands once for the group, as 64 bits (R136, R242, R255, R332). -/
def GCtx.once (g : GCtx) (o : Operand) : Nat × Option PoisonKind :=
  match o with
  | .s n => ((g.sreg n.toNat).val.toNat, (g.sreg n.toNat).poison)
  | .const n => (wrapNat 64 (constInt n), none)
  | .special n => (g.specialOnce n.toNat % 2 ^ 64, none)
  | .imm zx => (immExt zx g.f.imm, none)
  | _ => (0, none)

/-- The register number of a v operand. -/
def opNum : Operand → Nat
  | .v n => n.toNat | .s n => n.toNat | .const n => n.toNat | .special n => n.toNat | .p n => n.toNat | .h n => n.toNat
  | .b n => n.toNat | .a n => n.toNat | .dp n => n.toNat | _ => 0

/-- The predicate register of a p operand. -/
def opPreg : Operand → BitVec 3
  | .p n => n
  | _ => 7

/-- A record operand (R250). -/
def GCtx.record (g : GCtx) (o : Operand) : BReg := g.grp.breg (opNum o)

end Sys2Proof.Machine
end

