-- ==== Sys2Proof/Machine/Issue.lean ====
section
/-! DEFINITION. What every program instruction shares: finding its issuer, the checks at issue in the order of R359, waiting
on pending registers (R125, R231), repetition (R129, R155), and what its end does to the run and the program counters
(R103, R111, R124, R126). -/
namespace Sys2Proof.Machine

/-- The issuing group, if `cur` names a resident one. -/
def State.gctx? (s : State) : Option GCtx :=
  let mk (q : Nat) (r : TeamRef) (place : Nat) (lb : Option Nat) : Option GCtx :=
    match s.team? r with
    | none => none
    | some t =>
      match t.group? (t.slotOf q) place with
      | none => none
      | some g => some { s := s, team := t, grp := g, quad := q, lb := lb, scope := 0, refused := false
                         f := { er := false, pg := { neg := false, p := 7 }, d := .none, a := .none, b := .none, c := .none, mod := 0, imm := 0 } }
  match s.cur with
  | .group q r place => mk q r place none
  | .lane q r place l => mk q r place (some l)
  | _ => none

/-- A sequencer about to execute an instruction. -/
structure SCtx where
  s : State
  team : Team
  seq : Seq
  quad : Nat
  f : Fields
  deriving DecidableEq, Repr

/-- The issuing sequencer. -/
def State.sctx? (s : State) : Option SCtx :=
  match s.cur with
  | .seq q r slot =>
    match s.team? r with
    | none => none
    | some t =>
      match t.seqs.find? (fun x => x.slot == slot) with
      | none => none
      | some x => some { s := s, team := t, seq := x, quad := q
                         f := { er := false, pg := { neg := false, p := 7 }, d := .none, a := .none, b := .none, c := .none, mod := 0, imm := 0 } }
  | _ => none

/-! ### Traps from a group -/

/-- Where a group traps. -/
def GCtx.site (g : GCtx) : TrapSite := { team := g.ref, quad := g.quad, place := g.grp.place, seq := false }

/-- The repetition a group holds for a program counter (R129). -/
def Group.repAt (g : Group) (pc : Pc) : Option Rep := g.reps.find? (fun r => r.pc == pc)

/-- The repetition an instruction runs under: in progress, or announced by the `rep` before it; a loop-buffer lane has none (R129). -/
def GCtx.repNow (g : GCtx) : Option Rep := if g.lb.isNone then g.grp.repAt g.pc else none

/-- What a trap of a group records (R361): virtual lanes, and an address for ACCESS. -/
def GCtx.trapInfo (g : GCtx) (cause : Nat) (lanes : List Thread) (addr reason code : Nat) : TrapInfo :=
  { cause := BitVec.ofNat 8 cause, reason := BitVec.ofNat 8 reason, code := BitVec.ofNat 16 code, pc := g.pc,
    repIdx := BitVec.ofNat 6 (match g.repNow with | some r => r.idx | none => 0), lanes := laneMask (lanes.map g.virt), addr := BitVec.ofNat 64 addr,
    resumable := causeResumable cause }

/-- A precise trap of the group at this instruction (R360): nothing else happens. -/
def GCtx.trap (g : GCtx) (cause : Nat) (lanes : List Thread) (addr : Nat := 0) (reason : Nat := 0) : State :=
  g.s.trapAt g.site (g.trapInfo cause lanes addr reason 0)

/-- A trap recorded for all executing lanes. -/
def GCtx.trapAll (g : GCtx) (cause : Nat) : State := g.trap cause g.lanes

/-! ### Poison at a consumer (R357) -/

/-- The poison-consumption trap of the highest-ranked kind over some lanes, with the lanes that hold a poisoned source. -/
def GCtx.consumeTrap (g : GCtx) (k : PoisonKind) (lanes : List Thread) (reason : Nat := 0) : State := g.trap k.code lanes 0 reason

/-- Poisoned lanes of a per-lane check, and the kind that is reported. -/
def worstLanes (l : List (Thread × Option PoisonKind)) : Option (PoisonKind × List Thread) :=
  match worstOf (l.map (·.2)) with
  | none => none
  | some k => some (k, (l.filter (fun x => x.2 == some k)).map (·.1))

/-! ### Register dependences (R128, R231) -/

/-- The width of a v operand under the instruction's form; the widest where it stands in several places. -/
def formWidth (fm : Form) (f : Fields) (o : Operand) : Nat :=
  ((fm.regs f).filter (fun e => e.1 == o)).foldl (fun a e => max a e.2.1) 1

/-- The place of a pending value is named by an operand of a group. -/
def pendingHit (g : Group) (lanes : List Thread) (o : Operand) (w : Nat) (x : PendVal) : Bool :=
  match o, x with
  | .v n, .v blk lane m _ => decide (n.toNat ≤ m) && decide (m < n.toNat + w) && lanes.any (fun t => t.block == blk && t.lane == lane)
  | .s n, .s place m _ => n.toNat == m && place == g.key
  | .b n, .b place m _ => n.toNat == m && place == g.key
  | _, _ => false

/-- Pending loads and atomics whose destination the operands of an instruction name, for some lanes of a group (R231). -/
def Team.pendingOps (t : Team) (g : Group) (lanes : List Thread) (ops : List (Operand × Nat)) : List Nat :=
  (t.pend.filter (fun op => op.vals.any (fun x => ops.any (fun o => pendingHit g lanes o.1 o.2 x)))).map (·.id)

/-- D is a source: stores, `sbfi`, `smovhi`, `vbfi`, `gcas`, `pcas` (R139, R166, R243, R333). -/
def readsD (fm : Form) : Bool :=
  match fm.cls with
  | .mem => [1, 3, 5, 7, 9].contains fm.op
  | .scl => fm.op == 0x14 || fm.op == 0x18
  | .vec => fm.op == 0x24
  | .sys => fm.op == 8 || fm.op == 0x15
  | _ => false

/-- The sources of an instruction with their widths. -/
def sourcesOf (fm : Form) (f : Fields) : List (Operand × Nat) :=
  (if readsD fm then [(f.d, formWidth fm f f.d)] else []) ++
    [(f.a, formWidth fm f f.a), (f.b, formWidth fm f f.b), (f.c, formWidth fm f f.c)]

/-- The operands of an instruction with their widths. -/
def operandsOf (fm : Form) (f : Fields) : List (Operand × Nat) :=
  [(f.d, formWidth fm f f.d), (f.a, formWidth fm f f.a), (f.b, formWidth fm f f.b), (f.c, formWidth fm f f.c)]

/-! ### Loop buffers (R124) -/

/-- Instructions a thread in LB may execute (R124, R144). -/
def lbAllowed (fm : Form) (f : Fields) : Bool :=
  match fm.cls with
  | .vec => !(0x0C0 ≤ fm.op && fm.op ≤ 0x0CA) && f.dps == 0
  | .mem => !(fm.op == 6 || fm.op == 7 || fm.op == 0xA || fm.op == 0xB)
  | .ctl => fm.op == 1 || fm.op == 2 || fm.op == 0xA || ((fm.op == 7 || fm.op == 0xD) && !f.d.isS)
  | .sys => fm.op ≤ 0x15
  | _ => false

/-- The captured slot at a thread's program counter. -/
def Thread.captured (t : Thread) : Option LbEntry := t.lbuf.find? (fun e => e.pc == t.pc)

/-- A thread's next instruction is in its loop buffer and may run from it (R123, R124). -/
def Thread.lbNext (t : Thread) : Option Instr :=
  match t.captured with
  | none => none
  | some e => match decodeWord e.word with
    | none => none
    | some i => match i.form with
      | some (fm, f) => if lbAllowed fm f then some i else none
      | none => none

/-- The loop buffers of a quadrant hold what a group's broadcast stream put there (R124). -/
def State.ownsBuffers (s : State) (q : Nat) (r : TeamRef) (place : Nat) : Bool := (s.quad q).bufOwner == some (r, place)

/-- An instruction whose access an acquire under way holds back (R310, R338). -/
def isAccess (fm : Form) : Bool := (decide (fm.cls = .mem) && fm.op ≤ 9) || (decide (fm.cls = .sys) && fm.op ≤ 0x15)

/-- An instruction that takes an entry of the store queue (R305, R338). -/
def entersQueue (fm : Form) : Bool := (decide (fm.cls = .mem) && [1, 3, 5, 7, 9].contains fm.op) || (decide (fm.cls = .sys) && fm.op ≤ 0x15)

/-- What an LB thread's next instruction waits for of what is pending: its own registers, and acquires before an access (R125, R338). -/
def Team.lbAwaits (t : Team) (g : Group) (x : Thread) (fm : Form) (f : Fields) : List Nat :=
  t.pendingOps g [x] (operandsOf fm f) ++ (if isAccess fm then t.acquires g else [])

/-- An LB thread that can issue now: the buffers are its group's, and its instruction waits neither on anything pending nor for room in the store queue
(R124, R125, R305). On a full lodge or an absent line it parks the group itself (R126). -/
def Team.lbCanIssue (t : Team) (own : Bool) (g : Group) (x : Thread) : Bool :=
  own && decide (x.st = .lb) &&
    (match x.lbNext with
     | some i => match i.form with
       | some (fm, f) => (t.lbAwaits g x fm f).isEmpty && !(entersQueue fm && decide (32 ≤ g.storeQ.length))
       | none => false
     | none => false)

/-- A slot captured by a thread's lane: present slots are not captured twice, and the oldest of 48 is replaced (R124). -/
def Thread.capture (t : Thread) (pc : Pc) (w : IWord) : Thread :=
  if t.lbuf.any (fun e => e.pc == pc) then t
  else { t with lbuf := (if t.lbuf.length < 48 then t.lbuf else t.lbuf.drop 1) ++ [{ pc := pc, word := w }] }

/-- Some LB thread of the group can issue. -/
def GCtx.lbGoes (g : GCtx) : Bool := (g.team.members g.grp).any (g.team.lbCanIssue (g.s.ownsBuffers g.quad g.ref g.grp.place) g.grp)

/-- Waiting for pending destinations: a loop-buffer lane waits by itself; the broadcast stream waits in place while some LB
thread can issue, and otherwise the group parks (R125, R231). -/
def GCtx.waitPending (g : GCtx) (ops : List Nat) : State :=
  match g.lb with
  | some _ => g.s
  | none => if g.lbGoes then g.s
            else g.s.park g.ref g.quad g.grp.place (.pending ops)

/-- Parking the group on a condition, from the broadcast stream or from a loop-buffer lane: its run ends, and it resumes at this instruction (R126). -/
def GCtx.park (g : GCtx) (p : Park) : State := g.s.park g.ref g.quad g.grp.place p

/-! ### Repetition (R154, R155) -/

/-- An operand stepped by `k` registers, with the check it fails. -/
def stepOp (o : Operand) (k : Nat) : Operand × Option Ill :=
  match o with
  | .v n => if n.toNat + k ≤ 255 then (.v (BitVec.ofNat 8 (n.toNat + k)), none) else (o, some .reg)
  | .s n => if n.toNat + k ≤ 63 then (.s (BitVec.ofNat 6 (n.toNat + k)), none) else (o, some .spec)
  | _ => (o, some .pfx)

/-- The fields of repetition `i`, with the checks its specifiers fail. -/
def stepFields (r : Rep) (f : Fields) (i : Nat) : Fields × List Ill :=
  let k := i * r.stride
  let one (sel : Nat) (o : Operand) : Operand × List Ill :=
    if r.step.getLsbD sel then (let (o', e) := stepOp o k; (o', e.toList)) else (o, [])
  let (d, ed) := one 0 f.d
  let (a, ea) := one 1 f.a
  let (b, eb) := one 2 f.b
  let (c, ec) := one 3 f.c
  ({ f with d := d, a := a, b := b, c := c }, ed ++ ea ++ eb ++ ec)

/-- The width that an instruction gives a v operand at one place, D, A, B or C, whatever the other places name. -/
def placeWidth (fm : Form) (f : Fields) (n : Nat) : Nat :=
  formWidth fm { f with d := .v 0, a := .v 64, b := .v 128, c := .v 192 } (.v (BitVec.ofNat 8 (64 * n)))

/-- A stepped 64-bit v operand with stride 1 (R155). -/
def strideOne (fm : Form) (f : Fields) (r : Rep) : Bool :=
  r.stride == 1 &&
    ([(0, f.d), (1, f.a), (2, f.b), (3, f.c)].any (fun (n, o) => r.step.getLsbD n && o.isV && placeWidth fm f n == 2))

/-- The instructions that may follow `rep` in a group (R155). -/
def repeatable (fm : Form) (f : Fields) : Bool :=
  match fm.cls with
  | .vec => !(0x0C0 ≤ fm.op && fm.op ≤ 0x0CA) && f.dps == 0
  | .scl => true
  | .mem => fm.op ≤ 3 || fm.op == 8 || fm.op == 9
  | _ => false

/-- The lowest of several reasons (R119). -/
def lowestIll (l : List Ill) : Option Ill :=
  l.foldl (fun a x => match a with
    | none => some x
    | some y => if x.code.toNat < y.code.toNat then some x else some y) none

/-- Every check of a repeated instruction: each repetition's legality, its stepped specifiers, and whether it may follow (R155). -/
def repReasons (k : IssueCtx) (fm : Form) (f : Fields) (r : Rep) (may : Bool) : List Ill :=
  (List.range r.count).flatMap (fun i => let (f', e) := stepFields r f i; (illegal k fm f').toList ++ e) ++
    (if may then [] else [.pfx]) ++ (if strideOne fm f r then [.reg] else [])

/-! ### Scope policy (R317) -/

/-- The instruction carries a SCOPE that R317 checks. -/
def carriesScope (fm : Form) : Bool :=
  match fm.cls with
  | .mem => true
  | .asy => fm.op ≤ 7
  | .sys => fm.op ≤ 0x15 || fm.op == 0x20 || fm.op == 0x44
  | _ => false

/-- Whether a scope is permitted under a policy (R317). -/
def scopeAllowed (devOk sysOk : Bool) (scope : Nat) : Bool :=
  if scope = 5 then devOk || sysOk else if scope = 6 then sysOk else true

/-- The policy in force for a group: within 1 µs of a write, the old or the new one, never the old one again once the group has
been checked against the new (R317). The choice is a free value (log 2). -/
def GCtx.policy (g : GCtx) : (Bool × Bool × Bool) × GCtx :=
  let v := g.s.vf g.ref.vf
  let now := (v.devOk, v.sysOk, v.act)
  match v.policyOld with
  | none => (now, g)
  | some (d, y, a, since) =>
    if since + Config.cyclesPerUs < g.s.cycle ∨ since < g.grp.polSeen then (now, g)
    else
      let (old, s) := g.s.freeBool
      if old then ((d, y, a), { g with s := s })
      else
        let grp := { g.grp with polSeen := since + 1 }
        let team := g.team.setGroup grp
        (now, { g with s := s.setTeam team, team := team, grp := grp })

/-- A refused scope counted (R317). -/
def GCtx.countRefused (g : GCtx) : GCtx := { g with s := g.s.updVf g.ref.vf (fun v => { v with refcnt := satInc v.refcnt }) }

/-- The scope check at issue (R317): the context with its scope, narrowed to tenant (4) when refused under ACT 0, or none where
it traps. REFCNT counts a trap here, and an instruction narrowed to tenant at its end, so that one that waits is counted once. -/
def GCtx.checkScope (g : GCtx) (fm : Form) : State ⊕ GCtx :=
  let scope := g.f.scope
  if !carriesScope fm || scope < 5 then .inr { g with scope := scope }
  else
    let ((d, y, a), g) := g.policy
    if scopeAllowed d y scope then .inr { g with scope := scope }
    else
      if a then .inl (if g.s.quiet g.site then g.countRefused.trapAll causePriv else g.s)
      else .inr { g with scope := 4, refused := true }

/-! ### The end of an instruction -/

/-- The next instruction in sequence (R103). -/
def nextSeq (pc : Pc) : Pc := if pc.toNat % 64 = 48 then pc + 16 else pc + 12

/-- Slot 4 of the last line: there is no next instruction in sequence (R103). -/
def lastSlot (pc : Pc) : Bool := pc.toNat == 2 ^ 57 - 16

/-- The executing threads of a team changed. -/
def GCtx.mapLanes (g : GCtx) (h : Thread → Thread) : Team :=
  { g.team with threads := g.team.threads.map (fun t => if g.runs t then h t else t) }

/-- The issuing group's record in a state, after the instruction's own effects. -/
def GCtx.updGroup (g : GCtx) (s : State) (h : Group → Group) : State :=
  s.updTeam g.ref (fun t => match t.group? g.grp.slot g.grp.place with
    | some x => t.setGroup (h x)
    | none => t)

/-- No thread of the group needs the broadcast stream. -/
def Team.allLb (t : Team) (g : Group) : Bool := (t.hereOf g).all (fun x => decide (x.st = .lb))

/-- Every compared and received item of the group goes by its second (R368, R369). -/
def GCtx.verified (g : GCtx) : Bool := match g.s.clusterOf g.ref with | some c => c.verify | none => false

/-- What a verified leader receives by its operands: the special registers and drain-port entries it reads, lane by lane (R369). -/
def GCtx.takenValues (g : GCtx) : List (List (Nat × Option PoisonKind)) :=
  if g.verified then
    ([g.f.a, g.f.b, g.f.c].filter (fun o => match o with | .special _ => true | .dp _ => true | _ => false)).map (fun o =>
      g.lanes.map (fun t => g.raw t true o))
  else []

/-- Values pushed to the load-value queue (R369). -/
def Group.pushValues (g : Group) (l : List (List (Nat × Option PoisonKind))) : Group := { g with valueQueue := g.valueQueue ++ l }

/-- Values that a verified group will receive from what it has under way (R369). -/
def Team.valuesDue (t : Team) (g : Group) : Nat := (t.pend.filter (fun p => p.place == g.key && (!p.vals.isEmpty || !p.known))).length

/-- A verified leader parks: its queue is full, or has no room for `n` values beside those that it will receive from what it has under way (R369). -/
def GCtx.queueFull (g : GCtx) (n : Nat) : Bool :=
  g.verified && (decide (64 ≤ g.grp.valueQueue.length) || (decide (0 < n) && decide (64 < g.grp.valueQueue.length + g.team.valuesDue g.grp + n)))

/-- An instruction that gives a verified leader one more value waits for room in the queue and pushes it (R369). -/
def GCtx.receives (g : GCtx) (v : List (Nat × Option PoisonKind)) (body : (Group → Group) → State) : State :=
  if !g.verified then body id
  else if g.queueFull (g.takenValues.length + 1) then g.park .valueQueue
  else body (fun x => x.pushValues [v])

/-- The repetition that goes on after this instruction, if one does (R129, R154). -/
def GCtx.more (g : GCtx) : Option Rep :=
  match g.repNow with
  | some r => if r.idx + 1 < r.count then some { r with idx := r.idx + 1 } else none
  | none => none

/-- The repetitions the group holds after this instruction (R129). -/
def GCtx.repsAfter (g : GCtx) : List Rep :=
  if g.lb.isNone then g.grp.reps.filter (fun r => r.pc != g.pc) ++ g.more.toList else g.grp.reps

/-- An executing thread at the end of an instruction: its lane captures the slot of a broadcast issue, and its program counter moves on in sequence unless
the instruction `moved` it or repeats (R103, R124, R129). -/
def GCtx.endThread (g : GCtx) (word : IWord) (moved : Bool) (t : Thread) : Thread :=
  let t' := if g.lb.isNone then t.capture g.pc word else t
  if moved || g.more.isSome then t' else { t' with pc := nextSeq g.pc }

/-- Before a broadcast issue fills the loop buffers, what another group's run left there is gone (R124). -/
def GCtx.refill (g : GCtx) (own : Bool) (t : Thread) : Thread := if g.lb.isNone && !own && g.grp.owns t then { t with lbuf := [] } else t

/-- The value that an s-register had before this instruction wrote it (R138). -/
def GCtx.sBefore (g : GCtx) (x : Group) : Option (Nat × Nat × SReg) :=
  match (List.range 64).find? (fun n => g.grp.sreg n != x.sreg n) with
  | some n => some (g.s.cycle, n, g.grp.sreg n)
  | none => g.grp.sOld

/-- The group after a broadcast instruction: repetitions, run length, the drain-port entry used up where it read one, and what its second takes
(R111, R129, R162, R369). -/
def GCtx.endGroup (g : GCtx) (x : Group) : Group :=
  { x with reps := g.repsAfter, runLen := x.runLen + 1, bound := x.bound.filter (fun e => e.pc != g.pc), lbCycles := 0, lbAt := none, sOld := g.sBefore x
           valueQueue := x.valueQueue ++ g.takenValues }

/-- The group after a loop-buffer instruction: a cycle in which it issued only from loop buffers is counted once (R126). -/
def GCtx.endLane (g : GCtx) (t : Team) (x : Group) : Group :=
  let counts := t.allLb x && x.lbAt != some g.s.cycle
  { x with lbCycles := if counts then x.lbCycles + 1 else x.lbCycles, lbAt := if counts then some g.s.cycle else x.lbAt
           valueQueue := x.valueQueue ++ g.takenValues }

/-- A state with a refused scope counted where the instruction's was narrowed (R317). -/
def GCtx.withCount (g : GCtx) (s : State) : State := if g.refused then ({ g with s := s } : GCtx).countRefused.s else s

/-- The state an instruction starts from, its refused scope counted. -/
def GCtx.base (g : GCtx) : State := g.withCount g.s

/-- The issue itself: counted in the diagnostic counters, a broadcast filling its quadrant's loop buffers, and a refused scope counted (R124, R317, R353). -/
def GCtx.counted (g : GCtx) (s : State) : State :=
  let s := s.diag g.quad g.ref.vf (if g.lb.isNone then 0 else 2) (· + 1)
  let s := if g.lb.isNone then s.updQuad g.quad (fun q => { q with bufOwner := some (g.ref, g.grp.place) }) else s
  g.withCount s

/-- A thread of the team after an instruction: its loop buffer, and its end where it executed (R103, R124, R129). -/
def GCtx.closeThread (g : GCtx) (word : IWord) (own moved : Bool) (t : Thread) : Thread :=
  if g.runs t then g.endThread word moved (g.refill own t) else g.refill own t

/-- The threads and the group's run after an instruction (R103, R111, R124, R126, R129). -/
def GCtx.closed (g : GCtx) (s : State) (moved : Bool) : State :=
  let word := s.curWord
  let own := s.ownsBuffers g.quad g.ref g.grp.place
  let s := (g.counted s).updTeam g.ref (fun t => { t with threads := t.threads.map (g.closeThread word own moved) })
  if g.lb.isNone then g.updGroup s g.endGroup else g.updGroup s (g.endLane g.team)

/-- The group's run is over: at ER, which a loop-buffer lane means only when every live thread is in LB, or at 24 instructions (R111, R126). -/
def GCtx.isOver (g : GCtx) (t : Team) (x : Group) : Bool :=
  if g.lb.isNone then (g.f.er && g.more.isNone) || decide (24 ≤ x.runLen) else g.f.er && t.allLb x

/-- The instruction is over in state `s`, which holds its effects (R103, R111, R124, R126, R129): the lanes capture the slot, the
program counters advance unless it `moved` them, the repetition advances, and the run ends at ER or at 24 instructions. Where it would go on
in sequence past the last slot, it traps instead, without effect (R103, R360). -/
def GCtx.finish (g : GCtx) (s : State) (moved : Bool := false) : State :=
  if !moved && g.more.isNone && lastSlot g.pc then g.trapAll causeBrtgt
  else
    let s := g.closed s moved
    match s.team? g.ref with
    | none => s
    | some t =>
      match t.group? g.grp.slot g.grp.place with
      | none => s
      | some x => if g.isOver t x then s.endRun g.ref g.quad g.grp.place else s

/-- The instruction is over, having changed its executing threads and its group only. -/
def GCtx.done (g : GCtx) (onLane : Thread → Thread) (onGroup : Group → Group := id) : State :=
  g.finish (g.s.setTeam ((g.mapLanes onLane).setGroup (onGroup g.grp)))

/-! ### The issue of a group's instruction -/

/-- What R119 needs of a group. -/
def GCtx.issueCtx (g : GCtx) : IssueCtx :=
  match g.s.kd? g.ref with
  | some k => { role := if g.grp.porter then .porter else .vector, regs := k.regs, rings := k.rings, matrix := g.team.hasMatrix }
  | none => { role := if g.grp.porter then .porter else .vector, regs := 0, rings := 0, matrix := false }

/-- The illegal-instruction reason of an instruction in a group, with the fields it executes (R119, R155). -/
def GCtx.legal (g : GCtx) (fm : Form) (f : Fields) : Option Ill × Fields :=
  let k := g.issueCtx
  match g.repNow with
  | none => (illegal k fm f, f)
  | some r => (lowestIll (repReasons k fm f r (repeatable fm f)), (stepFields r f r.idx).1)

/-- The shuffles read lanes that need not be active (R180). -/
def readsOthers (fm : Form) : Bool := decide (fm.cls = .vec) && decide (0x0C0 ≤ fm.op) && decide (fm.op ≤ 0x0C3)

/-- An instruction of a group: illegal instruction first, then a refused scope, then pending registers, a pending source parking
the group and a pending destination holding it in place, then room for what its second takes; then its own meaning (R119, R231, R317, R359, R369). -/
def issueGroup (i : Instr) (g : GCtx) (body : GCtx → State) : State :=
  match i.form with
  | none => g.s
  | some (fm, f) =>
    match g.legal fm f with
    | (some r, _) => { g with f := f }.trapAll r.code.toNat
    | (none, f) =>
      match { g with f := f }.checkScope fm with
      | .inl s => s
      | .inr g =>
        let lanes := if fm.guarded && !readsOthers fm then g.actives else g.lanes
        match g.team.pendingOps g.grp lanes (sourcesOf fm f) with
        | [] =>
          if !(g.team.pendingOps g.grp lanes (operandsOf fm f)).isEmpty then g.s
          else if g.queueFull g.takenValues.length then g.park .valueQueue
          else body g
        | ops => g.waitPending ops

/-! ### Sequencers -/

def SCtx.ref (c : SCtx) : TeamRef := c.team.ref
def SCtx.site (c : SCtx) : TrapSite := { team := c.ref, quad := c.quad, place := 0, seq := true }

/-- A trap of a sequencer: its stream stops (R360). -/
def SCtx.trap (c : SCtx) (cause : Nat) : State :=
  c.s.trapAt c.site
    { cause := BitVec.ofNat 8 cause, reason := 0, code := 0, pc := c.seq.pc,
      repIdx := BitVec.ofNat 6 (match c.seq.rep with | some r => r.idx | none => 0), lanes := 0, addr := 0, resumable := causeResumable cause }

/-- The sequencer's record replaced in a state. -/
def SCtx.put (c : SCtx) (s : State) (q : Seq) : State :=
  s.updTeam c.ref (fun t => { t with seqs := t.seqs.map (fun x => if x.slot == q.slot then q else x) })

/-- The repetition a sequencer instruction runs under. -/
def Seq.repNow (q : Seq) : Option Rep :=
  match q.rep with
  | some r => some r
  | none => q.pfx

/-- The MTX instructions that `rep` may precede (R188). -/
def seqRepeatable (fm : Form) (f : Fields) : Bool :=
  decide (fm.cls = .mtx) && (fm.op == 2 || fm.op == 3 || fm.op == 0xB || (fm.op == 0xA && f.mod == 0))

/-- The repetition that goes on after this instruction, if one does (R129, R154). -/
def SCtx.more (c : SCtx) : Option Rep :=
  match c.seq.repNow with
  | some r => if r.idx + 1 < r.count then some { r with idx := r.idx + 1 } else none
  | none => none

/-- The instruction is over: the sequencer has changed to `q`, its program counter and repetition advance unless `moved`; past the last slot it traps
without effect (R103, R360). -/
def SCtx.finish (c : SCtx) (s : State) (q : Seq) (moved : Bool := false) : State :=
  if !moved && c.more.isNone && lastSlot c.seq.pc then c.trap causeBrtgt
  else c.put s { q with rep := c.more, pfx := none, pc := if moved || c.more.isSome then q.pc else nextSeq c.seq.pc }

/-- What R119 needs of a sequencer. -/
def SCtx.issueCtx (c : SCtx) : IssueCtx :=
  match c.s.kd? c.ref with
  | some k => { role := .sequencer, regs := k.regs, rings := k.rings, matrix := true }
  | none => { role := .sequencer, regs := 0, rings := 0, matrix := true }

/-- An instruction of a sequencer: illegal instruction first, then its own meaning. -/
def issueSeq (i : Instr) (c : SCtx) (body : SCtx → State) : State :=
  match i.form with
  | none => c.s
  | some (fm, f) =>
    let k := c.issueCtx
    let (bad, f) := match c.seq.repNow with
      | none => (illegal k fm f, f)
      | some r => (lowestIll (repReasons k fm f r (seqRepeatable fm f)), (stepFields r f r.idx).1)
    match bad with
    | some r => c.trap r.code.toNat
    | none => body { c with f := f }

/-- A program instruction: issued by the group or the sequencer that `cur` names; without one there is no instruction. -/
def issue (i : Instr) (s : State) (onGroup : GCtx → State) (onSeq : SCtx → State) : Host.Outcome State Fault Refusal :=
  match s.gctx? with
  | some g => .next (issueGroup i g onGroup)
  | none =>
    match s.sctx? with
    | some c => .next (issueSeq i c onSeq)
    | none => .fault .noIssuer

/-- A program instruction that only groups may issue: a sequencer that meets one has trapped with ILLROLE before its meaning (R115). -/
def issueG (i : Instr) (s : State) (onGroup : GCtx → State) : Host.Outcome State Fault Refusal := issue i s onGroup (fun c => c.s)

/-- A program instruction that only sequencers may issue (R115). -/
def issueS (i : Instr) (s : State) (onSeq : SCtx → State) : Host.Outcome State Fault Refusal := issue i s (fun g => g.s) onSeq

end Sys2Proof.Machine
end

