-- ==== Sys2Proof/Machine/Scalar.lean ====
section
/-! DEFINITION. The scalar instructions (R136 to R143) and the addressing of a buffer record (R36). -/
namespace Sys2Proof.Machine

/-! ### Buffer records (R35, R36) -/

/-- The fields of a buffer record (R35). -/
structure BufRec where
  base : Nat
  extent : Nat
  stride : Nat
  esize : Nat
  swz : Nat
  cache : Nat
  tb : Bool
  wr : Bool
  deriving DecidableEq, Repr

/-- The fields of 256 bits (R35). -/
def BufRec.of (b : BitVec 256) : BufRec :=
  let x := b.toNat
  { base := bitsOf x 63 0, extent := bitsOf x 103 64, stride := bitsOf x 127 104, esize := bitsOf x 131 128, swz := bitsOf x 135 132,
    cache := bitsOf x 139 136, tb := x.testBit 140, wr := x.testBit 141 }

/-- Bytes of an element. -/
def BufRec.bytes (r : BufRec) : Nat := 2 ^ r.esize

/-- Bytes between elements. -/
def BufRec.step (r : BufRec) : Nat := if r.stride = 0 then r.bytes else r.stride

/-- A swizzled offset: bits [6:4] exchanged with bits [8+k:6+k] (R36). -/
def swizzle (k off : Nat) : Nat := if k = 0 then off else off ^^^ (bitsOf off (8 + k) (6 + k) * 16)

/-- The exact offset of a byte of an element and the address it gives, or bounds poison (R36). -/
def BufRec.addr (r : BufRec) (index : Nat) (o : Int) (n : Nat) : Except PoisonKind (Nat × Nat) :=
  let off : Int := (index * r.step : Nat) + o
  if o < 0 ∨ (r.extent : Int) < off + n then .error .bounds
  else let u := off.toNat; .ok (u, (r.base + swizzle r.swz u) % 2 ^ 64)

/-! ### Reading sources and writing D -/

/-- s(D) written and the instruction over (R136). Under a tag the value bits are those computed from the bits of the sources (DESIGN CHOICE, log 10). -/
def GCtx.putS (g : GCtx) (x : Nat) (p : Option PoisonKind) : State :=
  g.done id (fun r => r.setS (opNum g.f.d) { val := BitVec.ofNat 64 x, poison := p })

/-- A scalar instruction of one, two or three sources: its result, with the highest-ranked poison of its sources (R137). -/
def GCtx.scalar1 (g : GCtx) (h : Nat → Nat) : State :=
  let a := g.once g.f.a
  g.putS (h a.1) a.2

def GCtx.scalar2 (g : GCtx) (h : Nat → Nat → Nat) : State :=
  let a := g.once g.f.a
  let b := g.once g.f.b
  g.putS (h a.1 b.1) (worst a.2 b.2)

def GCtx.scalar3 (g : GCtx) (h : Nat → Nat → Nat → Nat) : State :=
  let a := g.once g.f.a
  let b := g.once g.f.b
  let c := g.once g.f.c
  g.putS (h a.1 b.1 c.1) (worst a.2 (worst b.2 c.2))

/-- S(x), signed (R136). -/
def s64 (x : Nat) : Int := sextNat 64 x

/-! ### Arithmetic (R139) -/

/-- A sum or difference: wrap, `.sat` or `.usat` by MOD[1:0]. -/
def addMode (mod : Nat) (h : Int → Int → Int) (a b : Nat) : Nat :=
  if mod = 1 then wrapNat 64 (satS (h (s64 a) (s64 b)) 64)
  else if mod = 2 then wrapNat 64 (satU (h a b) 64)
  else wrapNat 64 (h a b)

/-- Bits 127 to 64 of a product. -/
def mulHigh (u : Bool) (a b : Nat) : Nat := if u then a * b / 2 ^ 64 else wrapNat 64 (s64 a * s64 b / 2 ^ 64)

/-- Quotient of R140 at a width of `n` bits. -/
def divN (n : Nat) (u : Bool) (a b : Nat) : Nat :=
  if b = 0 then 2 ^ n - 1 else if u then a / b else wrapNat n (Int.tdiv (sextNat n a) (sextNat n b))

/-- Remainder of R140 at a width of `n` bits. -/
def remN (n : Nat) (u : Bool) (a b : Nat) : Nat :=
  if b = 0 then a else if u then a % b else wrapNat n (Int.tmod (sextNat n a) (sextNat n b))

/-- a is less than b, as signed or unsigned 64-bit values. -/
def less64 (u : Bool) (a b : Nat) : Bool := if u then decide (a < b) else decide (s64 a < s64 b)

/-- Number of 1 bits in the low `n` bits. -/
def popN (n x : Nat) : Nat := ((List.range n).filter (fun i => x.testBit i)).length

/-- Leading zero bits of an `n`-bit value. -/
def clzN (n x : Nat) : Nat := if x = 0 then n else n - 1 - Nat.log2 x

/-- Arithmetic right shift of an `n`-bit value. -/
def sraN (n a k : Nat) : Nat := wrapNat n (sextNat n a / 2 ^ k)

/-- Rotation left of an `n`-bit value by `k` below `n`. -/
def rotlN (n a k : Nat) : Nat := (a * 2 ^ k) % 2 ^ n + a / 2 ^ (n - k) % 2 ^ k

/-- The field extract of R141, at a width of `n` bits. -/
def bfeN (n : Nat) (signed : Bool) (a pos len : Nat) : Nat :=
  if n ≤ pos ∨ len = 0 then 0
  else
    let w := min len (n - pos)
    let x := a / 2 ^ pos % 2 ^ w
    if signed then wrapNat n (sextNat w x) else x

/-- The field insert of R141, at a width of `n` bits. -/
def bfiN (n d a pos len : Nat) : Nat :=
  if n ≤ pos ∨ len = 0 then d
  else
    let w := min len (n - pos)
    d - d / 2 ^ pos % 2 ^ w * 2 ^ pos + a % 2 ^ w * 2 ^ pos

/-- The relations of R142, with `lt` deciding order. -/
def relOf (cc : Nat) (lt : Nat → Nat → Bool) (a b : Nat) : Bool :=
  match cc with
  | 0 => a == b
  | 1 => a != b
  | 2 => lt a b
  | 3 => !lt b a
  | 4 => lt b a
  | _ => !lt a b

/-! ### The instructions (R139) -/

def execSadd (f : Fields) (s : State) : Host.Outcome State Fault Refusal :=
  issueG (.sadd f) s (fun g => g.scalar2 (addMode g.f.mod.toNat (· + ·)))

def execSsub (f : Fields) (s : State) : Host.Outcome State Fault Refusal :=
  issueG (.ssub f) s (fun g => g.scalar2 (addMode g.f.mod.toNat (· - ·)))

def execSmul (f : Fields) (s : State) : Host.Outcome State Fault Refusal :=
  issueG (.smul f) s (fun g => g.scalar2 (fun a b => a * b % 2 ^ 64))

def execSmulhi (f : Fields) (s : State) : Host.Outcome State Fault Refusal :=
  issueG (.smulhi f) s (fun g => g.scalar2 (mulHigh (g.f.m 0)))

def execSdiv (f : Fields) (s : State) : Host.Outcome State Fault Refusal :=
  issueG (.sdiv f) s (fun g => g.scalar2 (divN 64 (g.f.m 0)))

def execSrem (f : Fields) (s : State) : Host.Outcome State Fault Refusal :=
  issueG (.srem f) s (fun g => g.scalar2 (remN 64 (g.f.m 0)))

def execSmin (f : Fields) (s : State) : Host.Outcome State Fault Refusal :=
  issueG (.smin f) s (fun g => g.scalar2 (fun a b => if less64 (g.f.m 0) b a then b else a))

def execSmax (f : Fields) (s : State) : Host.Outcome State Fault Refusal :=
  issueG (.smax f) s (fun g => g.scalar2 (fun a b => if less64 (g.f.m 0) a b then b else a))

def execSabs (f : Fields) (s : State) : Host.Outcome State Fault Refusal :=
  issueG (.sabs f) s (fun g => g.scalar1 (fun a => if g.f.m 0 then min (s64 a).natAbs (2 ^ 63 - 1) else (s64 a).natAbs))

def execSand (f : Fields) (s : State) : Host.Outcome State Fault Refusal :=
  issueG (.sand f) s (fun g => g.scalar2 (fun a b => a &&& b))

def execSor (f : Fields) (s : State) : Host.Outcome State Fault Refusal :=
  issueG (.sor f) s (fun g => g.scalar2 (fun a b => a ||| b))

def execSxor (f : Fields) (s : State) : Host.Outcome State Fault Refusal :=
  issueG (.sxor f) s (fun g => g.scalar2 (fun a b => a ^^^ b))

def execSnot (f : Fields) (s : State) : Host.Outcome State Fault Refusal :=
  issueG (.snot f) s (fun g => g.scalar1 (fun a => 2 ^ 64 - 1 - a))

def execSshl (f : Fields) (s : State) : Host.Outcome State Fault Refusal :=
  issueG (.sshl f) s (fun g => g.scalar2 (fun a b => a * 2 ^ (b % 64) % 2 ^ 64))

def execSshr (f : Fields) (s : State) : Host.Outcome State Fault Refusal :=
  issueG (.sshr f) s (fun g => g.scalar2 (fun a b => a / 2 ^ (b % 64)))

def execSsra (f : Fields) (s : State) : Host.Outcome State Fault Refusal :=
  issueG (.ssra f) s (fun g => g.scalar2 (fun a b => sraN 64 a (b % 64)))

def execSrotl (f : Fields) (s : State) : Host.Outcome State Fault Refusal :=
  issueG (.srotl f) s (fun g => g.scalar2 (fun a b => rotlN 64 a (b % 64)))

def execSpopc (f : Fields) (s : State) : Host.Outcome State Fault Refusal :=
  issueG (.spopc f) s (fun g => g.scalar1 (popN 64))

def execSclz (f : Fields) (s : State) : Host.Outcome State Fault Refusal :=
  issueG (.sclz f) s (fun g => g.scalar1 (clzN 64))

def execSbfe (f : Fields) (s : State) : Host.Outcome State Fault Refusal :=
  issueG (.sbfe f) s (fun g => g.scalar3 (bfeN 64 (g.f.m 0)))

/-- The old value of D is a source too (R137, R139). -/
def execSbfi (f : Fields) (s : State) : Host.Outcome State Fault Refusal :=
  issueG (.sbfi f) s (fun g =>
    let a := g.once g.f.a
    let b := g.once g.f.b
    let c := g.once g.f.c
    let d := g.once g.f.d
    g.putS (bfiN 64 d.1 a.1 b.1 c.1) (worst (worst a.2 d.2) (worst b.2 c.2)))

/-- A comparison into p(D) of every SUB thread; a poisoned source is consumed (R137, R142). -/
def execScmp (f : Fields) (s : State) : Host.Outcome State Fault Refusal :=
  issueG (.scmp f) s (fun g =>
    let a := g.once g.f.a
    let b := g.once g.f.b
    match worst a.2 b.2 with
    | some k => g.consumeTrap k g.lanes
    | none => g.done (fun t => t.setPred (opPreg g.f.d) (relOf (g.f.mod.toNat % 8) (less64 (g.f.m 3)) a.1 b.1)))

/-- Poison comes from c and from the operand selected only (R137). The bits of c decide which that is, under a tag as well (DESIGN CHOICE, log 10). -/
def execSsel (f : Fields) (s : State) : Host.Outcome State Fault Refusal :=
  issueG (.ssel f) s (fun g =>
    let c := g.once g.f.c
    let x := if c.1 = 0 then g.once g.f.b else g.once g.f.a
    g.putS x.1 (worst c.2 x.2))

def execSmov (f : Fields) (s : State) : Host.Outcome State Fault Refusal :=
  issueG (.smov f) s (fun g => g.scalar1 id)

/-- The high half of D replaced; its poison stays (R137). -/
def execSmovhi (f : Fields) (s : State) : Host.Outcome State Fault Refusal :=
  issueG (.smovhi f) s (fun g =>
    let d := g.once g.f.d
    g.putS (d.1 % 2 ^ 32 + 2 ^ 32 * g.f.imm.toNat) d.2)

/-- The v-register of the SUB thread at one virtual lane, or 0 (R143). The lane's own poison reaches D too (R137); under it the value bits name the thread
(DESIGN CHOICE, log 10). -/
def execSget (f : Fields) (s : State) : Host.Outcome State Fault Refusal :=
  issueG (.sget f) s (fun g =>
    let k := g.once g.f.b
    let x := match g.lanes.find? (fun t => g.virt t == k.1) with
      | some t => if g.f.m 0 then t.vpair (opNum g.f.a) else ((t.vreg (opNum g.f.a)).val.toNat, (t.vreg (opNum g.f.a)).poison)
      | none => (0, none)
    g.receives [x] (fun push => g.done id (fun r => push (r.setS (opNum g.f.d) { val := BitVec.ofNat 64 x.1, poison := worst k.2 x.2 }))))

/-- BASE + offset of an element, without the checks of WR and pages (R143). The record's own poison reaches D too; of several kinds met, the null record's and a
negative offset's bounds among them, the highest-ranked (R355). -/
def execSaddr (f : Fields) (s : State) : Host.Outcome State Fault Refusal :=
  issueG (.saddr f) s (fun g =>
    let r := g.record g.f.a
    let i := g.once g.f.b
    let o := g.once g.f.c
    let b := BufRec.of r.bits
    let outside : Option PoisonKind := if (r.poison.isNone && b.extent == 0) || (o.2.isNone && decide (s64 o.1 < 0)) then some .bounds else none
    let p := worst (worst r.poison (worst i.2 o.2)) outside
    if p.isSome then g.putS 0 p
    else match b.addr i.1 (s64 o.1) b.bytes with
    | .ok (_, a) => g.putS a none
    | .error k => g.putS 0 (some k))

/-- The lowest virtual lane whose predicate, negated by N, is true; 32 without one (R143). -/
def execSfirst (f : Fields) (s : State) : Host.Outcome State Fault Refusal :=
  issueG (.sfirst f) s (fun g =>
    match g.lanes.find? (fun t => t.pred (opPreg g.f.a) != g.f.m 0) with
    | some t => g.putS (g.virt t) none
    | none => g.putS 32 none)

end Sys2Proof.Machine
end

