-- ==== Sys2Proof/Machine/Records.lean ====
section
/-! DEFINITION. Validity of buffer and shape records (R37 to R40) and the addresses a shape record gives (R38, R36). -/
namespace Sys2Proof.Machine

/-- The lowest code of the conditions that are broken (R40). -/
def firstReason : List (Bool × Nat) → Nat
  | [] => 0
  | (bad, code) :: rest => if bad then code else firstReason rest

/-- The swizzle alignment 2^(9+k) (R37, R39). -/
def swzOk (k x : Nat) : Bool := k == 0 || decide (x % 2 ^ (9 + k) = 0)

/-- The R40 reason of a buffer record; 0 when it is valid (R35, R37). -/
def bufReason (b : BitVec 256) : Nat :=
  let r := BufRec.of b
  firstReason
    [ (decide (6 < r.esize) || decide (3 < r.swz) || decide (3 < r.cache) || decide (b.toNat / 2 ^ 142 ≠ 0), 1),
      (r.tb && r.esize != 6, 2),
      (r.extent == 0, 3),
      (decide (r.base % r.bytes ≠ 0) || decide (r.stride % r.bytes ≠ 0) || (r.tb && (decide (r.base % 64 ≠ 0) || decide (r.stride % 64 ≠ 0))) ||
        !swzOk r.swz r.base || !swzOk r.swz r.extent, 4),
      (r.stride != 0 && decide (r.stride < r.bytes), 5),
      (decide (2 ^ 57 ≤ r.base % 2 ^ 57 + r.extent - 1), 6) ]

/-- The fields of a shape record (R38). -/
structure ShapeRec where
  base : Nat
  esize : Nat
  tb : Bool
  rank : Nat
  swz : Nat
  cache : Nat
  wr : Bool
  ex : List Nat
  sd : List Nat
  zeros : Bool
  deriving DecidableEq, Repr

/-- The fields of 512 bits. -/
def ShapeRec.of (b : BitVec 512) : ShapeRec :=
  let x := b.toNat
  { base := bitsOf x 63 0, esize := bitsOf x 67 64, tb := x.testBit 68, rank := bitsOf x 71 69, swz := bitsOf x 75 72, cache := bitsOf x 79 76, wr := x.testBit 80
    ex := [bitsOf x 127 96, bitsOf x 159 128, bitsOf x 191 160, bitsOf x 223 192, bitsOf x 255 224]
    sd := [0, bitsOf x 295 256, bitsOf x 335 296, bitsOf x 375 336, bitsOf x 415 376]
    zeros := bitsOf x 95 81 == 0 && bitsOf x 511 416 == 0 }

def ShapeRec.bytes (r : ShapeRec) : Nat := 2 ^ r.esize

/-- EXd and SDd; an unused dimension has one element (R38). -/
def ShapeRec.exOf (r : ShapeRec) (d : Nat) : Nat := if d < r.rank then r.ex.getD d 0 else 1
def ShapeRec.sdOf (r : ShapeRec) (d : Nat) : Nat := if d = 0 then r.bytes else if d < r.rank then r.sd.getD d 0 else 0

/-- Elements of the tensor, and its bytes. -/
def ShapeRec.count (r : ShapeRec) : Nat := r.exOf 0 * r.exOf 1 * r.exOf 2 * r.exOf 3 * r.exOf 4
def ShapeRec.total (r : ShapeRec) : Nat := r.count * r.bytes

/-- The R40 reason of a shape record (R38, R39). -/
def shapeReason (b : BitVec 512) : Nat :=
  let r := ShapeRec.of b
  let dims := (List.range 5).filter (fun d => decide (d < r.rank))
  let unused := (List.range 5).filter (fun d => decide (r.rank ≤ d))
  let last := r.base % 2 ^ 57 + sumOf ((dims.filter (fun d => d != 0)).map (fun d => (r.exOf d - 1) * r.sdOf d)) + r.exOf 0 * r.bytes - 1
  firstReason
    [ (!r.zeros || decide (6 < r.esize) || decide (3 < r.swz) || decide (3 < r.cache) || r.rank == 0 || decide (5 < r.rank) ||
        unused.any (fun d => decide (r.ex.getD d 0 ≠ 0) || decide (r.sd.getD d 0 ≠ 0)), 1),
      (r.tb && r.esize != 6, 2),
      (dims.any (fun d => r.exOf d == 0), 3),
      (decide (r.base % r.bytes ≠ 0) || dims.any (fun d => decide (r.sdOf d % r.bytes ≠ 0)) ||
        (r.tb && (decide (r.base % 64 ≠ 0) || dims.any (fun d => d != 0 && decide (r.sdOf d % 64 ≠ 0)))) || !swzOk r.swz r.base ||
        (decide (1 < r.rank) && !swzOk r.swz (r.sdOf 1)), 4),
      (dims.any (fun d => d != 0 && decide (r.sdOf d < r.sdOf (d - 1) * r.exOf (d - 1))), 5),
      (decide (2 ^ 57 ≤ last), 6) ]

/-- The coordinates of element `k` in dense order, dimension 0 fastest (R261). -/
def ShapeRec.coords (r : ShapeRec) (k : Nat) : List Nat :=
  [k % r.exOf 0, k / r.exOf 0 % r.exOf 1, k / (r.exOf 0 * r.exOf 1) % r.exOf 2, k / (r.exOf 0 * r.exOf 1 * r.exOf 2) % r.exOf 3,
   k / (r.exOf 0 * r.exOf 1 * r.exOf 2 * r.exOf 3)]

/-- The global address of byte `j` of element `k` (R36, R38). The swizzle is that of a buffer record, applied to the offset of each byte: R36 gives it for the offset
of an access, and an element of 32 or 64 bytes spans several of its 16-byte units (DESIGN CHOICE, log 51). -/
def ShapeRec.byteAddr (r : ShapeRec) (k j : Nat) : Nat :=
  let off := sumOf ((r.coords k).mapIdx (fun d c => c * r.sdOf d)) + j
  r.base + swizzle r.swz off

end Sys2Proof.Machine
end

