-- ==== Sys2Proof/Machine/Barrier.lean ====
section
/-! DEFINITION. Numbered barriers and stage rings (R201 to R203), barrier objects (R270, R271), scratchpad presence (R236) and
the completion of handles with their signals (R268, R269). -/
namespace Sys2Proof.Machine

/-! ### Numbered barriers and rings -/

/-- A barrier at team start (R201). -/
def Barrier.start (exp : Nat) : Barrier := { phase := false, cnt := 0, exp := exp, newExp := none, keyNow := 0, keyLast := 0 }

/-- One arrival at a barrier (R201). -/
def Barrier.arrive (b : Barrier) : Barrier :=
  if b.cnt + 1 = b.exp then
    { phase := !b.phase, cnt := 0, exp := b.newExp.getD b.exp, newExp := none, keyNow := 0, keyLast := max b.keyLast b.keyNow }
  else { b with cnt := b.cnt + 1 }

/-- One arrival at a team's barrier. -/
def Team.arrive (t : Team) (n : Nat) : Team := { t with barriers := updAt t.barriers n Barrier.arrive }

/-- One arrival by a party whose last write of `cairnkey` is number `wrote` (R173, R209). -/
def Team.arriveBy (t : Team) (n wrote : Nat) : Team :=
  { t with barriers := updAt t.barriers n (fun b => ({ b with keyNow := max b.keyNow wrote } : Barrier).arrive) }

/-- `cairnkey` written: a further write in the team's log, whose number the writer notes (R173, R209). -/
def Team.writeKey (t : Team) (key : DWord) : Team := { t with cairnkey := key, keyLog := t.keyLog ++ [key] }

/-- The writing group sees its own write from then on (R173). -/
def Group.wroteKey (g : Group) (n : Nat) : Group := { g with keyFrom := n, wrote := n }

/-- A group that has passed a phase of a barrier sees the newest write whose writer reached that phase after it, or a later one (R173, R209). -/
def Group.passed (g : Group) (b : Barrier) : Group := { g with keyFrom := max g.keyFrom b.keyLast }

/-- EXP written: at once while CNT is 0, otherwise when the phase completes (R205). -/
def Team.setExp (t : Team) (n e : Nat) : Team :=
  { t with barriers := updAt t.barriers n (fun b => if b.cnt = 0 then { b with exp := e, newExp := none } else { b with newExp := some e }) }

def Team.phase (t : Team) (n : Nat) : Bool := match t.barriers[n]? with | some b => b.phase | none => false

/-- A ring at team start (R203). -/
def Ring.start : Ring := { depth := 16, np := 1, nc := 1, stages := List.replicate 16 (false, 0) }

/-- PH of the stage a value names (R203). -/
def Ring.full (r : Ring) (x : Nat) : Bool := (r.stages.getD (x % r.depth) (false, 0)).1

/-- A signal at a ring: the ring after it, and whether it was out of turn (R203). -/
def Ring.signal (r : Ring) (cons : Bool) (x : Nat) : Ring × Bool :=
  let k := x % r.depth
  let (ph, arr) := r.stages.getD k (false, 0)
  if ph != cons then (r, true)
  else
    let need := if cons then r.nc else r.np
    ({ r with stages := r.stages.set k (if arr + 1 = need then (!ph, 0) else (ph, arr + 1)) }, false)

def Team.ringFull (t : Team) (r x : Nat) : Bool := match t.rings[r]? with | some y => y.full x | none => false

/-- A ring signal to a team; out of turn it sets `ringerr` (R203). -/
def Team.ringSignal (t : Team) (cons : Bool) (r x : Nat) : Team :=
  match t.rings[r]? with
  | none => t
  | some y =>
    let (y', bad) := y.signal cons x
    { t with rings := t.rings.set r y', ringerr := if bad then t.ringerr ||| BitVec.ofNat 8 (2 ^ r) else t.ringerr }

/-- A signal of `hpass` (R269). -/
def Team.give (t : Team) (g : Signal) : Team :=
  match g with
  | .barrier n => t.arrive n
  | .ring cons r x => t.ringSignal cons r x

/-! ### Barrier objects (R270, R271) -/

/-- A barrier object's fields. -/
structure BarObj where
  pend : Int
  phase : Bool
  exp : Nat
  cnt : Nat
  err : Bool
  ovf : Bool
  deriving DecidableEq, Repr

/-- The object at a scratchpad address (R270). Reserved bits that a plain store left are not looked at, and the next update writes them as 0 (DESIGN CHOICE,
log 65). -/
def Team.barObj (t : Team) (a : Nat) : BarObj :=
  let x := t.spad.nat a 16
  { pend := sextNat 56 x, phase := x / 2 ^ 56 % 2 == 1, exp := bitsOf x 79 64, cnt := bitsOf x 95 80, err := x / 2 ^ 96 % 2 == 1
    ovf := x / 2 ^ 97 % 2 == 1 }

/-- The object's 128 bits. -/
def BarObj.bits (b : BarObj) : Nat :=
  wrapNat 56 b.pend + (if b.phase then 2 ^ 56 else 0) + 2 ^ 64 * (b.exp % 2 ^ 16) + 2 ^ 80 * (b.cnt % 2 ^ 16) +
    (if b.err then 2 ^ 96 else 0) + (if b.ovf then 2 ^ 97 else 0)

def Team.putBarObj (t : Team) (a : Nat) (b : BarObj) : Team := { t with spad := t.spad.writeBytes a (bytesOfNat 16 b.bits) }

/-- `barinit`: an object is made of an address (R270, R272). -/
def Team.startObj (t : Team) (a exp : Nat) : Team :=
  { t.putBarObj a { pend := 0, phase := false, exp := exp, cnt := 0, err := false, ovf := false } with
    objs := if t.objs.contains a then t.objs else t.objs ++ [a] }

/-- PEND moved by a signed amount, saturating with OVF (R271). -/
def BarObj.add (b : BarObj) (x : Int) : BarObj :=
  let y := b.pend + x
  let z := satS y 56
  { b with pend := z, ovf := b.ovf || decide (y ≠ z) }

/-- `barexp`: its value is saturated to the width of PEND before it is added (R272). Only the saturation of PEND itself sets OVF (R270). -/
def BarObj.expect (b : BarObj) (x : Int) : BarObj := b.add (satS x 56)

/-- The test after every update (R271). -/
def BarObj.settle (b : BarObj) : BarObj := if b.exp ≤ b.cnt ∧ b.pend = 0 then { b with phase := !b.phase, cnt := 0 } else b

/-- One arrival. -/
def BarObj.arrive (b : BarObj) : BarObj := { b with cnt := (b.cnt + 1) % 2 ^ 16 }

/-- One update of the object at an address, as one unit (R271). -/
def Team.barUpdate (t : Team) (a : Nat) (h : BarObj → BarObj) : Team := t.putBarObj a (h (t.barObj a)).settle

/-! ### Presence (R236) -/

/-- The presence bit of a scratchpad line: its pending count is 0. -/
def Team.present (t : Team) (line : Nat) : Bool := t.absent.get line 0 == 0

/-- Where a team scratchpad of `nb` banks keeps an address: the team bank, the line in it, and the byte of the line (R98). -/
def spadPlace (nb a : Nat) : Nat × Nat × Nat := (a / 128 % nb, a / 128 / nb, a % 128)

/-- The lines that `n` bytes at an address touch. -/
def linesOf (a n : Nat) : List Nat :=
  if n = 0 then [] else (List.range ((a + n - 1) / 128 - a / 128 + 1)).map (fun i => a / 128 + i)

/-- One more, or fewer, pending write of a line. -/
def Team.addPending (t : Team) (line k : Nat) : Team := { t with absent := t.absent.set line (t.absent.get line 0 + k) }
def Team.subPending (t : Team) (now line k : Nat) : Team :=
  let c := t.absent.get line 0 - k
  if c = 0 then { t with absent := t.absent.del line, arrived := t.arrived.set line now } else { t with absent := t.absent.set line c }

/-! ### Handles -/

/-- The group that holds a command's handle: by its key in its team. -/
def Team.byKey (t : Team) (key : Nat) : Option Group := t.group? (key / 16) (key % 16)

/-- A handle completes: its state is final and its attached signal is given (R268, R269). -/
def Team.completeHandle (t : Team) (key n cmd : Nat) (st : HState) (reason pmask mmask : Nat) : Team :=
  match t.byKey key with
  | none => t
  | some g =>
    let h := g.hreg n
    if h.cmd ≠ some cmd then t
    else
      let t := t.setGroup (g.setH n { st := st, reason := BitVec.ofNat 8 reason, pmask := BitVec.ofNat 16 pmask, mmask := BitVec.ofNat 16 mmask,
                                      cmd := none, signal := none })
      match h.signal with
      | some x => t.give x
      | none => t

/-- The status word of a handle (R267). -/
def HState.code : HState → Nat
  | .null => 0 | .pending => 1 | .done => 2 | .error => 3 | .cancelled => 4 | .part => 5 | .poisoned => 6

def Handle.word (h : Handle) : Nat := h.st.code + 2 ^ 8 * h.reason.toNat + 2 ^ 16 * h.pmask.toNat + 2 ^ 32 * h.mmask.toNat

/-! ### Starting state (R97, R186) -/

/-- A thread at its start (R97). -/
def Thread.start (block lane regs : Nat) (porter : Bool) (pc : Pc) (x y z : Nat) : Thread :=
  { block := block, lane := lane, u := 32 * block + lane, porter := porter, st := .sub, pc := pc, v := List.replicate regs VReg.zero, p := 0x80, fstat := 0,
    tidX := BitVec.ofNat 32 x, tidY := BitVec.ofNat 32 y, tidZ := BitVec.ofNat 32 z, entry := none, lbuf := [] }

/-- A group with nothing in progress (R97). -/
def Group.start (place slot : Nat) (porter : Bool) (remap : List (Option Nat)) (regs : GroupRegs) : Group :=
  { place := place, slot := slot, porter := porter, remap := remap, s := regs.s, b := regs.b, h := List.replicate 16 Handle.null, lp := regs.lp,
    runLen := 0, reps := [], parked := none, midRun := false, brk := none, trap := none, storeQ := [],
    armed := none, bound := none, arrived := false, heldAt := none, valueQueue := [], polSeen := 0, lbCycles := 0, lbAt := none, sOld := none,
    keyFrom := regs.keyFrom, wrote := regs.wrote }

/-- A sequencer at its start (R186). -/
def Seq.start (slot : Nat) (pc : Pc) (args : List DWord) : Seq :=
  { slot := slot, pc := pc, s := 0 :: args ++ List.replicate 59 0, lp := 0, exited := false, trap := none, rep := none,
    pfx := none, job := none, lvlWait := none, wrote := 0, accReady := [0, 0, 0, 0], drains := [] }

end Sys2Proof.Machine
end

