-- ==== Sys2Proof/Machine/Translate.lean ====
section
/-! DEFINITION. Address spaces, page-table walks and cached translations (R215, R216, R221 to R228, R275, R325). -/
namespace Sys2Proof.Machine

/-- What an access wants of a page (R223); `any` leaves the permission to a later check (R276). -/
inductive Want where
  | load | store | fetch | any
  deriving DecidableEq, Repr

/-- A translated line: physical address, memory type, attributes, the leaf's own address and value, and where the bytes live. -/
structure Line where
  pa : Nat
  mt : Nat
  tb : Bool
  cc : Bool
  leaf : Nat
  pte : Nat
  dt : Bool
  space : Space
  pageBase : Nat
  pageSize : Nat
  deriving DecidableEq, Repr

/-- A feature bit negotiated by a VF (R72). -/
def Vf.feature (v : Vf) (n : Nat) : Bool := v.tr.featuresOk && v.tr.features.getLsbD n

/-- A VF may use host memory: CXLCACHE negotiated and its port trained as CXL (R217). -/
def State.hostUsable (s : State) (v : Nat) : Bool :=
  let f := s.vf v
  f.feature 5 && (match f.enabled with | some p => (s.pf p).cxl | none => false)

/-- A 64-byte table block read as eight-byte entries. -/
def State.tableEntry (s : State) (table idx : Nat) : Nat := s.mem.nat (table + 8 * idx) 8

/-- Bit `n` of an entry. -/
def pteBit (e n : Nat) : Bool := e / 2 ^ n % 2 == 1
/-- PA of an entry. -/
def ptePa (e : Nat) : Nat := bitsOf e 51 12 * 4096

/-- A walk's end: uncorrectable, V clear, protection, or a leaf with its level, address and value. -/
inductive WalkEnd where
  | poison (k : PoisonKind)
  | leaf (level addr pte : Nat)
  deriving DecidableEq, Repr

/-- Reserved bits in an entry that points to a table (R222). -/
def tableReserved (level e : Nat) : Bool :=
  [1, 2, 3, 5, 6, 7, 8, 9, 10, 11].any (pteBit e) || decide (bitsOf e 63 52 ≠ 0) || (decide (4 ≤ level) && pteBit e 4)

/-- A walk from a table at a level, `bad` when an entry above already had a reserved bit set (R221 to R223): V = 0 below it is
still a page fault, as the first row that applies decides. -/
def walkFrom (s : State) (va : Nat) : Nat → Nat → Bool → WalkEnd
  | 0, _, _ => .poison .protection
  | level + 1, table, bad =>
    if !isDevice table then .poison .protection
    else
      let idx := va / 2 ^ (12 + 9 * level) % 512
      let addr := table + 8 * idx
      let e := s.tableEntry table idx
      if s.badAt addr 8 then .poison .uncorrectable
      else if !pteBit e 0 then .poison .pageFault
      else if level = 0 ∧ s.badAt (addr / 128 * 128) 128 = true then .poison .uncorrectable
      else if level = 0 ∨ ((level = 1 ∨ level = 2) ∧ pteBit e 4) then
        if bad || !pteBit e 4 then .poison .protection else .leaf (level + 1) addr e
      else walkFrom s va level (ptePa e) (bad || tableReserved (level + 1) e)

/-- Page bytes of a leaf's level (R221). -/
def pageSize (level : Nat) : Nat := 2 ^ (12 + 9 * (level - 1))

/-- The bits of a level-1 entry that the sixteen entries of a 64 KiB page share (R221). -/
def c64Key (e : Nat) : Nat := e - bitsOf e 15 12 * 4096 - (if pteBit e 8 then 256 else 0) - (if pteBit e 9 then 512 else 0)

/-- The sixteen entries of a 64 KiB page obey R221. -/
def State.c64Ok (s : State) (addr : Nat) : Bool :=
  let base := addr / 128 * 128
  let first := s.mem.nat base 8
  (List.range 16).all (fun i =>
    let e := s.mem.nat (base + 8 * i) 8
    pteBit e 0 && pteBit e 5 && c64Key e == c64Key first && bitsOf e 15 12 == i)

/-- Some entry of the aligned group of sixteen that a level-1 leaf lies in has C64 set, and the group breaks R221: every access to the group is refused. -/
def State.groupBroken (s : State) (addr : Nat) : Bool :=
  (List.range 16).any (fun i => pteBit (s.mem.nat (addr / 128 * 128 + 8 * i) 8) 5) && !s.c64Ok addr

/-- The protection conditions of a leaf whatever the access (R222, R223, R275, R325, R217). R72 lets a function that accepted HUTS use compute-capable pages and does not
say what an access through one gives another function: protection (DESIGN CHOICE, log 55). -/
def State.leafBad (s : State) (v level addr e : Nat) : Bool :=
  let pa := ptePa e
  let mt := bitsOf e 11 10
  decide (bitsOf e 63 52 ≠ 0) || decide (mt = 3) || (pteBit e 2 && pteBit e 3) || decide (pa % pageSize level ≠ 0) ||
    !implemented pa || (pteBit e 5 && decide (level ≠ 1)) || (decide (level = 1) && s.groupBroken addr) ||
    (pteBit e 7 && (decide (level ≠ 2) || !s.inCompute pa || decide (mt ≠ 0) || !(s.vf v).feature 3)) ||
    (isHost pa && (decide (mt ≠ 2) || !s.hostUsable v))

/-- A physical line that no translation of a VF reaches, whatever its tables say: the guest book (R87), the spill region (R374), and host memory that the
function cannot use now (R217). The spec says only that no translation maps the first two: an access through one takes protection (DEDUCED, log 54). -/
def State.lineBad (s : State) (v pa : Nat) : Bool :=
  (s.gbbase != 0 && decide (s.gbbase ≤ pa) && decide (pa < s.gbbase + 33 * 2 ^ 20)) ||
    (s.spillbase != 0 && decide (s.spillbase ≤ pa) && decide (pa < s.spillbase + 2 ^ 31)) || (isHost pa && !s.hostUsable v)

/-- The permission of a leaf for an access (R223). -/
def leafAllows (w : Want) (e : Nat) : Bool :=
  match w with
  | .load => pteBit e 1
  | .store => pteBit e 2
  | .fetch => pteBit e 3 && !pteBit e 6
  | .any => true

/-- A line from a leaf. -/
def lineOf (va level addr e : Nat) : Line :=
  let size := pageSize level
  { pa := ptePa e / size * size + va % size, mt := bitsOf e 11 10, tb := pteBit e 6, cc := pteBit e 7, leaf := addr, pte := e, dt := pteBit e 9
    space := .phys, pageBase := va / size * size, pageSize := size }

/-- The chiplet's shared TLB as a unit of `TlbEntry.unit`. -/
def chipUnit (core : Nat) : Nat := 256 + core / 32

/-- A cached translation of a core or of its chiplet (R225). -/
def State.tlbFind (s : State) (core v va : Nat) : Option TlbEntry :=
  let hit (u : Nat) (e : TlbEntry) : Bool := e.unit == u && e.ctx == v && e.base ≤ va && va < e.base + e.size
  match s.tlb.find? (hit core) with
  | some e => some e
  | none => s.tlb.find? (hit (chipUnit core))

/-- Entries of one unit kept within its capacity, oldest first out (R225). -/
def tlbTrim (unit cap : Nat) (l : List TlbEntry) : List TlbEntry :=
  if cap < (l.filter (fun e => e.unit == unit)).length then
    match l.find? (fun e => e.unit == unit) with
    | some e => l.erase e
    | none => l
  else l

/-- Bits of a table entry set from a port by an atomic OR at its home, which leaves no copy of its block on the module (R224, R322). -/
def State.orAt (s : State) (port addr mask : Nat) : State :=
  let block := addr / 64
  let s := ((s.recallAll block true).rouse block).exchange port (s.portOf (64 * block)) 1 1
  { s with mem := s.mem.orNat addr 8 mask }

/-- A block of a table read by a walker through its chiplet cache: one the cache does not hold is read at its home and stays in the cache (R225, R322). -/
def State.tableRead (s : State) (chiplet ctx block : Nat) : State :=
  match s.coh.l2Entry? chiplet block with
  | some e => s.allocate chiplet block e.ctx e.keep e.st
  | none =>
    let s := s.access chiplet false block
    let d := s.coh.dirEntry block
    let shared := decide (d.present ≠ 0) || decide (d.host0 ≠ .i) || decide (d.host1 ≠ .i)
    let s := { s with coh := s.coh.setDir block (if shared then d.add chiplet else { d.add chiplet with owner := some chiplet }) }
    s.allocate chiplet block ctx 1 (if shared then .s else .e)

/-- A leaf cached by the core and its chiplet, its AC bit set in the table (R224, R225). -/
def State.cacheLeaf (s : State) (core v va level addr e : Nat) : State :=
  let size := pageSize level
  let ent (u : Nat) : TlbEntry := { unit := u, ctx := v, base := va / size * size, size := size, pte := BitVec.ofNat 64 (e ||| 256), leaf := addr }
  let old := s.tlb.filter (fun x => !((x.unit == core || x.unit == chipUnit core) && x.ctx == v && x.base == va / size * size))
  let s := if pteBit e 8 then s else s.orAt (core / 32) addr 256
  { s with tlb := tlbTrim (chipUnit core) 8192 (tlbTrim core 256 (old ++ [ent core, ent (chipUnit core)])) }

/-- A walk gives its walker back. -/
def State.walkOver (s : State) (core v va : Nat) : State :=
  { s with walkWait := s.walkWait.filter (fun x => !(x.1 == core && x.2.1 == v && x.2.2.1 == va / 4096)) }

/-- The entries a walk reads, from a table at a level on, with whether each is a leaf. A level-1 leaf is read with the other block of its aligned group of sixteen,
which decides whether the group breaks R221 (log 64). -/
def walkPath (s : State) (va : Nat) : Nat → Nat → List (Nat × Bool)
  | 0, _ => []
  | level + 1, table =>
    if !isDevice table then []
    else
      let addr := table + 8 * (va / 2 ^ (12 + 9 * level) % 512)
      let e := s.mem.nat addr 8
      let leaf := pteBit e 0 && (level == 0 || (pteBit e 4 && (level == 1 || level == 2)))
      (addr, leaf) :: (if leaf then (if level = 0 then [(addr / 128 * 128 + (64 - addr % 128 / 64 * 64), false)] else [])
        else if !pteBit e 0 then [] else walkPath s va level (ptePa e))

/-- A walk of a context's tree for a virtual address, its outcome for the access wanted, and what it caches (R221 to R225). -/
def State.walk (s : State) (core v va : Nat) (w : Want) : Except PoisonKind Line × State :=
  let s := s.walkOver core v va
  let s := (distinct ((walkPath s va 5 (s.ctx v).root).map (·.1 / 64))).foldl (fun (s : State) b => s.tableRead (core / 32) v b) s
  match walkFrom s va 5 (s.ctx v).root false with
  | .poison k => (.error k, s)
  | .leaf level addr e =>
    if s.leafBad v level addr e || !leafAllows w e || s.lineBad v (lineOf va level addr e).pa then (.error .protection, s)
    else (.ok (lineOf va level addr e), s.cacheLeaf core v va level addr e)

/-- The level of a page size. -/
def levelOf (size : Nat) : Nat := if size = 4096 then 1 else if size = 2 ^ 21 then 2 else 3

/-- Translating a virtual address of a context for a core: a cached entry that allows the access, else a walk; failed outcomes
are never cached (R223, R225, R227). A walk that ended on a dark direction gives its outcome once (R401). -/
def State.translate (s : State) (core v va : Nat) (w : Want) : Except PoisonKind Line × State :=
  if !(s.ctx v).en then (.error .pageFault, s)
  else if s.walkFail.contains (core, v, va / 4096) then
    (.error .uncorrectable, { s with walkFail := s.walkFail.filter (fun x => x != (core, v, va / 4096)) })
  else
    match s.tlbFind core v va with
    | some e =>
      let pte := e.pte.toNat
      let l := lineOf va (levelOf e.size) e.leaf pte
      if !leafAllows w pte then s.walk core v va w
      else if s.lineBad v l.pa then (.error .protection, s) else (.ok l, s)
    | none => s.walk core v va w

/-- An address whose device field names another module passes the checks that come before its translation (R216). -/
def State.peerOpen (s : State) (v d : Nat) (w : Want) : Bool := decide (w ≠ .fetch) && (s.vf v).feature 6 && (s.peers.get d (0, false)).2

/-- A 64-bit global address: device field first, then translation (R215, R216). -/
def State.translateGlobal (s : State) (core v addr : Nat) (w : Want) : Except PoisonKind Line × State :=
  let d := addr / 2 ^ 57 % 128
  let va := addr % 2 ^ 57
  if d = 0 then s.translate core v va w
  else if !s.peerOpen v d w then (.error .protection, s)
  else
    match s.translate core v va w with
    | (.ok l, s) => (.ok { l with space := .peer (s.peers.get d (0, false)).1 }, s)
    | r => r

/-- The dirty bit of leaves set from a port in their tables, and in every cached copy (R224). -/
def State.setDirty (s : State) (port : Nat) (leaves : List Nat) : State :=
  leaves.foldl (fun s a =>
    let s := s.orAt port a 512
    { s with tlb := s.tlb.map (fun (e : TlbEntry) => if e.leaf == a then { e with pte := e.pte ||| 512 } else e) }) s

/-- The leaf whose dirty bit a store through a line must set: its cached copy is clean (R224). -/
def Line.dirties (l : Line) : List Nat := if l.dt then [] else [l.leaf]

/-! ### Walkers (R225, R232, R321, R322, R327, R401) -/

/-- An access makes a walk: no cached entry allows it. -/
def State.walks (s : State) (core v va : Nat) (w : Want) : Bool :=
  (s.ctx v).en && !s.walkFail.contains (core, v, va / 4096) && (match s.tlbFind core v va with | some e => !leafAllows w e.pte.toNat | none => true)

/-- The blocks a walk must read from their homes: those its chiplet cache does not hold (R225). -/
def State.walkReads (s : State) (core v va : Nat) : List Nat :=
  (distinct ((walkPath s va 5 (s.ctx v).root).map (·.1 / 64))).filter (fun b => decide (s.coh.l2St (core / 32) b = .i))

/-- The block of a leaf whose AC bit a walk sets (R224). -/
def State.walkSets (s : State) (v va : Nat) : List Nat :=
  ((walkPath s va 5 (s.ctx v).root).filter (fun a => a.2 && !pteBit (s.mem.nat a.1 8) 8)).map (·.1 / 64)

/-- The chiplet cache can take in the blocks a walk reads: they need no victim, or the notice buffer has room (R232, R323). -/
def State.walkRoom (s : State) (core v va : Nat) : Bool :=
  let l := s.walkReads core v va
  l.all (fun b => (s.victim (core / 32) (b / 2)).isNone) ||
    decide ((s.coh.notices.filter (fun (n : Notice) => n.chiplet == core / 32)).length + 2 * l.length ≤ 1024)

/-- A table read or an AC update of a walk has no way, or no room in a notice buffer that cannot drain. -/
def State.walkDark (s : State) (core v va : Nat) : Bool :=
  !((s.walkReads core v va).all (s.blockWays (core / 32) false) && (s.walkSets v va).all (s.blockWays (core / 32) true)) || !s.walkRoom core v va

/-- What a walk waits for at the homes of its tables; none when it may be made (R321, R323, R327). -/
def State.walkBlocked (s : State) (core v va : Nat) : Option (Bool × State) :=
  match s.homeWait (core / 32) (s.walkReads core v va) (s.walkSets v va) with
  | some x => some x
  | none =>
    let noticed (b : Nat) : Bool := s.coh.notices.any (fun (n : Notice) => n.chiplet == core / 32 && n.block == b)
    if s.walkRoom core v va && !(s.walkReads core v va ++ s.walkSets v va).any noticed then none else some (false, s)

/-- No walker of the chiplet is free for a walk: 64 hold one, in arrival order (R225). -/
def State.walkersBusy (s : State) (core v va : Nat) : Bool :=
  let l := s.walkWait.filter (fun x => x.1 / 32 == core / 32)
  let me (x : Nat × Nat × Nat × Nat) : Bool := x.1 == core && x.2.1 == v && x.2.2.1 == va / 4096
  decide (64 ≤ l.length) && !(l.take 64).any me

/-- An access must wait for its walk. -/
def State.walkStuck (s : State) (core v va : Nat) (w : Want) : Bool :=
  s.walks core v va w && ((s.walkBlocked core v va).isSome || s.walkersBusy core v va)

/-- A global address must wait for its walk. -/
def State.globalStuck (s : State) (core v addr : Nat) (w : Want) : Bool :=
  let d := addr / 2 ^ 57 % 128
  (d == 0 || s.peerOpen v d w) && s.walkStuck core v (addr % 2 ^ 57) w

/-- The waiting walk is on record since the first access that needed it, and what it waits for is asked of the hosts. -/
def State.waitWalk (s : State) (core v va : Nat) : State :=
  let s := if s.walkersBusy core v va then s else match s.walkBlocked core v va with | some (_, s) => s | none => s
  if s.walkWait.any (fun x => x.1 == core && x.2.1 == v && x.2.2.1 == va / 4096) then s
  else { s with walkWait := s.walkWait ++ [(core, v, va / 4096, s.cycle)] }

/-- Walks for global addresses wait. -/
def State.waitWalks (s : State) (core v : Nat) (addrs : List Nat) : State := addrs.foldl (fun (s : State) a => s.waitWalk core v (a % 2 ^ 57)) s

/-- The DT updates of a store, made from a port, wait at the leaves' homes; the state then, with whether a way is dark (R224, R321, R327, R401). -/
def State.leavesWait (s : State) (port : Nat) (leaves : List Nat) : Option (Bool × State) := s.homeWait port [] (leaves.map (· / 64))

end Sys2Proof.Machine
end

