-- ==== Sys2Proof/Machine/Coherence.lean ====
section
/-! DEFINITION. Caches, the bell, signatures, homes with their directory, notices, and the ways to hosts and peers
(R233 to R235, R304, R314, R318 to R328, R401). Caches hold no bytes here: one physical store holds every write, and the states
say who may read and write it. -/
namespace Sys2Proof.Machine

/-! ### L1 caches and signatures (R318, R319) -/

/-- The L1 that holds a line for a team's core: its own, or, for a fused cluster, that of the rectangle's core (R99). -/
def State.l1Core (s : State) (t : Team) (pa : Nat) : Nat :=
  match s.clusterOf t.ref, s.launch? t.ref.vf t.ref.launch with
  | some c, some l => if l.kd.flags.testBit 0 then (match c.teams[pa / 128 % c.teams.length]? with | some x => x.core | none => t.core) else t.core
  | _, _ => t.core

/-- The chiplet of a core; number 256 + c stands for chiplet c itself, without an L1. -/
def chipletOf (core : Nat) : Nat := if core < 256 then core / 32 else core - 256

/-- The two hashes of R319. -/
def sigH1 (b : Nat) : Nat := bitsOf b 10 0 ^^^ bitsOf b 21 11 ^^^ bitsOf b 32 22 ^^^ bitsOf b 43 33 ^^^ bitsOf b 45 44
def sigH2 (b : Nat) : Nat := bitsOf b 12 2 ^^^ bitsOf b 23 13 ^^^ bitsOf b 34 24 ^^^ bitsOf b 45 35 ^^^ (b % 4 * 512)

/-- The bits of a block in a signature. -/
def sigBits (b : Nat) : BitVec 2048 := BitVec.ofNat 2048 (2 ^ sigH1 b) ||| BitVec.ofNat 2048 (2 ^ sigH2 b)

/-- Both bits of a block are set. -/
def sigHit (x : BitVec 2048) (b : Nat) : Bool := x.getLsbD (sigH1 b) && x.getLsbD (sigH2 b)

/-- The retention of a block in an L1. -/
def Coh.l1Keep (c : Coh) (core block : Nat) : Nat :=
  match c.l1.find? (fun (e : L1Entry) => e.core == core && e.block == block) with
  | some e => e.keep
  | none => 0

/-- A block's state and retention in an L1 set, with the signature bits it then sets. -/
def Coh.setL1 (c : Coh) (core block : Nat) (st : Mesi) (keep : Nat) : Coh :=
  let rest := c.l1.filter (fun (e : L1Entry) => !(e.core == core && e.block == block))
  if st = .i then { c with l1 := rest }
  else
    { c with l1 := rest ++ [{ core := core, block := block, st := st, keep := keep }]
             sigR := c.sigR.set core (c.sigR.get core 0 ||| sigBits block)
             sigW := if st = .s then c.sigW else c.sigW.set core (c.sigW.get core 0 ||| sigBits block) }

/-- The signatures of the blocks a core holds. -/
def Coh.rebuild (c : Coh) (core : Nat) : Coh :=
  let mine := c.l1.filter (fun (e : L1Entry) => e.core == core)
  let bits (l : List L1Entry) : BitVec 2048 := l.foldl (fun x e => x ||| sigBits e.block) 0
  { c with sigR := c.sigR.set core (bits mine), sigW := c.sigW.set core (bits (mine.filter (fun e => decide (e.st ≠ .s)))) }

/-- Lines of 128 bytes that an L1 of 256 KiB holds (R16, R233). -/
def l1Lines : Nat := 2048

/-- The lines an L1 may give up for a block: those of the lowest retention among the lines of the block's set, or in the whole cache where its set holds no other
line (R234). Which set a line falls into is free (log 2). -/
def Coh.l1Victims (c : Coh) (core block : Nat) : List Nat :=
  let held := c.l1.filter (fun (e : L1Entry) => e.core == core && e.block / 2 != block / 2)
  let same := held.filter (fun e => Config.l1Set (e.block / 2) == Config.l1Set (block / 2))
  let of' := if same.isEmpty then held else same
  distinct ((of'.filter (fun e => of'.all (fun x => decide (e.keep ≤ x.keep)))).map (fun e => e.block / 2))

/-- An L1 evicts a line to take in a block: it must when it is full and does not hold the block's line; R233 gives no sets and no order, so otherwise whether it does,
and which line of the lowest retention goes, is free (log 2). Dirty blocks send a PUT (R318). -/
def State.l1Victim (s : State) (core block : Nat) : State :=
  let (yes, s) := s.freeBool
  let held := distinct ((s.coh.l1.filter (fun (e : L1Entry) => e.core == core)).map (fun e => e.block / 2)) |>.filter (· != block / 2)
  let lines := s.coh.l1Victims core block
  if lines.isEmpty || !(yes || decide (l1Lines ≤ held.length)) then s
  else
    let (n, s) := s.freeNat
    let line := lines.getD (n % lines.length) 0
    let hit (x : L1Entry) : Bool := x.core == core && x.block / 2 == line
    let puts : List BellReq := (s.coh.l1.filter (fun (x : L1Entry) => hit x && decide (x.st = .m))).map
      (fun x => { core := core, kind := .put, block := x.block, sent := s.cycle, ctx := 0, keep := 0 })
    let c := s.coh.dropL1 (core / 32) hit
    { s with coh := { c with bell := if puts.isEmpty then c.bell else c.bell.set (core / 32) (c.bell.get (core / 32) [] ++ puts) } }

/-- Lodge entries that wait for a block through a core's L1, changed. -/
def State.waitersOf (s : State) (core block : Nat) (h : LodgeEntry → LodgeEntry) : State :=
  let mine (e : LodgeEntry) : Bool := match s.team? e.team with | some t => s.l1Core t (64 * block) == core | none => false
  { s with quads := s.quads.map (fun (q : Nat × Quad) => (q.1, { q.2 with lodge := q.2.lodge.map (fun e => if e.await.contains block && mine e then h e else e) })) }

/-- Lodge entries that a core's L1 serves stop waiting for a block. -/
def State.arrived (s : State) (core block : Nat) : State := s.waitersOf core block (fun e => { e with await := e.await.filter (· != block) })

/-- Requests of lodge entries have gone on to the home (R388). -/
def State.wentHome (s : State) (core block : Nat) : State := s.waitersOf core block (fun e => { e with home := true })

/-- A core's L1 receives a block, and its waiting lines with it; from number 256 on there is none. -/
def State.fillL1 (s : State) (core block : Nat) (st : Mesi) (keep : Nat) : State :=
  if 256 ≤ core then s
  else
    let s := s.l1Victim core block
    { s with coh := s.coh.setL1 core block st keep }.arrived core block

/-- No other L1 of the chiplet holds the block. -/
def Coh.aloneIn (c : Coh) (core block : Nat) : Bool :=
  c.l1.all (fun (e : L1Entry) => !(e.block == block && e.core / 32 == core / 32 && e.core != core))

/-- The chiplet cache answers a core from what it holds. A block owned for a store is in E until the store makes it M (R421). -/
def State.answerL1 (s : State) (chiplet core block : Nat) (own : Bool) (keep : Nat) : State :=
  let mine := s.coh.l1St core block
  if own then
    { s with coh := s.coh.dropL1 chiplet (fun e => e.block == block && e.core != core) }.fillL1 core block (if mine = Mesi.m then Mesi.m else Mesi.e) keep
  else
    let excl := decide (s.coh.l2St chiplet block ≠ .s) && s.coh.aloneIn core block
    s.fillL1 core block (if mine = .m then .m else if excl then .e else .s) keep

/-- A block is granted to a chiplet and to the core that asked. -/
def State.grant (s : State) (chiplet core block ctx keep : Nat) (own : Bool) (st : Mesi) : State :=
  (s.allocate chiplet block ctx keep st).answerL1 chiplet core block own (if keep = 3 then 0 else keep)

/-! ### Host blocks (R325) -/

/-- Holders of a host block on the module. -/
def Coh.holders (c : Coh) (block : Nat) : List (Nat × Nat × Nat × Mesi) := c.filter.filter (fun f => f.2.1 == block)

/-- The filter records a chiplet's state of a host block. -/
def Coh.setFilter (c : Coh) (port block chiplet : Nat) (st : Mesi) : Coh :=
  { c with filter := c.filter.filter (fun f => !(f.2.1 == block && f.2.2.1 == chiplet)) ++ [(port, block, chiplet, st)] }

/-- A chiplet's eviction of a host block that its notice buffer still keeps (R401). -/
def Coh.keptFor (c : Coh) (block : Nat) : List Notice := c.notices.filter (fun (n : Notice) => n.block == block && !n.sent)

/-- A host block leaves every cache of the module: each holder is invalidated through the I/O chiplet and gives dirty data up. -/
def State.evictHost (s : State) (block : Nat) : State :=
  let held := s.coh.holders block
  if held.isEmpty then s
  else
    let dirty := held.any (fun f => s.coh.dirty f.2.2.1 block)
    let c := held.foldl (fun (c : Coh) f => c.invalidate f.2.2.1 block) s.coh
    let s := held.foldl (fun (s : State) f => s.exchange ioPort f.2.2.1 1 (if s.coh.dirty f.2.2.1 block then 2 else 1)) s
    { s with coh := { c with filter := c.filter.filter (fun f => f.2.1 != block) } }.toHost block dirty

/-- A host block's record in a chiplet's permission and filter becomes M: the chiplet has written it (R325, R421). -/
def State.hostWritten (s : State) (chiplet block : Nat) : State :=
  if isHost (64 * block) ∧ s.coh.l2St chiplet block ≠ .i then
    let l2 := s.coh.l2.map (fun (e : L2Entry) => if e.chiplet == chiplet && e.block == block then { e with st := .m } else e)
    { s with coh := ({ s.coh with l2 := l2 } : Coh).setFilter (hostPort (64 * block)) block chiplet .m }
  else s

/-- A filter that runs out of entries evicts another block first (R325). The spec gives no size and no order: whether it has run out, and which block goes,
is free (log 2). -/
def State.filterRoom (s : State) (block : Nat) : State :=
  let free' (b : Nat) : Bool := (s.coh.holders b).all (fun f => s.pathUp ioPort f.2.2.1) && (s.coh.keptFor b).isEmpty
  let others := distinct ((s.coh.filter.map (fun f => f.2.1)).filter (fun b => b != block && free' b))
  if others.isEmpty || !(s.coh.holders block).isEmpty then s
  else
    let (full, s) := s.freeBool
    let (n, s) := s.freeNat
    if full then s.evictHost (others.getD (n % others.length) 0) else s

/-- Every other chiplet gives a host block up, or keeps it in S, an M copy written back to the host (R322, R325; DEDUCED, log 62). -/
def State.recallHost (s : State) (port block chiplet : Nat) (own : Bool) : State :=
  (s.coh.holders block).foldl (fun (s : State) f =>
    let x := f.2.2.1
    if x = chiplet then s
    else if own then
      let n := if s.coh.dirty x block then 2 else 1
      { s with coh := { s.coh.invalidate x block with filter := s.coh.filter.filter (fun g => !(g.2.1 == block && g.2.2.1 == x)) } }.exchange ioPort x 1 n
    else
      let dirty := s.coh.dirty x block
      let s := { s with coh := (s.coh.downgrade x block).setFilter port block x .s }.exchange ioPort x 1 (if dirty then 2 else 1)
      if dirty then s.toHost block true else s) s

/-- A host block reaches the core that asked. A no-allocate read takes no line for it (R234). -/
def State.grantHost (s : State) (core block : Nat) (own : Bool) (ctx keep : Nat) (st : Mesi) : State :=
  let chiplet := chipletOf core
  if keep = 3 ∧ own = false then s.arrived core block
  else
    let s := s.filterRoom block
    { s with coh := s.coh.setFilter (hostPort (64 * block)) block chiplet st }.grant chiplet core block ctx keep own st

/-- The ways a miss for a host block needs carry flits: the requester's, and those of the other holders; an eviction of the block that is still kept goes first
(R401). -/
def State.hostWays (s : State) (chiplet block : Nat) : Bool :=
  s.pathUp chiplet ioPort && (s.coh.holders block).all (fun f => s.pathUp ioPort f.2.2.1) && (s.coh.keptFor block).isEmpty

/-- A miss for a host block at the I/O chiplet: served on the module where a holder's state allows it, else asked of the host. -/
def State.hostMiss (s : State) (core block : Nat) (own : Bool) (ctx keep : Nat) : State :=
  let port := hostPort (64 * block)
  let held := s.coh.holders block
  let owned := held.any (fun f => decide (f.2.2.2 = .m) || decide (f.2.2.2 = .e))
  let chiplet := chipletOf core
  if (own && owned) || (!own && !held.isEmpty) then
    if !s.canAllocate chiplet block then s
    else
      let dirty := held.any (fun f => s.coh.dirty f.2.2.1 block)
      (((s.flits chiplet ioPort 1).recallHost port block chiplet own).flits ioPort chiplet 1).grantHost core block own ctx keep
        (if !own then .s else if dirty then .m else .e)
  else if s.coh.cxlReqs.any (fun (r : CxlReq) => r.block == block && r.core == core && (r.own || !own)) then s
  else
    let r : CxlReq := { port := port, block := block, core := core, own := own, ctx := ctx, keep := keep }
    { s with coh := { s.coh with cxlReqs := s.coh.cxlReqs ++ [r] } }.flits chiplet ioPort 1

/-! ### The bell (R318 to R320) -/

/-- The group of a queue, by its place on a quadrant, that a request at a home came from. -/
def State.sourceOf (s : State) (r : HomeReq) : Option (Team × Group × SqEntry) :=
  ((s.clusters.flatMap (fun c => c.teams)).filter (fun t => t.quads.contains (r.src / 16))).findSome? (fun t =>
    match t.group? (t.slotOf (r.src / 16)) (r.src % 16) with
    | none => none
    | some g => match g.storeQ with
      | e :: _ => if e.asked = some r.since ∧ !e.done.contains r.block then some (t, g, e) else none
      | [] => none)

/-- A store, or an atomic that returns nothing. -/
def SqEntry.silent (e : SqEntry) : Bool := match e.item with | .atomic _ _ _ _ dst _ => dst.isNone | .store _ => true

/-- Places taken in a chiplet cache's miss table (R232): read and ownership requests to homes and hosts, uncached stores, atomics without a return, and the blocks of
stores sent to a peer. -/
def State.missHeld (s : State) (chiplet : Nat) : Nat :=
  let counts (r : HomeReq) : Bool := r.who == chiplet && (match r.kind with
    | .read => true
    | .ownership => true
    | .uncachedWrite => true
    | .atomic => (match s.sourceOf r with | some x => x.2.2.silent | none => true)
    | _ => false)
  let away (e : SqEntry) : Nat := if e.silent then (match e.space with | .peer _ => e.done.length | _ => 0) else 0
  sumOf ((List.range 16).map (fun k => ((s.coh.homes.get k []).filter counts).length)) +
    sumOf (((s.clusters.flatMap (fun c => c.teams)).filter (fun t => t.core / 32 == chiplet)).flatMap (fun t => t.groups.flatMap (fun g => (g.storeQ.take 1).map away))) +
    (s.coh.cxlReqs.filter (fun (r : CxlReq) => r.core / 32 == chiplet)).length

/-- A request finds no place in the miss table of 4,096 entries. -/
def State.missFull (s : State) (chiplet : Nat) : Bool := decide (4096 ≤ s.missHeld chiplet)

/-- A core asks its chiplet for a block, unless it has asked already. -/
def State.ask (s : State) (core block : Nat) (own : Bool) (ctx keep : Nat) : State :=
  let k := core / 32
  let l := s.coh.bell.get k []
  let same (r : BellReq) : Bool := r.core == core && r.block == block && (decide (r.kind = .getx) || decide (r.kind = .upg) || (decide (r.kind = .gets) && !own))
  let atHome := (s.coh.homes.get (s.homeStack (64 * block)) []).any (fun (r : HomeReq) =>
    r.core == core && r.block == block && (decide (r.kind = .ownership) || (decide (r.kind = .read) && !own)))
  let atHost := s.coh.cxlReqs.any (fun (r : CxlReq) => r.core == core && r.block == block && (r.own || !own))
  if l.any same || atHome || atHost then (if atHome then s.wentHome core block else s)
  else
    let kind : BellKind := if !own then .gets else if s.coh.l1St core block = .s then .upg else .getx
    let r : BellReq := { core := core, kind := kind, block := block, sent := s.cycle, ctx := ctx, keep := keep }
    { s with coh := { s.coh with bell := s.coh.bell.set k (l ++ [r]) } }

/-- What the other cores of a chiplet do on a request: a signature hit acts on every block of its class (R319). -/
def Coh.snoop (c : Coh) (r : BellReq) : Coh :=
  let hits (core : Nat) : Bool :=
    sigHit (c.sigW.get core 0) r.block || (decide (r.kind ≠ .gets) && sigHit (c.sigR.get core 0) r.block)
  c.dropL1 (r.core / 32) (fun e => e.core != r.core && hits e.core && sigH1 e.block == sigH1 r.block)

/-- The requests that are due, 14 cycles old, by cycle sent, then by core. -/
def bellDue (now : Nat) (l : List BellReq) : List BellReq :=
  sortBy (fun (a b : BellReq) => lt3 (a.sent, a.core, 0) (b.sent, b.core, 0)) (l.filter (fun r => decide (r.sent + 14 ≤ now)))

/-- The chiplet cache can answer a request itself. -/
def State.bellHit (s : State) (chiplet : Nat) (r : BellReq) : Bool :=
  let st := s.coh.l2St chiplet r.block
  decide (st = .e) || decide (st = .m) || (decide (st = .s) && decide (r.kind = .gets))

/-- A request need not wait for a way to a host or for a place in the miss table (R232, R401). -/
def State.bellGoes (s : State) (chiplet : Nat) (r : BellReq) : Bool :=
  decide (r.kind = .put) || s.bellHit chiplet r || (!s.missFull chiplet && (!isHost (64 * r.block) || (s.hostWays chiplet r.block && s.canAllocate chiplet r.block)))

/-- The first of the due requests that goes, none for its block being before it: requests for one block take effect in order (R318). -/
def bellFirst (goes : BellReq → Bool) : List BellReq → List Nat → Option BellReq
  | [], _ => none
  | r :: rest, seen => if goes r && !seen.contains r.block then some r else bellFirst goes rest (r.block :: seen)

/-- A request is delivered to the cores and the chiplet cache. -/
def execBellDeliver (chiplet : Nat) (s : State) : Host.Outcome State Fault Refusal :=
  module s (fun s =>
    let l := s.coh.bell.get chiplet []
    match bellFirst (s.bellGoes chiplet) (bellDue s.cycle l) [] with
    | none => s
    | some r =>
      let s := { s with coh := { s.coh with bell := s.coh.bell.set chiplet (l.erase r) } }
      if r.kind = .put then s
      else
        let own := decide (r.kind ≠ .gets)
        let hit := s.bellHit chiplet r
        let s := { s with coh := s.coh.snoop r }
        if hit then
          -- the line becomes the most recent of its set
          let keepOld := match s.coh.l2Entry? chiplet r.block with | some e => (e.ctx, e.keep) | none => (r.ctx, r.keep)
          s.grant chiplet r.core r.block keepOld.1 keepOld.2 own (s.coh.l2St chiplet r.block)
        else if isHost (64 * r.block) then s.hostMiss r.core r.block own r.ctx r.keep
        else
          let s := s.wentHome r.core r.block
          s.sendHome { kind := if own then .ownership else .read, block := r.block, who := chiplet, core := r.core, src := 0, ctx := r.ctx, keep := r.keep
                       waitFwd := false, since := s.cycle })

/-- A core's signatures are those of its tags again. -/
def execSignatureRebuild (core : Nat) (s : State) : Host.Outcome State Fault Refusal :=
  module s (fun s => { s with coh := s.coh.rebuild core })

/-! ### Homes (R321, R322, R327) -/

/-- The first request of some kind at a home that no earlier request for its block precedes (R321). -/
def homePick (want : HomeKind → Bool) (held : HomeReq → Bool) : List HomeReq → List Nat → Option HomeReq
  | [], _ => none
  | r :: rest, seen =>
    if held r then homePick want held rest seen
    else if want r.kind && !seen.contains r.block then some r
    else homePick want held rest (r.block :: seen)

/-- The request of some kind that a home serves next. -/
def State.pickAt (s : State) (stack : Nat) (want : HomeKind → Bool) : Option HomeReq := homePick want s.coh.heldBack (s.coh.homes.get stack []) []

/-- A request leaves a home with its answer, one flit; for the rest range the stack's rest banks have left self-refresh first (R391). -/
def State.homeDone (s : State) (stack : Nat) (r : HomeReq) : State :=
  let s := (s.rouse r.block).flits (stackPort stack) (whoPort stack r.who) 1
  { s with coh := { s.coh with homes := s.coh.homes.set stack ((s.coh.homes.get stack []).erase r) } }

/-- A request's answer can reach the one who asked: a chiplet, or the I/O chiplet for a host; the home itself needs no way. -/
def State.whoUp (s : State) (stack who : Nat) : Bool :=
  if who < 8 then s.pathUp who (stackPort stack) else if who < 10 then s.pathUp ioPort (stackPort stack) else true

/-- The service of one request at a home (R322): host holders in conflict are back-invalidated first, an owner other than the requester
is forwarded to, the remaining holders are invalidated when `inval`, and then it is performed. `own` keeps the requester's copy. -/
def State.serve (s : State) (stack : Nat) (want : HomeKind → Bool) (inval keepSelf : Bool) (perform : HomeReq → State → State) : State :=
  match s.pickAt stack want with
  | none => s
  | some r =>
    let d := s.coh.dirEntry r.block
    let self := fun c => keepSelf && c == r.who
    if !s.whoUp stack r.who then s
    else
      match d.hostConflicts inval with
      | p :: ps => s.sendBis ((p :: ps).map (fun q => (q, r.block, inval)))
      | [] =>
        match d.owner with
        | some o =>
          if self o then perform r (s.homeDone stack r)
          else if r.waitFwd then s
          else
            let fwd : Fwd := { block := r.block, stack := stack, own := inval }
            let l := (s.coh.homes.get stack []).map (fun x => if x = r then { x with waitFwd := true } else x)
            { s with coh := { s.coh with fwds := s.coh.fwds.set o (s.coh.fwds.get o [] ++ [fwd]), homes := s.coh.homes.set stack l } }.flits (stackPort stack) o 1
        | none =>
          let others := d.chiplets.filter (fun c => !self c)
          if inval && others.any (fun c => !s.pathUp (stackPort stack) c) then s
          else
            let s := if inval then others.foldl (fun (s : State) c =>
                let c' := s.coh.invalidate c r.block
                ({ s with coh := c'.setDir r.block ((c'.dirEntry r.block).del c) }.flits (stackPort stack) c 1).flits c (stackPort stack) 1) s else s
            perform r (s.homeDone stack r)

/-- Data from the home with E when no one else holds the block, else with S. -/
def State.grantRead (r : HomeReq) (s : State) : State :=
  let d := s.coh.dirEntry r.block
  let held := decide (d.present ≠ 0)
  if s.coh.l2St r.who r.block ≠ .i then s.answerL1 r.who r.core r.block false (if r.keep = 3 then 0 else r.keep)
  else
    let hosts := decide (d.host0 ≠ .i) || decide (d.host1 ≠ .i)
    let s := { s with coh := s.coh.setDir r.block (if held || hosts then d.add r.who else { d.add r.who with owner := some r.who }) }
    s.grant r.who r.core r.block r.ctx r.keep false (if held || hosts then .s else .e)

/-- Ownership from the home. -/
def State.grantOwn (r : HomeReq) (s : State) : State :=
  let d := s.coh.dirEntry r.block
  let s := { s with coh := s.coh.setDir r.block { d.add r.who with owner := some r.who } }
  s.grant r.who r.core r.block r.ctx r.keep true (if s.coh.l2St r.who r.block = .m then .m else .e)

/-- A request whose grant needs a line in the chiplet cache waits while none can be had. -/
def State.roomFor (s : State) (stack : Nat) (want : HomeKind → Bool) : Bool :=
  match s.pickAt stack want with
  | some r => s.canAllocate r.who r.block
  | none => true

def execHomeRead (stack : Nat) (s : State) : Host.Outcome State Fault Refusal :=
  module s (fun s =>
    let want := fun k => decide (k = .read)
    if s.roomFor stack want then s.serve stack want false true State.grantRead else s)

def execHomeOwnership (stack : Nat) (s : State) : Host.Outcome State Fault Refusal :=
  module s (fun s =>
    let want := fun k => decide (k = .ownership)
    if s.roomFor stack want then s.serve stack want true true State.grantOwn else s)

/-- A notice removes its holder; its data is in the one physical store already. -/
def execHomeNotice (stack : Nat) (s : State) : Host.Outcome State Fault Refusal :=
  module s (fun s =>
    match s.pickAt stack (fun k => match k with | .notice _ => true | _ => false) with
    | none => s
    | some r => let s := s.homeDone stack r; { s with coh := s.coh.setDir r.block ((s.coh.dirEntry r.block).del r.who) })

/-! ### Atomics (R333, R336) -/

/-- fadd of R336. -/
def atomFadd (a b : Nat) : Nat :=
  match fp32.unpack a, fp32.unpack b with
  | .nan _, _ => 0x7FC00000
  | _, .nan _ => 0x7FC00000
  | x, y => let r := (fp32.add .rne x y).1; match fp32.unpack r with | .nan _ => 0x7FC00000 | _ => r

/-- f(old, v) at a width of `w` bytes (R333). -/
def AtomKind.apply (k : AtomKind) (uns : Bool) (w old v cmp : Nat) : Nat :=
  let n := 8 * w
  let less (a b : Nat) : Bool := if uns then decide (a < b) else decide (sextNat n a < sextNat n b)
  match k with
  | .add => (old + v) % 2 ^ n
  | .addf => atomFadd old v
  | .min => if less v old then v else old
  | .max => if less old v then v else old
  | .and => old &&& v
  | .or => old ||| v
  | .xor => old ^^^ v
  | .xchg => v
  | .cas => if old = cmp then v else old
  | .inc => if v ≤ old then 0 else old + 1

/-- One lane's read-modify-write of a memory: the memory after it, and what it returns. -/
def atomLane (k : AtomKind) (uns : Bool) (w : Nat) (m : Memory) (l : AtomLane) : Memory × Nat :=
  let old := m.nat l.addr w
  (m.writeBytes l.addr (bytesOfNat w (k.apply uns w old (l.val.toNat % 2 ^ (8 * w)) (l.cmp.toNat % 2 ^ (8 * w)))), old)

/-- The registers a returned value goes to. -/
def atomReturn (w n : Nat) (l : AtomLane) (old : Nat) : List PendVal :=
  .v l.block l.lane n { val := BitVec.ofNat 32 old, poison := none } ::
    (if w = 8 then [.v l.block l.lane (n + 1) { val := BitVec.ofNat 32 (old / 2 ^ 32), poison := none }] else [])

/-- Lanes performed in order, with what they return. -/
def atomRun (k : AtomKind) (uns : Bool) (w : Nat) (dst : Option Nat) (m : Memory) (ls : List AtomLane) : Memory × List PendVal :=
  ls.foldl (fun (a : Memory × List PendVal) l =>
    let r := atomLane k uns w a.1 l
    (r.1, a.2 ++ (match dst with | some n => atomReturn w n l r.2 | none => []))) (m, [])

/-- The values an atomic has returned join its pending operation; lanes whose line has ended in error keep their poison (R230). -/
def Team.learn (t : Team) (op : Option Nat) (vals : List PendVal) (known : Bool) : Team :=
  match op with
  | none => t
  | some i => { t with pend := t.pend.map (fun (p : PendOp) => if p.id == i then
      let dest (v : PendVal) : Bool := vals.any (fun x => match v, x with
        | .v b l n y, .v b' l' n' _ => b == b' && l == l' && n == n' && y.poison.isNone
        | _, _ => false)
      let lost (x : PendVal) : Bool := p.vals.any (fun v => match v, x with
        | .v b l n y, .v b' l' n' _ => b == b' && l == l' && n == n' && y.poison.isSome
        | _, _ => false)
      { p with vals := p.vals.filter (fun v => !dest v) ++ vals.filter (fun x => !lost x), known := known } else p) }

/-! ### What the head of a store queue does at a home -/

/-- The blocks of physical memory an entry touches. -/
def SqEntry.blocks (e : SqEntry) : List Nat :=
  match e.item with
  | .store cs => distinct (cs.map (fun c => c.1 / 64))
  | .atomic _ _ _ ls _ _ => distinct (ls.map (fun l => l.addr / 64))

/-- The part of the source's entry that lies in the request's block is performed: bytes written, or lanes of an atomic done. -/
def State.performHead (r : HomeReq) (s : State) : State :=
  match s.sourceOf r with
  | none => s
  | some (t, g, e) =>
    let e' := { e with done := e.done ++ [r.block] }
    let put (t : Team) : Team := t.setGroup { g with storeQ := e' :: g.storeQ.drop 1 }
    match e.item with
    | .store cs => { s with mem := s.mem.writeCells (cs.filter (fun c => c.1 / 64 == r.block)) }.setTeam (put t)
    | .atomic k u w ls dst op =>
      let (m, vals) := atomRun k u w dst s.mem (ls.filter (fun l => l.addr / 64 == r.block))
      let all := e.blocks.all (fun b => e'.done.contains b)
      { s with mem := m }.setTeam ((put t).learn op vals all)

def execHomeAtomic (stack : Nat) (s : State) : Host.Outcome State Fault Refusal :=
  module s (fun s => s.serve stack (fun k => decide (k = .atomic)) true false State.performHead)

/-- One lodge entry stops waiting for a block. -/
def State.arrivedAt (s : State) (entry block : Nat) : State :=
  { s with quads := s.quads.map (fun (q : Nat × Quad) => (q.1, { q.2 with lodge := q.2.lodge.map (fun e =>
      if e.id == entry then { e with await := e.await.filter (· != block) } else e) })) }

/-- An uncached or no-allocate read is served; `src` is its lodge entry. -/
def execHomeUncachedRead (stack : Nat) (s : State) : Host.Outcome State Fault Refusal :=
  module s (fun s => s.serve stack (fun k => decide (k = .uncachedRead)) false false (fun r s => s.arrivedAt r.src r.block))

/-! ### Forwards and notices (R323, R401) -/

/-- A forward reaches an owner: it supplies the block, or answers NOTICED while its own notice is unacknowledged. -/
def execForward (chiplet : Nat) (s : State) : Host.Outcome State Fault Refusal :=
  module s (fun s =>
    match s.coh.fwds.get chiplet [] with
    | [] => s
    | f :: rest =>
      if !s.pathUp chiplet (stackPort f.stack) then s
      else
        let d := s.coh.dirEntry f.block
        let noticed := s.coh.notices.any (fun (n : Notice) => n.chiplet == chiplet && n.block == f.block)
        let c := { s.coh with fwds := s.coh.fwds.set chiplet rest }
        let s := s.flits chiplet (stackPort f.stack) (if noticed then 1 else 2)
        { s with coh :=
            if noticed then c.setDir f.block (d.del chiplet)
            else if f.own then (c.invalidate chiplet f.block).setDir f.block (d.del chiplet)
            else (c.downgrade chiplet f.block).setDir f.block { d with owner := none } })

/-- The home's acknowledgement frees the notice. -/
def execNoticeAck (chiplet block : Nat) (s : State) : Host.Outcome State Fault Refusal :=
  module s (fun s =>
    let k := s.homeStack (64 * block)
    let waiting := (s.coh.homes.get k []).any (fun (r : HomeReq) => (match r.kind with | .notice _ => true | _ => false) && r.who == chiplet && r.block == block)
    match s.coh.notices.find? (fun (n : Notice) => n.chiplet == chiplet && n.block == block) with
    | none => s
    | some n => if n.sent && !waiting && s.wayUp (stackPort k) chiplet then { s with coh := { s.coh with notices := s.coh.notices.erase n } }.flits (stackPort k) chiplet 1 else s)

/-- The copies of blocks that a chiplet holds leave it, for an access that bypasses the caches (R234). -/
def State.evictAll (s : State) (chiplet ctx : Nat) (blocks : List Nat) : State :=
  blocks.foldl (fun (s : State) b => if s.coh.l2St chiplet b = .i then s else s.evict chiplet b ctx) s

/-- The notice buffer has room for the evictions of a bypassing access. -/
def State.evictRoom (s : State) (chiplet : Nat) (blocks : List Nat) : Bool :=
  decide ((s.coh.notices.filter (fun (n : Notice) => n.chiplet == chiplet)).length + (blocks.filter (fun b => decide (s.coh.l2St chiplet b ≠ .i))).length ≤ 1024)

/-- A held notice leaves when its direction carries flits again. -/
def execNoticeResend (chiplet block : Nat) (s : State) : Host.Outcome State Fault Refusal :=
  module s (fun s =>
    match s.coh.notices.find? (fun (n : Notice) => n.chiplet == chiplet && n.block == block && !n.sent) with
    | none => s
    | some n =>
      if !s.wayUp chiplet (s.portOf (64 * block)) then s
      else if isHost (64 * block) then { s with coh := { s.coh with notices := s.coh.notices.erase n } }.hostEvicted chiplet block n.dirty
      else
        let s := { s with coh := { s.coh with notices := s.coh.notices.map (fun x => if x = n then { x with sent := true } else x) } }
        s.sendHome { kind := .notice n.dirty, block := block, who := chiplet, core := 256, src := 0, ctx := 0, keep := 0, waitFwd := false, since := s.cycle })

/-! ### Snoops and responses of hosts (R325 to R327) -/

/-- Response codes: 0 RspIHitI, 1 RspIFwdM, 2 RspSHitSE, 3 RspSFwdM, 4 RspVHitV, 5 RspVFwdV (R326). -/
def State.snoopAnswer (s : State) (port block code : Nat) : State := { s with out := { s.out with snoop := s.out.snoop ++ [(port, block, code)] } }

/-- A host block of a port. -/
def hostBlock (port : Fin 2) (block : Nat) : Bool := isHost (64 * block) && hostPort (64 * block) == port.val

/-- Some holder of a host block has it in M. -/
def Coh.hostDirty (c : Coh) (block : Nat) : Bool := (c.holders block).any (fun f => c.dirty f.2.2.1 block)

/-- The holders of a host block that a snoop finds: a chiplet whose eviction is still on its way holds it no more (R326). -/
def Coh.snooped (c : Coh) (block : Nat) : List (Nat × Nat × Nat × Mesi) :=
  (c.holders block).filter (fun f => !(c.keptFor block).any (fun n => n.chiplet == f.2.2.1))

/-- A snoop waits while a way to a holder carries nothing (R401). -/
def State.snoopWays (s : State) (block : Nat) : Bool := (s.coh.snooped block).all (fun f => s.pathUp ioPort f.2.2.1)

def execSnpinv (port : Fin 2) (block : Nat) (s : State) : Host.Outcome State Fault Refusal :=
  module s (fun s =>
    if !hostBlock port block || !s.snoopWays block then s
    else
      let dirty := s.coh.hostDirty block
      let c := (s.coh.holders block).foldl (fun (c : Coh) f => c.invalidate f.2.2.1 block) s.coh
      let s := (s.coh.holders block).foldl (fun (s : State) f => s.exchange ioPort f.2.2.1 1 (if s.coh.dirty f.2.2.1 block then 2 else 1)) s
      { s with coh := { c with filter := c.filter.filter (fun f => f.2.1 != block) } }.snoopAnswer port block (if dirty then 1 else 0))

def execSnpdata (port : Fin 2) (block : Nat) (s : State) : Host.Outcome State Fault Refusal :=
  module s (fun s =>
    if !hostBlock port block || !s.snoopWays block then s
    else
      let held := s.coh.snooped block
      let code := if s.coh.hostDirty block then 3 else if held.isEmpty then 0 else 2
      let c := held.foldl (fun (c : Coh) f => (c.downgrade f.2.2.1 block).setFilter port block f.2.2.1 .s) s.coh
      let s := held.foldl (fun (s : State) f => s.exchange ioPort f.2.2.1 1 (if s.coh.dirty f.2.2.1 block then 2 else 1)) s
      { s with coh := c }.snoopAnswer port block code)

def execSnpcur (port : Fin 2) (block : Nat) (s : State) : Host.Outcome State Fault Refusal :=
  module s (fun s =>
    if !hostBlock port block || !s.snoopWays block then s
    else
      let s := if s.coh.hostDirty block then (s.coh.snooped block).foldl (fun (s : State) f => s.exchange ioPort f.2.2.1 1 2) s else s
      s.snoopAnswer port block (if s.coh.hostDirty block then 5 else if (s.coh.snooped block).isEmpty then 0 else 4))

/-- The host's data and the state it grants enter the filter, the chiplet cache and the L1 that asked. -/
def execCxlCacheResponse (port : Fin 2) (block : Nat) (granted : Mesi) (data : List Byte) (s : State) : Host.Outcome State Fault Refusal :=
  module s (fun s =>
    match s.coh.cxlReqs.find? (fun (r : CxlReq) => r.port == port.val && r.block == block) with
    | none => s
    | some r =>
      let chiplet := chipletOf r.core
      let enough := if r.own then decide (granted = .m) || decide (granted = .e) else decide (granted ≠ .i)
      if !enough || data.length ≠ 64 || !s.hostWays chiplet block || !s.canAllocate chiplet block then s
      else
        let held := s.coh.holders block
        let dirty := s.coh.hostDirty block
        let s := if held.isEmpty then s.poke (64 * block) data else s
        let s := { s with coh := { s.coh with cxlReqs := s.coh.cxlReqs.erase r } }.recallHost port block chiplet r.own
        let s := (s.flits ioPort chiplet 1).grantHost r.core block r.own r.ctx r.keep (if r.own && dirty then .m else granted)
        -- a no-allocate read keeps nothing, and says so to the host
        if (s.coh.holders block).isEmpty then s.toHost block false else s)

/-- A host state of a port recorded at the home. -/
def DirEntry.setHost (d : DirEntry) (port : Nat) (st : Mesi) : DirEntry := if port = 0 then { d with host0 := st } else { d with host1 := st }

/-- A port's host can name a device block: the link is up as CXL, and a committed HDM decoder of the port covers the block (R69, R327). -/
def State.hdmOpen (s : State) (port : Fin 2) (block : Nat) : Bool :=
  let p := s.pf port
  p.linkUp && p.cxl && p.hdm.any (fun (h : Hdm) => h.committed && decide (h.base ≤ 64 * block) && decide (64 * block + 64 ≤ h.base + h.size))

/-- A port's trackers are all taken: 2,048 requests of its host wait (R232). -/
def State.trackersFull (s : State) (port : Nat) : Bool :=
  decide (2048 ≤ sumOf ((List.range 16).map (fun k => ((s.coh.homes.get k []).filter (fun (r : HomeReq) => r.who == 8 + port)).length)))

/-- A link that trained without CXL: the accesses of its host to device memory are CXL.io accesses, which take no copy (R69, R232, R401; DEDUCED, log 69). -/
def State.ioOnly (s : State) (port : Fin 2) : Bool := (s.pf port).linkUp && !(s.pf port).cxl

/-- A host's request, waiting or new, is served at the home once nothing for its block precedes it and the other host gives way. -/
def execHostM2sRequest (port : Fin 2) (block : Nat) (req : HostReq) (s : State) : Host.Outcome State Fault Refusal :=
  module s (fun s =>
    let io := s.ioOnly port
    if !isDevice (64 * block) || !(s.hdmOpen port block || io) then s
    else
      let k := s.homeStack (64 * block)
      let me (r : HomeReq) : Bool := decide (r.kind = .hostM2s req) && r.block == block && r.who == 8 + port.val
      let l := s.coh.homes.get k []
      let wait (s : State) : State := if l.any me || s.trackersFull port.val then s else
        s.sendHome { kind := .hostM2s req, block := block, who := 8 + port.val, core := 256, src := 0, ctx := 0, keep := 0, waitFwd := false, since := s.cycle }
      let inval := match req with | .readShared => false | .readOwn => !io | .write _ => true
      let d := s.coh.dirEntry block
      let others := (d.hostConflicts inval).filter (· != port.val)
      let before := l.takeWhile (fun r => !me r)
      let ways := d.chiplets.all (fun c => s.pathUp (stackPort k) c)
      if !s.pathUp ioPort (stackPort k) || before.any (fun r => r.block == block && !s.coh.heldBack r) || !ways then wait s
      else if !others.isEmpty then wait (s.sendBis (others.map (fun q => (q, block, inval))))
      else
        let s := if l.any me then s else s.flits ioPort (stackPort k) (HomeKind.hostM2s req).flits
        let s := (s.rouse block).flits (stackPort k) ioPort 1
        let s := { s with coh := { s.coh with homes := s.coh.homes.set k (l.filter (fun r => !me r)) } }.recallAll block inval
        let d := s.coh.dirEntry block
        let s := match req with
          | .readShared => if io then s else { s with coh := s.coh.setDir block (d.setHost port .s) }
          | .readOwn => if io then s else { s with coh := s.coh.setDir block (d.setHost port .e) }
          | .write data => { s.poke (64 * block) (data.take 64) with coh := s.coh.setDir block (d.setHost port .i) }
        { s with out := { s.out with host := s.out.host ++ [(port.val, block, true)] } })

/-- A host answers a back-invalidate, writing back what it had changed, once the way from the I/O chiplet to the home carries flits (R401). -/
def execBirsp (port : Fin 2) (block : Nat) (data : Option (List Byte)) (s : State) : Host.Outcome State Fault Refusal :=
  module s (fun s =>
    match s.coh.backInv.find? (fun b => b.1 == port.val && b.2.1 == block) with
    | none => s
    | some b =>
      if !s.wayUp ioPort (s.portOf (64 * block)) then s
      else
      let s := match data with | some x => s.poke (64 * block) (x.take 64) | none => s
      let s := s.flits ioPort (s.portOf (64 * block)) (match data with | some _ => 2 | none => 1)
      { s with coh := { s.coh with backInv := s.coh.backInv.erase b }.setDir block ((s.coh.dirEntry block).setHost port (if b.2.2 then .i else .s)) })

/-- The two ways a wait has reached 2^21 cycles (R401). -/
def State.overdue (s : State) (since : Nat) : Bool := decide (since + Config.lodgeTimeout ≤ s.cycle)

/-- A request at a home waits on something that only a dark direction withholds: its own way, the way to a holder, a victim that a full notice buffer cannot take,
or an earlier request for its block that so waits (R401). -/
def State.stalled (s : State) (stack : Nat) (r : HomeReq) : Bool :=
  let full (x : HomeReq) : Bool := decide (x.who < 8) && !s.canAllocate x.who x.block
  let dark (x : HomeReq) : Bool := !s.whoUp stack x.who || full x
  let d := s.coh.dirEntry r.block
  dark r || d.chiplets.any (fun c => !s.pathUp (stackPort stack) c) || (!(d.hostConflicts true).isEmpty && !s.pathUp ioPort (stackPort stack)) ||
    ((s.coh.homes.get stack []).takeWhile (fun x => x != r)).any (fun x => x.block == r.block && dark x)

/-- A block that a chiplet asks for is withheld by a dark direction. -/
def State.blockStalled (s : State) (chiplet block : Nat) : Bool :=
  let k := s.homeStack (64 * block)
  !s.pathUp chiplet (s.portOf (64 * block)) || !s.canAllocate chiplet block ||
    (if isDevice (64 * block) then (s.coh.homes.get k []).any (fun r => r.block == block && s.stalled k r) else !s.hostWays chiplet block)

/-- A host request that waited on a dark direction is answered: with poisoned data on a port that runs CXL, with a completer abort, which its AER status
records, on one that does not (R69, R401; PRESUMED, log 69). -/
def execHostDarkTimeout (port : Fin 2) (block : Nat) (s : State) : Host.Outcome State Fault Refusal :=
  module s (fun s =>
    let k := s.homeStack (64 * block)
    let l := s.coh.homes.get k []
    match l.find? (fun (r : HomeReq) => (match r.kind with | .hostM2s _ => true | _ => false) && r.block == block && r.who == 8 + port.val) with
    | none => s
    | some r =>
      if s.overdue r.since && s.stalled k r then
        let s := if (s.pf port).cxl then s else s.setPf port { s.pf port with aer := (s.pf port).aer ||| 0x8000 }
        { s.homeDone k r with out := { s.out with host := s.out.host ++ [(port.val, block, false)] } }
      else s)

/-! ### Reaching memory for a party outside the cores (R293, R305, R315, R321, R322, R327, R401) -/

/-- Whether blocks can be read or written at their homes now: the state in which the party waits, with whether a direction carries nothing, or the state in
which the copies have been recalled and it goes on. -/
inductive Reach where
  | waits (dark : Bool) (s : State)
  | go (s : State)
  deriving DecidableEq, Repr

/-- A device block recalled for an access from outside the cores, and its banks awake; a host block that is written becomes M in its chiplet (R325). -/
def State.recallFor (s : State) (chiplet : Nat) (inval : Bool) (block : Nat) : State :=
  if isDevice (64 * block) then s.access chiplet inval block
  else if inval then { s with coh := s.coh.dropL1 chiplet (fun e => e.block == block) }.hostWritten chiplet block else s

/-- The accesses of one party on a chiplet to several blocks: ways, host holders, requests already at the homes, and host blocks. -/
def State.reach (s : State) (chiplet ctx : Nat) (rd wr : List Nat) : Reach :=
  match s.homeWait chiplet rd wr with
  | some (dark, s) => .waits dark s
  | none =>
      let host (l : List Nat) := l.filter (fun b => isHost (64 * b))
      let lackR := (host rd).filter (fun b => (s.coh.holders b).isEmpty)
      let lackW := (host wr).filter (fun b => !(s.coh.holders b).any (fun f => f.2.2.1 == chiplet && (decide (f.2.2.2 = .m) || decide (f.2.2.2 = .e))))
      if lackR.isEmpty && lackW.isEmpty then .go (wr.foldl (fun (s : State) b => s.recallFor chiplet true b) (rd.foldl (fun (s : State) b => s.recallFor chiplet false b) s))
      else
        let s := lackR.foldl (fun (s : State) b => s.hostMiss (256 + chiplet) b false ctx 1) s
        .waits false (lackW.foldl (fun (s : State) b => s.hostMiss (256 + chiplet) b true ctx 1) s)

/-! ### Peers (R216, R324, R232, R401) -/

/-- Bytes a peer request touches. -/
def peerSize : PeerReq → Nat
  | .read n => n | .write d => d.length | .atomicAdd n _ => n

/-- A request from a peer module is performed at its home; none answers an access that cannot be performed. -/
def execPeerRequest (port pa : Nat) (req : PeerReq) (s : State) : Host.Outcome State Fault Refusal :=
  module s (fun s =>
    let n := peerSize req
    let blocks := if n = 0 then [] else (List.range ((pa + n - 1) / 64 - pa / 64 + 1)).map (fun i => pa / 64 + i)
    let inval := match req with | .read _ => false | _ => true
    let mine (x : Nat × Nat × PeerReq × Nat) : Bool := x.1 == port && x.2.1 == pa && x.2.2.1 == req
    let answer (s : State) (a : Option (List Byte)) : State :=
      { s with peerReqs := s.peerReqs.filter (fun x => !mine x), out := { s.out with peer := s.out.peer ++ [(port, .answer pa a)] } }
    let full := decide (512 ≤ (s.peerReqs.filter (fun x => x.1 == port)).length)
    let wait (s : State) : State := if s.peerReqs.any mine || full then s else { s with peerReqs := s.peerReqs ++ [(port, pa, req, s.cycle)] }
    if Config.deviceBytes < pa + n ∨ s.badAt pa n then answer s none
    else match s.homeWait ioPort (if inval then [] else blocks) (if inval then blocks else []) with
    | some (_, s) => wait s
    | none =>
      let s := blocks.foldl (fun (s : State) b => s.access ioPort inval b) s
      match req with
      | .read n => answer s (some (s.mem.bytes pa n))
      | .write d => answer (s.poke pa d) (some [])
      | .atomicAdd n v => answer (s.poke pa (bytesOfNat n ((s.mem.nat pa n + v.toNat) % 2 ^ (8 * n)))) (some (s.mem.bytes pa n)))

/-- A peer's request that waited on a dark direction has failed. -/
def execPeerDarkTimeout (port pa : Nat) (s : State) : Host.Outcome State Fault Refusal :=
  module s (fun s =>
    match s.peerReqs.find? (fun x => x.1 == port && x.2.1 == pa) with
    | none => s
    | some x =>
      let n := peerSize x.2.2.1
      let blocks := (List.range ((pa + n - 1) / 64 - pa / 64 + 1)).map (fun i => pa / 64 + i)
      let dark (b : Nat) : Bool := !s.pathUp ioPort (s.portOf (64 * b)) || (s.coh.dirEntry b).chiplets.any (fun c => !s.pathUp (s.portOf (64 * b)) c) ||
        (s.coh.homes.get (s.homeStack (64 * b)) []).any (fun (r : HomeReq) => r.block == b && s.stalled (s.homeStack (64 * b)) r)
      if s.overdue x.2.2.2 && blocks.any dark then
        { s with peerReqs := s.peerReqs.erase x, out := { s.out with peer := s.out.peer ++ [(port, .answer pa none)] } }
      else s)

end Sys2Proof.Machine
end

