-- ==== Sys2Proof/Machine/Monitors.lean ====
section
/-! DEFINITION. The monitors and their samples, and the passing of cycles (R387 to R389). -/
namespace Sys2Proof.Machine

/-- The bucket of a sample (R389). -/
def bucketOf (v : Nat) : Nat := if v = 0 then 0 else Nat.min 31 (Nat.log2 v + 1)

/-- The same sample taken in several cycles, of which `now` is the last. -/
def Monitor.sample (m : Monitor) (now v times : Nat) : Monitor :=
  if !m.en || times = 0 then m
  else
    let x := Nat.min v (2 ^ 32 - 1)
    let b := bucketOf x
    { m with min := BitVec.ofNat 32 (Nat.min m.min.toNat x), max := BitVec.ofNat 32 (Nat.max m.max.toNat x)
             count := m.count + BitVec.ofNat 64 times, buckets := m.buckets.set b (satInc (m.buckets.get b 0) times)
             sampledAt := now, samples := if m.sampledAt = now then m.samples ++ [x] else [x] }

/-- A source's sample for a target reaches every monitor that names them (R388). -/
def State.sample (s : State) (src target v : Nat) : State :=
  { s with monitors := s.monitors.map (fun (e : Nat × Monitor) => if e.2.src == src && e.2.target == target then (e.1, e.2.sample s.cycle v 1) else e) }

/-- A corrected-bits sample of one lane in one direction. -/
def State.sampleLane (s : State) (pair lane : Nat) (dir : Bool) (v : Nat) : State :=
  { s with monitors := s.monitors.map (fun (e : Nat × Monitor) =>
      if e.2.src == 3 && e.2.target == pair && e.2.lane == lane && e.2.dir == dir then (e.1, e.2.sample s.cycle v 1) else e) }

/-- Cycles pass; lodge occupancy is sampled in each of them (R388). -/
def State.pass (s : State) (dt : Nat) : State :=
  { s with cycle := s.cycle + dt
           monitors := s.monitors.map (fun (e : Nat × Monitor) =>
             if e.2.src == 2 && decide (e.2.target < 1024) then (e.1, e.2.sample (s.cycle + dt) (s.quad e.2.target).lodge.length dt) else e) }

end Sys2Proof.Machine
end

