-- ==== Sys2Proof/Machine/Sched.lean ====
section
/-! DEFINITION. The scheduler of a quadrant: parked groups, the rotating-age queue, the broadcast stream and its fetch, loop
buffers, sequencers, huts and verified execution (R107, R120, R123 to R127, R187, R213, R279, R369). -/
namespace Sys2Proof.Config

/-- Free value (log 7): which agent moves next, and after how many cycles, when the schedule names no one. -/
opaque freeTurn : Nat → Nat × Machine.Turn

end Sys2Proof.Config

namespace Sys2Proof.Machine

/-- Commands that may wait at an engine (R254). -/
def engineRoom : Nat := 64

/-- The commands a core's engine holds (R254). -/
def State.engineHeld (s : State) (core : Nat) : Nat := (s.cmds.filter (fun c => c.core == core)).length

/-- A team of a cluster by its index. -/
def State.mate (s : State) (r : TeamRef) (cteam : Nat) : Option Team := s.team? { r with cteam := cteam }

/-- The condition a parked group waits for has come (R126, R229, R231, R236, R268, R342 to R344). -/
def State.parkMet (s : State) (t : Team) (g : Group) (quad : Nat) (p : Park) : Bool :=
  match p with
  | .lodge need => decide (need + (s.quad quad).lodge.length ≤ 64)
  | .pending ops => ops.all (fun i => t.pend.all (fun op => op.id != i))
  | .handle h => decide ((g.hreg h).st ≠ .pending)
  | .allHandles => g.h.all (fun h => decide (h.st ≠ .pending))
  | .engineFull => decide (s.engineHeld t.core < engineRoom)
  | .barrier n => t.phase n != g.lp.getLsbD n
  | .ringStage r x full => t.ringFull r x == full
  | .barObject a ph => (t.barObj a).phase != ph
  | .absent c lines => match s.mate t.ref c with | some m => lines.all m.present | none => false
  | .drainPort _ => g.bound.isSome
  | .stores => g.storeQ.isEmpty
  | .icinv .. => false
  | .valueQueue => decide (g.valueQueue.length < 64)

/-- The groups resident on a quadrant with their teams, ascending group place. -/
def State.groupsOn (s : State) (q : Nat) : List (Team × Group) :=
  let all := s.clusters.flatMap (fun c => c.teams.flatMap (fun t =>
    if t.quads.contains q then (t.groups.filter (fun g => g.slot == t.slotOf q)).map (fun g => (t, g)) else []))
  (List.range 16).flatMap (fun p => all.filter (fun x => x.2.place == p))

/-- Parked groups whose condition has come become ready and join the queue at its tail, ascending place (R127). -/
def State.wakeQuad (s : State) (q : Nat) : State :=
  (s.groupsOn q).foldl (fun s (t, g) =>
    match g.parked with
    | none => s
    | some p =>
      match s.team? t.ref with
      | none => s
      | some t =>
        if !s.parkMet t g q p then s
        else
          let g := match p with
            | .barrier n => (match t.barriers[n]? with | some b => g.passed b | none => g)
            | _ => g
          let g := { g with parked := none }
          let t := t.setGroup g
          let s := s.setTeam t
          if t.ready g then s.updQuad q (fun x => { x with queue := x.queue ++ [(t.ref, g.place)] }) else s) s

/-- The first group of the queue that is ready and not halted, and the rest of the queue, in which halted groups keep their order (R127, R372). -/
def State.headReady (s : State) (q : Nat) : List (TeamRef × Nat) → Option (TeamRef × Nat) × List (TeamRef × Nat)
  | [] => (none, [])
  | (r, p) :: rest =>
    match s.team? r with
    | some t => match t.group? (t.slotOf q) p with
      | some g =>
        if !t.ready g then s.headReady q rest
        else if s.frozen q r.vf then (let (h, l) := s.headReady q rest; (h, (r, p) :: l))
        else (some (r, p), rest)
      | none => s.headReady q rest
    | none => s.headReady q rest

/-- The head of the queue wins the slot when it is free (R127); nothing wins while lanes are to be steered (R100). -/
def State.arbitrate (s : State) (q : Nat) : State :=
  let x := s.quad q
  if x.holder.isSome || x.steering.isSome || x.dead then s
  else
    match s.headReady q x.queue with
    | (none, rest) => s.setQuad q { x with queue := rest }
    | (some h, rest) =>
      let s := s.setQuad q { x with holder := some h, queue := rest }
      s.diag q h.1.vf 1 (· + 1)

/-- A pc below another, as a number. -/
def leastPc : List Pc → Option Pc
  | [] => none
  | p :: rest => match leastPc rest with
    | none => some p
    | some q => if p.toNat ≤ q.toNat then some p else some q

/-- The instruction a thread may run from its loop buffer, where the buffers are its group's (R123, R124). -/
def Thread.lbOf (x : Thread) (own : Bool) : Option Instr := if own then x.lbNext else none

/-- The states of a group's threads at an instruction boundary, and the broadcast address; `own` says that the loop buffers are the group's (R123). A
boundary lies after each repetition too, and a repetition left behind by a lower address goes on when the stream comes back to it; until then its threads
wait, since only the stream repeats (R129). A group woken by a drain-port entry resumes at the reading instruction (R162).
The address is chosen at every turn of the quadrant, so also again while a broadcast instruction waits in place (DEDUCED, log 8). -/
def Team.subscribe (t : Team) (own : Bool) (g : Group) : Team × Option Pc :=
  let upd (t : Team) (h : Thread → Thread) : Team := { t with threads := t.threads.map (fun x => if g.owns x && x.st.here then h x else x) }
  let t := upd t (fun x => if decide (x.st = .lb) && (x.lbOf own).isNone then { x with st := .wait } else x)
  let least : Option Pc := leastPc (((t.members g).filter (fun (x : Thread) => decide (x.st = .sub) || decide (x.st = .wait))).map (·.pc))
  let next : Option Pc := match g.bound with
    | some e => if (t.members g).any (fun (x : Thread) => decide (x.st = .sub) && x.pc == e.pc) then some e.pc else least
    | none => least
  match next with
  | none => (t, none)
  | some b =>
    (upd t (fun x => if x.pc = b then { x with st := .sub }
                     else if x.st = .sub then { x with st := if (x.lbOf own).isSome && (g.repAt x.pc).isNone then .lb else .wait } else x), some b)

/-- A fetch fault or the instruction a slot holds (R107, R120). -/
inductive Fetched where
  | fault (cause reason : Nat)
  | miss
  | wait
  | word (w : IWord)
  deriving DecidableEq, Repr

/-- A cached line (R107). -/
def State.iline (s : State) (core v line : Nat) : Option ILine :=
  (s.icache.get core []).find? (fun l => l.ctx == v && l.line == line)

/-- The fetch of one slot: a missing line is translated first, and one that may not be fetched is XFETCH (R120); a line with
set bits in [18:0] is FMT, a slot that failed parity twice is PARITY, and an uncorrectable line delivers its error (R107). -/
def State.fetch (s : State) (core v : Nat) (pc : Pc) : Fetched × State :=
  let line := pc.toNat / 64
  match s.iline core v line with
  | some l =>
    if l.error then (.fault 0x20 0, { s with icache := s.icache.set core ((s.icache.get core []).filter (fun (x : ILine) => !(x.ctx == v && x.line == line))) })
    else if l.word.toNat % 2 ^ 19 ≠ 0 then (.fault 0x01 0, s)
    else
      let slot := pc.toNat % 64 / 12
      if l.bad.getLsbD slot then (.fault 0x02 0, s) else (.word (l.slots.getD slot 0), s)
  | none =>
    if s.walkStuck core v (line * 64) .fetch then (.wait, s.waitWalk core v (line * 64))
    else match s.translate core v (line * 64) .fetch with
    | (.error .uncorrectable, s) => (.fault 0x20 0, s)
    | (.error .pageFault, s) => (.fault 0x04 0x22, s)
    | (.error _, s) => (.fault 0x04 0x21, s)
    | (.ok _, s) => (.miss, s)

/-- What a turn of the schedule does: an instruction executes in a state, or the turn is over. -/
abbrev Turned := State × Option Instr

/-- Whether a class may be issued by a role, whatever the opcode (R115). -/
def clsRole (c : Cls) (r : Role) : Bool :=
  match r with
  | .vector => match c with | .vec | .scl | .mem | .ctl | .sys | .pfx => true | _ => false
  | .porter => match c with | .scl | .asy | .sys | .ctl | .pfx => true | _ => false
  | .sequencer => match c with | .mtx | .pfx => true | _ => false

/-- The trap of a word whose opcode is reserved: ILLROLE before ILLOP (R119). -/
def reservedCause (w : IWord) (r : Role) : Nat := if clsRole (Cls.decode (fieldOf w 92 3)) r then 0x11 else 0x10

/-- A cluster's first instruction issues (R366). -/
def State.markRunning (s : State) (r : TeamRef) : State :=
  match s.clusterOf r with
  | some c => if c.st = .placed then s.putCluster { c with st := .running } else s
  | none => s

/-- A fetch of an issuer, ending in an instruction, a line fill, or a trap. -/
def State.fetchTurn (s : State) (core : Nat) (w : TrapSite) (lanes : BitVec 32) (repIdx : Nat) (pc : Pc) (role : Role) (cur : Issuer) : Turned :=
  match s.fetch core w.team.vf pc with
  | (.wait, s) => (s, none)
  | (.miss, s) => ({ s with cur := .module }, some (.icacheFill core w.team.vf (pc.toNat / 64) 0))
  | (.fault cause reason, s) =>
    (s.trapAt w { cause := BitVec.ofNat 8 cause, reason := BitVec.ofNat 8 reason, code := 0, pc := pc, repIdx := BitVec.ofNat 6 repIdx, lanes := lanes,
                    addr := if cause = 0x04 then BitVec.ofNat 64 (pc.toNat / 64 * 64) else 0, resumable := causeResumable cause }, none)
  | (.word x, s) =>
    let s := s.markRunning w.team
    match decodeWord x with
    | some i => ({ s with cur := cur, curWord := x }, some i)
    | none =>
      let cause := reservedCause x role
      (s.trapAt w { cause := BitVec.ofNat 8 cause, reason := 0, code := 0, pc := pc, repIdx := BitVec.ofNat 6 repIdx, lanes := lanes, addr := 0,
                      resumable := false }, none)

/-- The 24 cycles in which a group issued only from loop buffers are over (R126). -/
def Group.lbOver (g : Group) (now : Nat) : Bool := decide (24 ≤ g.lbCycles) && g.lbAt != some now

/-- A quadrant's turn: groups wake, the slot is arbitrated, and the holder's broadcast stream issues one instruction; with no
thread in SUB or WAIT it idles, and the run ends after 24 cycles of loop buffers alone (R123 to R127). -/
def State.quadTurn (s : State) (q : Nat) : Turned :=
  let s := (s.wakeQuad q).arbitrate q
  match (s.quad q).holder with
  | none => (s, none)
  | some (r, place) =>
    match s.team? r with
    | none => (s.updQuad q (fun x => { x with holder := none }), none)
    | some t =>
      match t.group? (t.slotOf q) place with
      | none => (s.updQuad q (fun x => { x with holder := none }), none)
      | some g =>
        let own := s.ownsBuffers q r place
        match t.subscribe own g with
        | (t, some b) =>
          let s := s.setTeam t
          let lanes := laneMask (((t.members g).filter (fun x => decide (x.st = .sub))).map (fun x => g.virt x.lane))
          s.fetchTurn t.core { team := r, quad := q, place := place, seq := false } lanes (match g.repAt b with | some x => x.idx | none => 0) b
            (if g.porter then .porter else .vector) (.group q r place)
        | (t, none) =>
          let s := s.setTeam t
          if g.lbOver s.cycle then (s.endRun r q place, none)
          else if (t.members g).any (t.lbCanIssue own g) then (s, none)
          else
            let ops := (t.members g).flatMap (fun x => match x.lbOf own with
              | some i => match i.form with | some (fm, f) => t.lbAwaits g x fm f | none => []
              | none => [])
            if ops.isEmpty then (s, none) else (s.park r q place (.pending ops), none)

/-- A loop-buffer lane of the holder executes one instruction of its own (R125), unless the 24 cycles of its run are over (R126). -/
def State.lbTurn (s : State) (q lane : Nat) : Turned :=
  match (s.quad q).holder with
  | none => (s, none)
  | some (r, place) =>
    match s.team? r with
    | none => (s, none)
    | some t =>
      match t.group? (t.slotOf q) place with
      | none => (s, none)
      | some g =>
        if g.lbOver s.cycle && t.allLb g then (s.endRun r q place, none)
        else match (t.members g).find? (fun x => x.lane == lane && decide (x.st = .lb)) with
        | none => (s, none)
        | some x =>
          match x.captured, x.lbOf (s.ownsBuffers q r place) with
          | some e, some i => ({ s with cur := .lane q r place lane, curWord := e.word }, some i)
          | _, _ => (s.setTeam (t.setThread { x with st := .wait }), none)

/-- The team whose stream runs on a quadrant: one whose context is not halted there, if there is one. -/
def State.seqTeam (s : State) (q : Nat) : Option (Team × Seq) :=
  (s.clusters.flatMap (fun c => c.teams)).findSome? (fun t =>
    if t.quads.contains q && !s.frozen q t.ref.vf then (t.seqs.find? (fun x => x.slot == t.slotOf q)).map (fun x => (t, x)) else none)

/-- A sequencer's turn: unless its context is halted there (R213) it issues in program order (R187). -/
def State.seqTurn (s : State) (q : Nat) : Turned :=
  match s.seqTeam q with
  | none => (s, none)
  | some (t, x) =>
    if x.exited || x.trap.isSome then (s, none)
    else
      let idx := match x.repNow with | some r => r.idx | none => 0
      s.fetchTurn t.core { team := t.ref, quad := q, place := 0, seq := true } 0 idx x.pc .sequencer (.seq q t.ref x.slot)

/-- Bytes `lo` to `lo + n - 1` of a command block (R286, R297). -/
def Cmd.field (c : Cmd) (lo n : Nat) : Nat := c.shape.toNat / 2 ^ (8 * lo) % 2 ^ (8 * n)
def Cmd.deadline (c : Cmd) : Nat := c.field 6 2

/-- A near-memory command's deadline has fallen: from then on none of its huts takes a step and none of its lists is taken (R294, R301). -/
def State.past (s : State) (c : Cmd) : Bool := c.accepted && decide (6 ≤ c.op) && decide (c.acceptedAt + 1024 * c.deadline ≤ s.cycle)

/-- A hut's turn: the word at its index, or the end of its run at index PLEN (R279, R285). -/
def State.hutTurn (s : State) (h : Nat) : Turned :=
  let x := s.hut h
  match x.running with
  | none => (s, none)
  | some id =>
    if s.cmds.any (fun (c : Cmd) => c.id == id && s.past c) then (s, none) else
    let plen := match x.tag with | some (_, _, n) => n | none => 96
    if plen ≤ x.pc then ({ s with cur := .hut h }, some .hend)
    else
      match decodeHut (x.ib.getD x.pc 0) with
      | some i => ({ s with cur := .hut h }, some i)
      | none => (s, none)

/-- The second of a group under verified execution takes the oldest value of the queue, or reports its comparison of the oldest held item: it
matches and is released, or differs, which is a consumed uncorrectable error (R369, R370). Which of the two it does is a free value (log 2). -/
def State.secondTurn (s : State) (q place : Nat) (agrees : Bool) : State :=
  match (s.groupsOn q).find? (fun x => x.2.place == place) with
  | none => s
  | some (t, g) =>
    match s.clusterOf t.ref with
    | none => s
    | some c =>
      if !c.verify then s
      else if !agrees then s.consume t.ref
      else
        let (takes, s) := s.freeBool
        if takes && !g.valueQueue.isEmpty then s.setTeam (t.setGroup { g with valueQueue := g.valueQueue.drop 1 })
        else
        let rec release : List SqEntry → List SqEntry
          | [] => []
          | e :: rest => if e.unverified then { e with unverified := false } :: rest else e :: release rest
        let mine (k : Cmd) : Bool := k.team == t.ref && k.place == g.key && k.unverified
        let g' := if g.storeQ.any (·.unverified) then { g with storeQ := release g.storeQ }
                  else if s.cmds.any mine then g else { g with arrived := g.arrived || g.heldAt.isSome }
        let s := if g.storeQ.any (·.unverified) then s else match s.cmds.find? mine with
          | some k => { s with cmds := s.cmds.map (fun (x : Cmd) => if x.id == k.id then { x with unverified := false } else x) }
          | none => s
        s.setTeam (t.setGroup g')

/-- A VF is idle (R392). -/
def State.idle (s : State) (v : Nat) : Bool :=
  let f := s.vf v
  f.created && f.feature 4 && decide (f.wclass ≤ 2) && !f.holdoff && decide (f.runstate ≠ .paused) && s.launches.all (fun (l : Launch) => l.vf != v) &&
    (List.range f.nwq).all (fun q => (f.queues.get q VQueue.reset).avail.isEmpty) && f.held.isEmpty &&
    s.cmds.all (fun (k : Cmd) => k.team.vf != v) && !(s.ctx v).hbusy && !(s.ctx v).ibusy

/-- The idle timer of a VF that is not idle is 0, whatever the last turn changed (R392). -/
def State.restTimers (s : State) : State :=
  { s with vfs := s.vfs.map (fun (e : Nat × Vf) => (e.1, if e.2.timer = 0 || s.idle e.1 then e.2 else { e.2 with timer := 0 })) }

/-- One turn, before which writes of the module itself that waited are made where they can be; while every rail is off (R399), only the arrival of input power and the management controller's reset (R402, R404) do anything. -/
def State.turn (s : State) (u : Turn) : Turned :=
  let s := s.settleOwed.restTimers
  if s.boot.railsOff && !(match u with | .event .powerOn | .event .oobReset => true | _ => false) then (s, none)
  else match u with
  | .event i => ({ s with cur := .module }, some i)
  | .quad q => s.quadTurn q
  | .lb q l => s.lbTurn q l
  | .seq q => s.seqTurn q
  | .hut h => s.hutTurn h
  | .second q p a => (s.secondTurn q p a, none)
  | .idle => (s, none)

/-- The time a wake may take, in cycles: 50 µs for W0, 2 ms for W1, 40 ms for W2 (R394). -/
def wakeBound (wclass : Nat) : Nat := Config.cyclesPerUs * (if wclass = 0 then 50 else if wclass = 1 then 2000 else 40000)

/-- The cycles that pass before a turn: as many as the schedule gives, but none beyond the bound of a wake that is not complete (R394; log 67). -/
def State.lapse (s : State) (dt : Nat) : Nat :=
  s.vfs.foldl (fun d (e : Nat × Vf) => match e.2.bstate, e.2.wakeAt with
    | .waking, some t => min d (t + wakeBound e.2.wclass - s.cycle)
    | _, _ => d) dt

/-- The next turn: the head of the agenda, or a free one when the agenda is empty (log 7); the cycles before it have passed. -/
def State.nextTurn (s : State) : Turn × State :=
  match s.agenda with
  | (dt, u) :: rest => (u, { s with agenda := rest }.pass (s.lapse dt))
  | [] => let (dt, u) := Config.freeTurn s.tick; (u, { s with tick := s.tick + 1 }.pass (s.lapse dt))

end Sys2Proof.Machine
end

