-- ==== Sys2Proof/Machine/Regroup.lean ====
section
/-! DEFINITION. Direct and indirect targets (R103 to R105), the compaction unit, the reorder unit and the spawn pool
(R130 to R134). -/
namespace Sys2Proof.Machine

/-! ### Targets -/

/-- A legal program counter (R103). -/
def legalPc (x : Nat) : Bool := decide (x < 2 ^ 57) && [0, 12, 24, 36, 48].contains (x % 64)

/-- The target of a direct transfer, or none where it is an illegal line (R104). -/
def branchTarget (pc : Pc) (imm : BitVec 32) : Option Nat :=
  let line : Int := (pc.toNat / 64 : Nat) + sextNat 29 (imm.toNat / 8)
  if line < 0 ∨ 2 ^ 51 ≤ line then none else some (line.toNat * 64 + 12 * (imm.toNat % 8))

/-- Lines of 64 bytes that an instruction cache of 128 KiB holds (R16). -/
def icacheLines : Nat := 2048

/-- A line enters the cache of a core; a full one gives up a line first, which one is free (log 2). -/
def State.cacheLine (s : State) (core : Nat) (x : ILine) : State :=
  let l := s.icache.get core []
  if l.length < icacheLines then { s with icache := s.icache.set core (l ++ [x]) }
  else let (n, s) := s.freeNat; { s with icache := s.icache.set core (l.eraseIdx (n % l.length) ++ [x]) }

/-- A fetch that waits on a dark direction: from 2^21 cycles on it is delivered as uncorrectable, as a walk and a load are (R401 does not name it; DEDUCED, log 56). -/
def State.fetchDark (s : State) (core ctx line : Nat) : State :=
  let mine (x : Nat × Nat × Nat × Nat) : Bool := x.1 == core && x.2.1 == ctx && x.2.2.1 == line
  match s.lineWait.find? mine with
  | none => { s with lineWait := s.lineWait ++ [(core, ctx, line, s.cycle)] }
  | some x =>
    if s.overdue x.2.2.2 then { s with lineWait := s.lineWait.erase x }.cacheLine core { ctx := ctx, line := line, slots := [], word := 0, bad := 0, error := true } else s

/-- The read of an instruction line at its home: it waits, it cannot be translated, or it has been read. -/
inductive LineRead where
  | waits (s : State)
  | fails (s : State)
  | line (l : Line) (s : State)

/-- A line of a context read for a core, coherently with stores of any party (R322, R327). -/
def State.readLine (s : State) (core v line : Nat) : LineRead :=
  if s.walkStuck core v (line * 64) .fetch then .waits (s.waitWalk core v (line * 64))
  else
    match s.translate core v (line * 64) .fetch with
    | (.error _, s) => .fails s
    | (.ok l, s) =>
      match s.reach (core / 32) v [l.pa / 64] [] with
      | .waits dark s => .waits (if dark then s.fetchDark core v line else s)
      | .go s => .line l s

/-- A transfer may go to `x`: a legal program counter whose slot has TGT set (R105); none while the line of the target has still to be read. A line that cannot be
fetched passes here and raises its own fetch fault at the slot (DEDUCED, log 11). -/
def State.targetOk (s : State) (core v x : Nat) : Option Bool × State :=
  if !legalPc x then (some false, s)
  else
    let slot := x % 64 / 12
    match s.iline core v (x / 64) with
    | some l => (some (l.error || l.word.getLsbD (27 + slot)), s)
    | none =>
      match s.readLine core v (x / 64) with
      | .waits s => (none, s)
      | .fails s => (some true, s)
      | .line l s => (some (s.badAt l.pa 64 || (s.mem.nat (l.pa + 60) 4).testBit (27 + slot)), s)

/-- The targets of a list that may not be transferred to; none while the line of one has still to be read. -/
def State.targetsOk (s : State) (core v : Nat) : List Nat → Option (List Nat) × State
  | [] => (some [], s)
  | x :: rest =>
    let (ok, s) := s.targetOk core v x
    let (bad, s) := s.targetsOk core v rest
    (match ok, bad with
      | some ok, some bad => some (if ok then bad else x :: bad)
      | _, _ => none, s)

/-! ### Emission (R132) -/

/-- The slot of a position (R93). -/
def Team.slotOfBlock (t : Team) (block : Nat) : Nat := block % t.slots

/-- A thread waiting in a bin of the unit, whatever the bin: position, target, arrival order, and the registers that travel. -/
structure Arrival where
  block : Nat
  lane : Nat
  target : Nat
  order : Nat
  regs : GroupRegs
  deriving DecidableEq, Repr

/-- The threads of one visible lane, earliest arrival first, ties to the lower block; by target first for leftovers. -/
def laneOrder (byTarget : Bool) (l : List Arrival) (lane : Nat) : List Arrival :=
  sortBy (fun a b => lt3 (if byTarget then a.target else 0, a.order, a.block) (if byTarget then b.target else 0, b.order, b.block))
    (l.filter (fun a => a.lane == lane))

/-- Lane by lane, the j-th arrival. -/
def rowOf (lanes : List (List Arrival)) (j : Nat) : List (Option Arrival) := lanes.map (fun l => l[j]?)

/-- A group from one arrival per lane, with the lowest target among them. Its s- and b-registers are those of its lowest lane's arrival; of `cairnkey` none
of its threads may see an older value than before, and its last write is the last that one of their groups made (R132, R173). -/
def seedOf (slot : Nat) (row : List (Option Arrival)) : List (Nat × GroupSeed) :=
  match row.findSome? id with
  | none => []
  | some first =>
    let low := row.foldl (fun m o => match o with | some a => min m a.target | none => m) first.target
    let key := row.foldl (fun m o => match o with | some a => max m a.regs.keyFrom | none => m) 0
    let wrote := row.foldl (fun m o => match o with | some a => max m a.regs.wrote | none => m) 0
    [(low, { slot := slot, remap := row.map (fun o => o.map (·.block)), regs := { first.regs with keyFrom := key, wrote := wrote } })]

/-- The groups that come from the arrivals of one kind in one slot: dense groups of each target, then, when they are due,
leftover groups; in the order of R132. What stays is what no group took. -/
def emitKind (slot : Nat) (items : List Arrival) (leftover : Bool) : List GroupSeed × List Arrival :=
  let lanesOf (byT : Bool) (l : List Arrival) := (List.range 32).map (laneOrder byT l)
  let dense (l : List Arrival) : List (List (Option Arrival)) :=
    let lanes := lanesOf false l
    let n := lanes.foldl (fun m x => min m x.length) l.length
    (List.range n).map (rowOf lanes)
  let rows := (distinct (items.map (·.target))).flatMap (fun tg => dense (items.filter (fun a => a.target == tg)))
  let taken := rows.flatMap (fun r => r.filterMap id)
  let rest := items.filter (fun a => !taken.any (fun b => b.block == a.block && b.lane == a.lane))
  let lanes := lanesOf true rest
  let left := if leftover then (List.range rest.length).flatMap (fun j => seedOf slot (rowOf lanes j)) else []
  let all := rows.flatMap (seedOf slot) |>.map (fun x => (x.1, 0, x.2))
  let groups := sortBy (fun (a b : Nat × Nat × GroupSeed) => lt3 (a.1, a.2.1, 0) (b.1, b.2.1, 0)) (all ++ left.map (fun x => (x.1, 1, x.2)))
  (groups.map (fun x => x.2.2), if leftover then [] else rest)

/-! ### The reconvergence stack (R130, R131) -/

/-- A thread of the unit as an arrival. -/
def BinItem.arrival (b : BinItem) : Arrival := { block := b.block, lane := b.lane, target := b.target.toNat, order := b.order, regs := b.regs }

/-- Positions as pairs. -/
def Thread.pos (t : Thread) : Nat × Nat := (t.block, t.lane)

/-- The entry at the top of the stack. -/
def Team.topEntry (t : Team) : Option CEntry := t.stack.getLast?

/-- A position leaves the group whose table names it: the entry is empty, and the group's virtual lanes are numbered anew (R122). -/
def Team.vacate (t : Team) (x : Thread) : Team :=
  { t with groups := t.groups.map (fun g => if g.owns x then { g with remap := g.remap.set x.lane none } else g) }

/-- A thread leaves its group for a unit: HELD, and in no group, at its next program counter, with an empty loop buffer (R123). -/
def Team.hold (t : Team) (x : Thread) (pc : Pc) (entry : Option Nat) : Team :=
  (t.setThread { x with st := .held, pc := pc, entry := entry, lbuf := [] }).vacate x

/-- A thread arrives at `bdiv` (R130, R131, R148): it enters the top entry, pushes one, or, with 16 entries, only branches. -/
def Team.arriveSite (t : Team) (x : Thread) (site target : Pc) (regs : GroupRegs) (order now : Nat) : Team :=
  let item : BinItem := { block := x.block, lane := x.lane, target := target, join := false, at_ := now, order := order, regs := regs }
  let enter (e : CEntry) : CEntry := { e with expect := e.expect.filter (· != x.pos), inside := e.inside ++ [x.pos], bins := e.bins ++ [item] }
  match t.topEntry with
  | some e =>
    if e.pc = site ∧ x.entry = e.parent then
      { t with stack := t.stack.map (fun (y : CEntry) => if y.id == e.id then enter y else y) }.hold x target (some e.id)
    else push t enter
  | none => push t enter
where
  push (t : Team) (enter : CEntry → CEntry) : Team :=
    if 16 ≤ t.stack.length then t.setThread { x with pc := target }
    else
      let expect := (t.threads.filter (fun y => !y.porter && decide (y.st ≠ .done) && y.entry == x.entry)).map Thread.pos
      let e : CEntry := enter { id := t.nextEntry, pc := site, parent := x.entry, expect := expect, inside := [], bins := [] }
      { t with stack := t.stack ++ [e], nextEntry := t.nextEntry + 1 }.hold x target (some e.id)

/-- A thread under an entry arrives at `join` (R131, R148). -/
def Team.arriveJoin (t : Team) (x : Thread) (entry : Nat) (next : Pc) (regs : GroupRegs) (order now : Nat) : Team :=
  let item : BinItem := { block := x.block, lane := x.lane, target := next, join := true, at_ := now, order := order, regs := regs }
  { t with stack := t.stack.map (fun (e : CEntry) => if e.id == entry then { e with inside := e.inside.filter (· != x.pos), bins := e.bins ++ [item] } else e) }.hold
    x next (some entry)

/-- A thread has exited: it leaves every expectation (R131, R152). -/
def Team.leaveEntries (t : Team) (p : Nat × Nat) : Team :=
  { t with stack := t.stack.map (fun e => { e with expect := e.expect.filter (· != p), inside := e.inside.filter (· != p) }) }

/-- Which leftovers of an entry are forced out. -/
structure Force where
  site : Bool
  join : Bool
  deriving DecidableEq, Repr

/-- What one entry emits now from its site bins, its join bins or both: dense groups, and the leftovers that are due (R131, R132). -/
def Team.emitBins (t : Team) (e : CEntry) (force : Force) (kinds : List Bool) : Team :=
  let kind (slot : Nat) (join : Bool) : List GroupSeed × List Arrival :=
    emitKind slot ((e.bins.filter (fun b => b.join == join && t.slotOfBlock b.block == slot)).map BinItem.arrival)
      (if join then force.join || e.inside.isEmpty else force.site || e.expect.isEmpty)
  let outs := (List.range t.slots).flatMap (fun slot => kinds.map (kind slot))
  let kept := outs.flatMap (·.2)
  let stays (b : BinItem) : Bool := !kinds.contains b.join || kept.any (fun a => a.block == b.block && a.lane == b.lane)
  let joined := (e.bins.filter (fun b => b.join && !stays b)).map (fun b => (b.block, b.lane))
  { t with waiting := t.waiting ++ outs.flatMap (·.1)
           stack := t.stack.map (fun x => if x.id == e.id then { x with bins := x.bins.filter stays } else x)
           threads := t.threads.map (fun x => if joined.contains x.pos then { x with entry := e.parent } else x) }

/-- Both kinds of bins of an entry: site bins come before join bins. -/
def Team.emitEntry (t : Team) (e : CEntry) (force : Force) : Team := t.emitBins e force [false, true]

/-- The lowest program counter among the threads of a formed group, all of them HELD at their targets. -/
def Team.seedTarget (t : Team) (d : GroupSeed) : Nat :=
  match leastPc ((d.remap.mapIdx (fun l b => b.bind (fun n => (t.thread? n l).map (·.pc)))).filterMap id) with
  | some p => p.toNat
  | none => 0

/-- The groups that one kind of bins of several entries emits at once stand in ascending slot, then target (R132). -/
def Team.emitOver (t : Team) (kind : Bool) : Team :=
  let u := t.stack.foldl (fun (u : Team) e => u.emitBins e { site := false, join := false } [kind]) t
  { u with waiting := t.waiting ++ sortBy (fun (a b : GroupSeed) => lt3 (a.slot, u.seedTarget a, 0) (b.slot, u.seedTarget b, 0)) (u.waiting.drop t.waiting.length) }

/-- Entries every thread of which has left, with empty bins, are popped (R131). -/
def Team.popEntries (t : Team) : Team := { t with stack := t.stack.filter (fun e => !(e.inside.isEmpty && e.bins.isEmpty)) }

/-! ### Reorder (R133) -/

/-- A vector thread of a slot is live outside HELD. -/
def Team.vectorHere (t : Team) (slot : Nat) : Bool :=
  t.threads.any (fun x => !x.porter && t.slotOfBlock x.block == slot && x.st.here)

/-- A register kept by a mask. -/
def keptRegs (mask : BitVec 32) (v : List VReg) : List VReg := v.mapIdx (fun n x => if mask.getLsbD (n / 8) then x else VReg.zero)

/-- The reorder unit of a slot closes: threads in key order are moved to the positions of the arrived threads, chunk by chunk (R133). -/
def Team.regroup (t : Team) (slot : Nat) : Team :=
  let items := t.reorder.get slot []
  let rank (i : ReorderItem) : Nat := (items.filter (fun j => j.lane == i.lane && decide (j.block < i.block))).length
  let places := sortBy (fun (a b : ReorderItem) => lt3 (rank a, a.lane, 0) (rank b, b.lane, 0)) items
  let uOf (i : ReorderItem) : Nat := match t.thread? i.block i.lane with | some x => x.u | none => 0
  let byKey := sortBy (fun (a b : ReorderItem) => lt3 (a.key, uOf a, 0) (b.key, uOf b, 0)) items
  let moves := byKey.zip places
  let dest (p : Nat × Nat) : Nat × Nat := match moves.find? (fun m => (m.1.block, m.1.lane) == p) with
    | some m => (m.2.block, m.2.lane)
    | none => p
  let threads := t.threads.map (fun x => match moves.find? (fun m => (m.2.block, m.2.lane) == x.pos) with
    | none => x
    | some m => match t.thread? m.1.block m.1.lane with
      | some y => { y with block := x.block, lane := x.lane, v := keptRegs m.1.mask y.v, lbuf := [] }
      | none => x)
  let chunks := (List.range 16).flatMap (fun r =>
    let mine := moves.filter (fun m => rank m.2 == r)
    match mine with
    | [] => []
    | first :: _ => [{ slot := slot, regs := { first.1.regs with keyFrom := mine.foldl (fun m x => max m x.1.regs.keyFrom) 0, wrote := mine.foldl (fun m x => max m x.1.regs.wrote) 0 }
                       remap := (List.range 32).map (fun l => (mine.find? (fun m => m.2.lane == l)).map (fun m => m.2.block)) : GroupSeed }])
  let moveBin (b : BinItem) : BinItem := { b with block := (dest (b.block, b.lane)).1, lane := (dest (b.block, b.lane)).2 }
  { t with threads := threads, reorder := t.reorder.del slot, waiting := t.waiting ++ chunks
           stack := t.stack.map (fun e => { e with expect := e.expect.map dest, inside := e.inside.map dest, bins := e.bins.map moveBin }) }

/-! ### The spawn pool (R134) -/

/-- The registers a group starts with (R34, R97, R134). -/
def Launch.startRegs (l : Launch) : GroupRegs :=
  { s := SReg.zero :: (l.pkt.args.take 4).map (fun a => { val := a, poison := none }) ++ List.replicate 59 SReg.zero
    b := (List.range 16).map (fun k => { bits := if (l.kd.decl / 16 ^ k).testBit 0 then l.recs.get k 0 else 0, poison := none, reason := 0 })
    lp := 0, keyFrom := 0, wrote := 0 }

/-- The free position an entry of the pool takes: lowest slot, lane, block (R134). -/
def Team.freePosition (t : Team) : Option Thread :=
  (sortBy (fun (a b : Thread) => lt3 (t.slotOfBlock a.block, a.lane, a.block) (t.slotOfBlock b.block, b.lane, b.block))
    (t.threads.filter (fun x => decide (x.st = .done)))).head?

/-- A block that no team has: what a thread that is gone would have been given has it as its destination. -/
def deadBlock : Nat := 2 ^ 16

/-- What is still on its way to the registers of a position no longer reaches them, what an atomic in a store queue will return included: the thread it was for
has exited, and the new one starts with its registers as R97 says (DEDUCED, log 53). -/
def Team.forget (t : Team) (x : Thread) : Team :=
  let mine (b l : Nat) : Bool := b == x.block && l == x.lane
  let unreturned (e : SqEntry) : SqEntry := match e.item with
    | .atomic k u w ls dst op => { e with item := .atomic k u w (ls.map (fun (a : AtomLane) => if mine a.block a.lane then { a with block := deadBlock } else a)) dst op }
    | .store _ => e
  { t with pend := t.pend.map (fun op => { op with
      vals := op.vals.filter (fun y => match y with | .v b l _ _ => !mine b l | _ => true)
      late := op.late.filter (fun y => match y.1 with | .lane b l _ _ _ => !mine b l | _ => true) })
           groups := t.groups.map (fun g => { g with storeQ := g.storeQ.map unreturned }) }

/-- Entries of the pool become threads while there are free positions. -/
def Team.drainPool (t : Team) : List SpawnItem → Team
  | [] => { t with pool := [] }
  | e :: rest =>
    match t.freePosition with
    | none => { t with pool := e :: rest }
    | some x =>
      let y : Thread := { Thread.start x.block x.lane x.v.length false e.pc 0 0 0 with tidX := e.tidX, tidY := e.tidY, tidZ := e.tidZ, st := .held }
      let t := ((t.setThread (y.setV 0 e.arg)).vacate x).forget x
      { t with spawned := t.spawned ++ [({ block := x.block, lane := x.lane, pc := e.pc, at_ := e.at_, order := t.nextEntry } : SpawnBin)], nextEntry := t.nextEntry + 1 }.drainPool rest

/-- The spawned threads of a slot that leave now (R132, R134). -/
def Team.emitSpawned (t : Team) (slot : Nat) (regs : GroupRegs) (force : Bool) : Team :=
  let mine := t.spawned.filter (fun b => t.slotOfBlock b.block == slot)
  let (out, kept) := emitKind slot (mine.map (fun b => { block := b.block, lane := b.lane, target := b.pc.toNat, order := b.order, regs := regs }))
    (force || !t.vectorHere slot)
  { t with waiting := t.waiting ++ out
           spawned := t.spawned.filter (fun b => t.slotOfBlock b.block != slot || kept.any (fun a => a.block == b.block && a.lane == b.lane)) }

/-! ### What the units do after any arrival or exit -/

/-- The units of a team emit what is due. -/
def Team.settle (t : Team) (regs : GroupRegs) : Team :=
  let t := ((t.emitOver false).emitOver true).popEntries
  let t := (List.range t.slots).foldl (fun (t : Team) slot => t.emitSpawned slot regs false) t
  (List.range t.slots).foldl (fun (t : Team) slot =>
    if !(t.reorder.get slot []).isEmpty && !t.vectorHere slot then t.regroup slot else t) t

/-- A group place of the team that no group holds in a slot (R121). -/
def Team.freePlace (t : Team) (slot : Nat) : Option Nat :=
  (sortBy (fun a b => decide (a < b)) (t.places.getD slot [])).find? (fun p => (t.group? slot p).isNone)

/-- Formed groups take free places in order; those without one wait (R132). -/
def State.placeSeeds (s : State) (r : TeamRef) : List GroupSeed → State
  | [] => s
  | d :: rest =>
    match s.team? r with
    | none => s
    | some t =>
      match t.freePlace d.slot with
      | none => (s.updTeam r (fun t => { t with waiting := t.waiting ++ [d] })).placeSeeds r rest
      | some p =>
        let quad := t.quads.getD d.slot 0
        let q := s.quad quad
        let g := Group.start p d.slot false d.remap d.regs
        let t := { t with groups := t.groups ++ [g]
                          threads := t.threads.map (fun x => if g.owns x then { x with st := .wait } else x) }
        let s := s.setTeam t
        let s := if t.ready g then s.setQuad quad { q with queue := q.queue ++ [(r, p)] } else s
        s.placeSeeds r rest

/-- Groups waiting for a place are placed as far as places are free. -/
def State.placeWaiting (s : State) (r : TeamRef) : State :=
  match s.team? r with
  | none => s
  | some t => (s.setTeam { t with waiting := [] }).placeSeeds r t.waiting

/-- The registers a group of a team's launch starts with. -/
def State.startRegs (s : State) (r : TeamRef) : GroupRegs :=
  match s.launch? r.vf r.launch with
  | some l => l.startRegs
  | none => { s := List.replicate 64 SReg.zero, b := List.replicate 16 BReg.null, lp := 0, keyFrom := 0, wrote := 0 }

/-- The units of a team emit what is due, and formed groups take places. -/
def State.settleTeam (s : State) (r : TeamRef) : State :=
  (s.updTeam r (fun t => t.settle (s.startRegs r))).placeWaiting r

/-! ### Timed steps of the units (R131 to R134) -/

/-- 256 cycles have passed since the earliest of some times. -/
def due (now : Nat) (times : List Nat) : Bool := times.any (fun a => decide (a + 256 ≤ now))

/-- The clocks of a team stop while it is halted (R131). -/
def Team.clocksRun (t : Team) : Bool := t.haltedAt.isNone

/-- A compaction entry emits the leftovers whose clock has run out. -/
def execCompactionTimeout (team : TeamRef) (entry : Nat) (s : State) : Host.Outcome State Fault Refusal :=
  module s (fun s =>
    match s.team? team with
    | none => s
    | some t =>
      match t.stack.find? (fun e => e.id == entry) with
      | none => s
      | some e =>
        if !t.clocksRun then s
        else
          let times (join : Bool) := (e.bins.filter (fun b => b.join == join)).map (·.at_)
          let t := t.emitEntry e { site := due s.cycle (times false), join := due s.cycle (times true) }
          (s.setTeam t).settleTeam team)

/-- Groups that waited for a place take one that has become free. -/
def execEmittedGroupPlace (team : TeamRef) (s : State) : Host.Outcome State Fault Refusal :=
  module s (fun s => s.placeWaiting team)

/-- The reorder unit of a slot closes 256 cycles after its first arrival. -/
def execReorderTimeout (team : TeamRef) (slot : Nat) (s : State) : Host.Outcome State Fault Refusal :=
  module s (fun s =>
    match s.team? team with
    | none => s
    | some t =>
      if t.clocksRun && due s.cycle ((t.reorder.get slot []).map (·.at_)) then (s.setTeam (t.regroup slot)).settleTeam team else s)

/-- Entries leave the pool for free positions, and what is due is emitted. -/
def execSpawnPoolEmit (team : TeamRef) (s : State) : Host.Outcome State Fault Refusal :=
  module s (fun s =>
    match s.team? team with
    | none => s
    | some t => if t.retired then s else (s.setTeam (t.drainPool t.pool)).settleTeam team)

/-- The spawned threads of a slot leave 256 cycles after the earliest of them was added to the pool. -/
def execSpawnLeftoverTimeout (team : TeamRef) (slot : Nat) (s : State) : Host.Outcome State Fault Refusal :=
  module s (fun s =>
    match s.team? team with
    | none => s
    | some t =>
      if t.clocksRun && due s.cycle ((t.spawned.filter (fun b => t.slotOfBlock b.block == slot)).map (·.at_)) then
        (s.setTeam (t.emitSpawned slot (s.startRegs team) true)).settleTeam team
      else s)

end Sys2Proof.Machine
end

