-- ==== Sys2Proof/Machine/Memory.lean ====
section
/-! DEFINITION. From lanes to lines, loads and the lodge, stores and the store queue, group accesses, records, hints and presence
tests (R215 to R224, R229 to R231, R236, R242 to R253, R305 to R307, R401). -/
namespace Sys2Proof.Machine

/-! ### Lane accesses -/

/-- What one lane, or the group, asks for: where its bytes go, its virtual lane, the address it computed, how many bytes, and that
address or the poison it takes instead. -/
structure Acc where
  dst : LoadDst
  virt : Nat
  va : Nat
  n : Nat
  out : Except PoisonKind Nat

/-- The signed value of an offset operand: S() of an s-register, sext64 of a v-register, 0 for NONE (R244). -/
def offsetOf (o : Operand) (x : Nat × Option PoisonKind) : Int × Option PoisonKind :=
  match o with
  | .v _ => (sextNat 32 x.1, x.2)
  | .none => (0, none)
  | _ => (s64 x.1, x.2)

/-- An access through a record (R34, R36, R244): the address computed, and the outcome; `write` wants WR set and CACHE other than read-only
(R36, R234). An offset below 0 and a record of EXTENT 0 are out of bounds before anything else of the record is looked at; of several kinds met
the highest-ranked stands (R355). -/
def recAccess (rec' : BReg) (write : Bool) (n : Nat) (idx : Nat × Option PoisonKind) (off : Int × Option PoisonKind) (disp : Int) :
    Nat × Except PoisonKind Nat :=
  let r := BufRec.of rec'.bits
  let o := off.1 + disp
  let va := wrapNat 64 ((r.base : Int) + (idx.1 * r.step : Nat) + o)
  let none' : Option PoisonKind := if rec'.poison.isNone && r.extent == 0 then some .bounds else none
  let below : Option PoisonKind := if off.2.isNone && decide (o < 0) then some .bounds else none
  match worst (worst rec'.poison none') (worst idx.2 (worst off.2 below)) with
  | some k => (va, .error k)
  | none =>
    if write && (!r.wr || r.cache == 1) then (va, .error .protection)
    else match r.addr idx.1 o n with
      | .error k => (va, .error k)
      | .ok (_, a) => (a, .ok a)

/-- A scratchpad address as a cluster address, or bounds (R98, R215, R244): in the team space the team's own, in the cluster space
any team of the cluster. -/
def State.spadAddr (s : State) (r : TeamRef) (cluster : Bool) (a : Int) (n : Nat) : Except PoisonKind Nat :=
  match s.kd? r with
  | none => .error .bounds
  | some k =>
    if a < 0 then .error .bounds
    else
      let x := a.toNat
      if cluster then
        if 2 ^ 24 ≤ x ∨ k.cw * k.ch ≤ x / 2 ^ 20 ∨ k.spad < x % 2 ^ 20 + n then .error .bounds else .ok x
      else if k.spad < x + n then .error .bounds else .ok (r.cteam * 2 ^ 20 + x)

/-- A scratchpad access of a lane. -/
def State.spadAccess (s : State) (r : TeamRef) (cluster : Bool) (n : Nat) (addr : Nat × Option PoisonKind) (disp : Int) : Nat × Except PoisonKind Nat :=
  let a : Int := (addr.1 : Int) + disp
  match addr.2 with
  | some k => (wrapNat 64 a, .error k)
  | none => (wrapNat 64 a, s.spadAddr r cluster a n)

/-! ### From lanes to lines (R218, R219) -/

/-- A part of an access inside one line: the line, its number, the first byte's place and how many bytes. -/
structure Seg where
  line : Line
  no : Nat
  pa : Nat
  len : Nat

/-- Every line translated once. -/
def State.mapLines (s : State) (core v : Nat) (w : Want) : List Nat → List (Nat × Except PoisonKind Line) × State
  | [] => ([], s)
  | x :: rest =>
    let (r, s) := s.translateGlobal core v (x * 128) w
    let (l, s) := s.mapLines core v w rest
    ((x, r) :: l, s)

/-- The lines an access touches. -/
def Acc.lines (a : Acc) : List Nat := match a.out with | .ok x => linesOf x a.n | .error _ => []

/-- One line's part of an access, with the tensor-block check of R219. -/
def segOf (m : List (Nat × Except PoisonKind Line)) (tb : Bool) (x n no : Nat) : Except PoisonKind Seg :=
  match m.find? (fun e => e.1 == no) with
  | some (_, .ok l) =>
    if tb && !l.tb then .error .format
    else
      let lo := max x (no * 128)
      let hi := min (x + n) (no * 128 + 128)
      .ok { line := l, no := no, pa := l.pa + (lo - no * 128), len := hi - lo }
  | some (_, .error k) => .error k
  | none => .error .pageFault

/-- The kind of an outcome. -/
def errOf {α : Type} : Except PoisonKind α → Option PoisonKind
  | .error k => some k
  | .ok _ => none

/-- The segments of an access, or the highest-ranked kind of the lines it touches. -/
def Acc.look (a : Acc) (m : List (Nat × Except PoisonKind Line)) (tb : Bool) : Except PoisonKind (List Seg) :=
  match a.out with
  | .error k => .error k
  | .ok x =>
    let segs := (linesOf x a.n).map (segOf m tb x a.n)
    match worstOf (segs.map errOf) with
    | some k => .error k
    | none => .ok (segs.filterMap (fun e => e.toOption))

/-! ### Values of loads -/

/-- Words of a lane's destination. -/
def laneVals (block lane n width : Nat) (f : Nat → VReg) : List PendVal := (List.range (max 1 (width / 4))).map (fun i => .v block lane (n + i) (f i))

/-- A record loaded (R250). -/
def loadedRecord (bits : BitVec 256) : BReg :=
  let code := bufReason bits
  if code = 0 then { bits := bits, poison := none, reason := 0 } else { bits := 0, poison := some .format, reason := BitVec.ofNat 8 code }

/-- The registers that loaded bytes give (R243, R249, R250). -/
def loadVals (d : LoadDst) (bs : List Byte) : List PendVal :=
  let x := natOfBytes bs
  match d with
  | .lane block lane n width sx =>
    let y := if width < 4 && sx then wrapNat 32 (sextNat (8 * width) x) else x
    laneVals block lane n width (fun i => { val := BitVec.ofNat 32 (y / 2 ^ (32 * i)), poison := none })
  | .s place n width sx => [.s place n { val := BitVec.ofNat 64 (if sx then wrapNat 64 (sextNat (8 * width) x) else x), poison := none }]
  | .b place n => [.b place n (loadedRecord (BitVec.ofNat 256 x))]

/-- The registers a failed load gives; the value bits under poison are 0 (log 10). -/
def poisonVals (d : LoadDst) (k : PoisonKind) : List PendVal :=
  match d with
  | .lane block lane n width _ => laneVals block lane n width (fun _ => { val := 0, poison := some k })
  | .s place n _ _ => [.s place n { val := 0, poison := some k }]
  | .b place n => [.b place n { bits := 0, poison := some k, reason := 0 }]

/-- What the latest entry of a queue that touches a byte says of it (R306). -/
inductive Own where
  | nothing | byte (b : Byte) | atomic
  deriving DecidableEq, Repr

/-- The width of an atomic's lanes covers a byte. -/
def SqEntry.own (e : SqEntry) (sp : Space) (a : Nat) : Own :=
  if e.space ≠ sp then .nothing
  else match e.item with
    | .store cs => match cs.reverse.find? (fun c => c.1 == a) with | some c => .byte c.2 | none => .nothing
    | .atomic _ _ w ls _ _ => if ls.any (fun l => decide (l.addr ≤ a) && decide (a < l.addr + w)) then .atomic else .nothing

/-- The latest entry decides. -/
def ownByte (q : List SqEntry) (sp : Space) (a : Nat) : Own :=
  q.foldl (fun r e => match e.own sp a with | .nothing => r | x => x) .nothing

/-- A byte of the cluster's scratchpads. -/
def State.spadByte (s : State) (r : TeamRef) (a : Nat) : Byte :=
  match s.mate r (a / 2 ^ 20) with
  | some t => t.spad.read (a % 2 ^ 20)
  | none => Config.unlistedByte

/-- A byte as the group's next load sees it: its own latest store, else the place itself; none where it must wait for an atomic of its
queue (R306 item 2). A peer's byte is a free value (log 5). -/
def State.seenByte (s : State) (r : TeamRef) (q : List SqEntry) (sp : Space) (a : Nat) : Option Byte :=
  match ownByte q sp a with
  | .byte b => some b
  | .atomic => none
  | .nothing => some (match sp with
    | .phys => s.mem.read a
    | .spad => s.spadByte r a
    | .peer port => Config.freeByte ((s.tick * 8 + port) * 2 ^ 64 + a))

/-- Bytes as the group's next load sees them. -/
def State.seen (s : State) (r : TeamRef) (q : List SqEntry) (sp : Space) (a n : Nat) : Option (List Byte) :=
  (List.range n).mapM (fun i => s.seenByte r q sp (a + i))

/-- The bytes of several segments in order. -/
def State.seenSegs (s : State) (r : TeamRef) (q : List SqEntry) (l : List Seg) : Option (List Byte) :=
  (l.mapM (fun x => s.seen r q x.line.space x.pa x.len)).map List.flatten

/-! ### Completion of loads (R230, R231) -/

/-- A pending value written to its register. -/
def Team.writePend (t : Team) (x : PendVal) : Team :=
  match x with
  | .v b l n y => match t.thread? b l with | some th => t.setThread (th.setV n y) | none => t
  | .s place n y => match t.byKey place with | some g => t.setGroup (g.setS n y) | none => t
  | .b place n y => match t.byKey place with | some g => t.setGroup (g.setB n y) | none => t

/-- A late lane's bytes read from memory and the group's own queue. -/
def State.lateVals (s : State) (r : TeamRef) (place : Nat) (x : LoadDst × List (Nat × Nat)) : List PendVal :=
  let q := match s.team? r with | some t => (match t.byKey place with | some g => g.storeQ | none => []) | none => []
  let bs := x.2.flatMap (fun (a, n) => (List.range n).map (fun i => match ownByte q .phys (a + i) with | .byte b => b | _ => s.mem.read (a + i)))
  loadVals x.1 bs

/-- Whether a value replaces another's register. -/
def sameDest : PendVal → PendVal → Bool
  | .v b l n _, .v b' l' n' _ => b == b' && l == l' && n == n'
  | .s p n _, .s p' n' _ => p == p' && n == n'
  | .b p n _, .b p' n' _ => p == p' && n == n'
  | _, _ => false

/-- Tag of a pending value. -/
def PendVal.poisoned : PendVal → Bool
  | .v _ _ _ x => x.poison.isSome
  | .s _ _ x => x.poison.isSome
  | .b _ _ x => x.poison.isSome

/-- A value that is settled already where a late load's bytes come: a failed lane's. A record's format poison was read from the bytes, and is read again (R250). -/
def PendVal.fixed : PendVal → Bool
  | .b _ _ x => x.poison.isSome && x.poison != some .format
  | x => x.poisoned

/-- The bits and tag of a pending value. -/
def PendVal.bits : PendVal → Nat × Option PoisonKind
  | .v _ _ _ x => (x.val.toNat, x.poison)
  | .s _ _ x => (x.val.toNat, x.poison)
  | .b _ _ x => (x.bits.toNat, x.poison)

/-- The group that receives what a load or atomic returns: the one that issued it, or, once that one has dissolved, the one that holds its first thread. -/
def Team.receiver (t : Team) (key : Nat) (vals : List PendVal) : Option Group :=
  match t.byKey key with
  | some g => some g
  | none => vals.findSome? (fun x => match x with | .v b l _ _ => t.groups.find? (fun g => g.holds b l) | _ => none)

/-- What a group under verified execution receives takes a place in its load-value queue (R369). -/
def State.received (s : State) (r : TeamRef) (key : Nat) (vals : List PendVal) : State :=
  match s.clusterOf r with
  | some c => if !c.verify then s else s.updTeam r (fun t => match t.receiver key vals with | some g => t.setGroup (g.pushValues [vals.map PendVal.bits]) | none => t)
  | none => s

/-- Every entry of an operation is FILLED: its registers are written, its entries become FREE and the destination stops being pending. -/
def State.finishOp (s : State) (r : TeamRef) (op : PendOp) : State :=
  let late := op.late.flatMap (s.lateVals r op.place)
  let vals := op.vals.map (fun v => if v.fixed then v else (late.find? (sameDest v)).getD v)
  let s := s.updTeam r (fun t => { vals.foldl Team.writePend t with pend := t.pend.filter (fun p => p.id != op.id) })
  let s := { s with quads := s.quads.map (fun (q : Nat × Quad) => (q.1, { q.2 with lodge := q.2.lodge.filter (fun e => !(e.team == r && e.op == op.id)) })) }
  if vals.isEmpty then s else s.received r op.place vals

/-- An operation's entries on its quadrant. -/
def State.settleOp (s : State) (r : TeamRef) (quad opId : Nat) : State :=
  match s.team? r with
  | none => s
  | some t =>
    match t.pend.find? (fun p => p.id == opId) with
    | none => s
    | some op =>
      if op.known && ((s.quad quad).lodge.filter (fun e => e.team == r && e.op == opId)).all (fun e => decide (e.st = .filled)) then s.finishOp r op else s

/-! ### What a memory access waits for -/

/-- The operations of the group that hold back its later accesses (R306, R310, R338). -/
def GCtx.acquires (g : GCtx) : List Nat := g.team.acquires g.grp

/-- An access waits while an earlier acquire is under way. -/
def GCtx.ordered (g : GCtx) (body : State) : State := if g.acquires.isEmpty then body else g.waitPending g.acquires

/-- A load also waits for a place in the load-value queue (R369). -/
def GCtx.loading (g : GCtx) (body : State) : State :=
  g.ordered (if g.queueFull (g.takenValues.length + 1) then g.park .valueQueue else body)

/-- A store or atomic of active lanes waits in place while its queue is full (R305). -/
def GCtx.storing (g : GCtx) (body : State) : State := g.ordered (if 32 ≤ g.grp.storeQ.length then g.s else body)

/-- ESCAPED is set by what reaches tenant scope or wider (R245, R339, R341). -/
def GCtx.escaping (g : GCtx) (s : State) : State := if 4 ≤ g.scope then s.escape g.ref else s

/-- Registers of failed or completed lanes are written at once. -/
def GCtx.writeNow (g : GCtx) (s : State) (vals : List PendVal) : State := s.updTeam g.ref (fun t => vals.foldl Team.writePend t)

/-! ### Global loads -/

/-- Retention of a record's CACHE: 2 high, 1 normal, 0 the first victim, 3 none (R234). -/
def cacheKeep (c : Nat) : Nat := if c = 1 then 2 else if c = 2 then 0 else if c = 3 then 3 else 1

/-- A line goes to its home uncached (R233, R234). Host lines have no home of their own to go to: a no-allocate access to one keeps no copy of it (`State.grantHost`). -/
def Line.uncached (l : Line) (cache : Nat) : Bool := decide (l.space = .phys) && isDevice l.pa && (l.mt == 1 || cache == 3)

/-- The bytes of a segment are still to come: a host block that no cache of the module holds, or a device block that a host holds in A. -/
def State.lateSeg (s : State) (x : Seg) : Bool :=
  decide (x.line.space = .phys) &&
    (if isHost x.pa then (s.coh.holders (x.pa / 64)).isEmpty else !((s.coh.dirEntry (x.pa / 64)).hostConflicts false).isEmpty ||
      !((s.coh.dirEntry ((x.pa + x.len - 1) / 64)).hostConflicts false).isEmpty)

/-- The blocks of a segment. -/
def Seg.blocks (x : Seg) : List Nat := if x.len = 0 then [] else distinct [x.pa / 64, (x.pa + x.len - 1) / 64]

/-- The highest lodge occupancy of a context on a quadrant, raised to what it holds now (R353). -/
def State.lodgeHigh (s : State) (quad v : Nat) : State :=
  let held := ((s.quad quad).lodge.filter (fun (x : LodgeEntry) => x.team.vf == v)).length
  s.diag quad v 6 (fun x => BitVec.ofNat 64 (max x.toNat held))

/-- Blocks of a line whose copies on the chiplet a no-allocate access writes back and invalidates first (R234). R322 says what its home does then: a read leaves the copies
of other chiplets in S (DEDUCED, log 57). -/
def State.bypassed (s : State) (chiplet cache : Nat) (l : Line) (blocks : List Nat) : List Nat :=
  if cache = 3 ∧ l.space = .phys then blocks.filter (fun b => decide (s.coh.l2St chiplet b ≠ .i)) else []

/-- One line request: its lodge entry, and what it asks for (R229, R230). -/
def State.request (s : State) (t : Team) (quad op cache now : Nat) (l : Line) (no : Nat) (blocks : List Nat) (lanes : List (Nat × Nat)) : State :=
  let (id, s) := s.fresh
  let chiplet := t.core / 32
  let core := s.l1Core t l.pa
  let unc := l.uncached cache
  let s := s.evictAll chiplet t.ref.vf (s.bypassed chiplet cache l blocks)
  let need := if l.space ≠ .phys then [] else if unc then blocks else blocks.filter (fun b => decide (s.coh.l1St core b = .i))
  let out := unc || decide (l.space ≠ .phys) || !need.isEmpty
  let port := if l.space = .phys then s.portOf l.pa else ioPort
  let e : LodgeEntry := { id := id, team := t.ref, op := op, st := if out then .out else .filled, line := no, port := port, home := unc || decide (l.space ≠ .phys), await := need, since := now, lanes := lanes }
  let s := s.updQuad quad (fun q => { q with lodge := q.lodge ++ [e] })
  let s := s.lodgeHigh quad t.ref.vf
  let s := if unc || decide (l.space ≠ .phys) then s else s.diag (4 * t.core) t.ref.vf (if need.isEmpty then 4 else 5) (· + 1)
  let s := match l.space with
    | .peer k => { s with out := { s.out with peer := s.out.peer ++ [(k, PeerMsg.read (l.pa / 128 * 128) 128)] } }.flits chiplet ioPort 1
    | _ => s
  need.foldl (fun s b =>
    if unc then s.sendHome { kind := .uncachedRead, block := b, who := chiplet, core := t.core, src := id, ctx := t.ref.vf, keep := 0, waitFwd := false, since := now }
    else s.ask core b false t.ref.vf (cacheKeep cache)) s

/-- The block and lane of a destination. -/
def laneOf : LoadDst → List (Nat × Nat)
  | .lane b l _ _ _ => [(b, l)]
  | _ => []

/-- A global load (R218, R229, R247): every lane is addressed, every line translated once, and each line a lane still needs takes a lodge
entry. Lanes that have failed write their poison with the others. -/
def GCtx.load (g : GCtx) (cache : Nat) (tb : Bool) (accs : List Acc) (after : Group → Group := id) : State :=
  let v := g.ref.vf
  let core := g.team.core
  let lines := distinct (accs.flatMap Acc.lines)
  let stuck := (lines.map (· * 128)).filter (fun x => g.s.globalStuck core v x .load)
  if !stuck.isEmpty then g.s.waitWalks core v stuck
  else
    let (m, s) := g.s.mapLines core v .load lines
    let looked := accs.map (fun a => (a, a.look m tb))
    let segs := looked.flatMap (fun x => match x.2 with | .ok l => l | .error _ => [])
    let need := distinct (segs.map (·.no))
    if 64 < need.length + (g.s.quad g.quad).lodge.length then g.park (.lodge need.length)
    else if !s.evictRoom (core / 32) (distinct (segs.flatMap (fun x => s.bypassed (core / 32) cache x.line x.blocks))) then g.s
    else
      let value (x : Acc × Except PoisonKind (List Seg)) : Option (List PendVal × List (LoadDst × List (Nat × Nat))) :=
        match x.2 with
        | .error k => some (poisonVals x.1.dst k, [])
        | .ok l =>
          match s.seenSegs g.ref g.grp.storeQ l with
          | none => none
          | some bs =>
            if l.any (fun y => decide (y.line.space = .phys) && s.badAt y.pa y.len) then some (poisonVals x.1.dst .uncorrectable, [])
            else some (loadVals x.1.dst bs, if l.any s.lateSeg then [(x.1.dst, l.map (fun y => (y.pa, y.len)))] else [])
      match looked.mapM value with
      | none => g.s
      | some vs =>
        let s := { s with tick := s.tick + 1 }
        let vals := vs.flatMap (·.1)
        let late := vs.flatMap (·.2)
        let s := g.updGroup s after
        if need.isEmpty then g.finish (if vals.isEmpty then s else (g.writeNow s vals).received g.ref g.grp.key vals)
        else
          let (op, s) := s.fresh
          let p : PendOp := { id := op, place := g.grp.key, vals := vals, entries := [], bank := false, known := true, acquire := !late.isEmpty, late := late }
          let s := s.updTeam g.ref (fun t => { t with pend := t.pend ++ [p] })
          let s := need.foldl (fun s no =>
            let mine := segs.filter (fun x => x.no == no)
            let lanes := looked.flatMap (fun x => match x.2 with
              | .ok l => if l.any (fun y => y.no == no) then laneOf x.1.dst else []
              | .error _ => [])
            match mine with
            | y :: _ => s.request g.team g.quad op cache s.cycle y.line no (distinct (mine.flatMap Seg.blocks)) lanes
            | [] => s) s
          g.finish (s.settleOp g.ref g.quad op)

/-- The injection of `errinj` (R354): the lane it names takes its poison and sends nothing. -/
def GCtx.inject (g : GCtx) (accs : List Acc) : List Acc × (Group → Group) :=
  match g.grp.armed with
  | some (k, lane) =>
    if accs.any (fun a => a.virt == lane) then
      (accs.map (fun a => if a.virt == lane then { a with out := .error k } else a), fun r => { r with armed := none })
    else (accs, id)
  | none => (accs, id)

/-- Bytes of a width code (R243). -/
def widthBytes (f : Fields) : Nat := 2 ^ f.i 2 0

/-- The lanes of a per-lane access through a record. -/
def GCtx.recLanes (g : GCtx) (write : Bool) (n : Nat) : List Acc :=
  let rec' := g.record g.f.a
  g.actives.map (fun t =>
    let (va, out) := recAccess rec' write n (g.raw t false g.f.b) (offsetOf g.f.c (g.raw t false g.f.c)) g.f.disp
    { dst := .lane t.block t.lane (opNum g.f.d) n (g.f.i 3 3 == 1), virt := g.virt t, va := va, n := n, out := out })

def execLd (f : Fields) (s : State) : Host.Outcome State Fault Refusal :=
  issueG (.ld f) s (fun g => g.loading (
    let r := BufRec.of (g.record g.f.a).bits
    let (accs, after) := g.inject (g.recLanes false (widthBytes g.f))
    g.load r.cache r.tb accs after))

/-- The lanes of a tensor-block access: byte 4 × (virtual lane mod 16) of block `index` (R246). -/
def GCtx.blockLanes (g : GCtx) (write : Bool) : List Acc :=
  let rec' := g.record g.f.a
  let tb := (BufRec.of rec'.bits).tb
  g.actives.map (fun t =>
    let (va, out) := recAccess rec' write 4 (g.raw t false g.f.b) ((4 * (g.virt t % 16) : Nat), none) 0
    let out := if tb then out else match out with | .error k => .error (if k.rank ≤ PoisonKind.format.rank then k else .format) | .ok _ => .error .format
    { dst := .lane t.block t.lane (opNum g.f.d) 4 false, virt := g.virt t, va := va, n := 4, out := out })

def execLdb (f : Fields) (s : State) : Host.Outcome State Fault Refusal :=
  issueG (.ldb f) s (fun g => g.loading (
    let r := BufRec.of (g.record g.f.a).bits
    let (accs, after) := g.inject (g.blockLanes false)
    g.load r.cache r.tb accs after))

/-- The one access of a group. -/
def GCtx.groupAcc (g : GCtx) (write : Bool) (n : Nat) (dst : LoadDst) : Acc :=
  let (va, out) := recAccess (g.record g.f.a) write n (g.once g.f.b) (offsetOf g.f.c (g.once g.f.c)) g.f.disp
  { dst := dst, virt := 32, va := va, n := n, out := out }

def execSld (f : Fields) (s : State) : Host.Outcome State Fault Refusal :=
  issueG (.sld f) s (fun g => g.loading (
    let r := BufRec.of (g.record g.f.a).bits
    g.load r.cache r.tb [g.groupAcc false (widthBytes g.f) (.s g.grp.key (opNum g.f.d) (widthBytes g.f) (g.f.i 3 3 == 1))]))

/-- A misaligned address gives bounds; a poisoned record gives another of its kind with its reason, or of a higher-ranked kind that is met (R250, R355). -/
def execRecld (f : Fields) (s : State) : Host.Outcome State Fault Refusal :=
  issueG (.recld f) s (fun g => g.loading (
    let src := g.record g.f.a
    let r := BufRec.of src.bits
    let a := g.groupAcc false 32 (.b g.grp.key (opNum g.f.d))
    let out := match a.out with | .ok x => if x % 32 = 0 then .ok x else .error .bounds | e => e
    match src.poison, a.out with
    | some own, .error k =>
      g.finish (g.updGroup g.s (fun x => x.setB (opNum g.f.d) { bits := 0, poison := some k, reason := if own = k ∧ k = .format then src.reason else 0 }))
    | _, _ => g.load r.cache r.tb [{ a with out := out }]))

/-! ### Scratchpad loads (R229, R236, R246) -/

/-- Lines of the cluster's scratchpads that are absent, of the first team that has any. -/
def State.absentOf (s : State) (r : TeamRef) (ls : List Nat) : Option Park :=
  ls.findSome? (fun x =>
    match s.mate r (x * 128 / 2 ^ 20) with
    | some t => if t.present (x * 128 % 2 ^ 20 / 128) then none
                else some (.absent t.ref.cteam ((ls.filter (fun y => y * 128 / 2 ^ 20 == t.ref.cteam)).map (fun y => y * 128 % 2 ^ 20 / 128)))
    | none => none)

/-- A scratchpad line holds a storage error. -/
def State.badSpad (s : State) (r : TeamRef) (a n : Nat) : Bool :=
  match s.mate r (a / 2 ^ 20) with
  | some t => (linesOf (a % 2 ^ 20) n).any t.badLines.contains
  | none => false

/-- The lanes of a scratchpad access. -/
def GCtx.spadLanes (g : GCtx) (cluster : Bool) (n : Nat) : List Acc :=
  g.actives.map (fun t =>
    let (va, out) := g.s.spadAccess g.ref cluster n (g.raw t false g.f.a) g.f.disp
    { dst := .lane t.block t.lane (opNum g.f.d) n (g.f.i 3 3 == 1), virt := g.virt t, va := va, n := n, out := out })

/-- A scratchpad load: absent lines park the group; the banks return later. -/
def GCtx.spadLoad (g : GCtx) (accs : List Acc) (after : Group → Group) : State :=
  match g.s.absentOf g.ref (distinct (accs.flatMap Acc.lines)) with
  | some p => g.park p
  | none =>
    let value (a : Acc) : Option (List PendVal) :=
      match a.out with
      | .error k => some (poisonVals a.dst k)
      | .ok x => match g.s.seen g.ref g.grp.storeQ .spad x a.n with
        | none => none
        | some bs => some (if g.s.badSpad g.ref x a.n then poisonVals a.dst .uncorrectable else loadVals a.dst bs)
    match accs.mapM value with
    | none => g.s
    | some vs =>
      let s := g.updGroup g.s after
      if accs.all (fun a => (errOf a.out).isSome) then
        g.finish (if accs.isEmpty then s else (g.writeNow s vs.flatten).received g.ref g.grp.key vs.flatten)
      else
        let (op, s) := s.fresh
        let p : PendOp := { id := op, place := g.grp.key, vals := vs.flatten, entries := [], bank := true, known := true, acquire := false, late := [] }
        g.finish (s.updTeam g.ref (fun t => { t with pend := t.pend ++ [p] }))

def execLdsp (f : Fields) (s : State) : Host.Outcome State Fault Refusal :=
  issueG (.ldsp f) s (fun g => g.loading (let (accs, after) := g.inject (g.spadLanes false (widthBytes g.f)); g.spadLoad accs after))

def execLdcl (f : Fields) (s : State) : Host.Outcome State Fault Refusal :=
  issueG (.ldcl f) s (fun g => g.loading (let (accs, after) := g.inject (g.spadLanes true (widthBytes g.f)); g.spadLoad accs after))

/-! ### Stores (R248, R249) -/

/-- The ACCESS cause of a kind (R358). -/
def accessCause (k : PoisonKind) : Nat := 0x27 + k.rank

/-- The failing lanes of a store's or atomic's own check, and what is trapped: the highest-ranked kind (R248, R335). -/
def GCtx.accessTrap (g : GCtx) (bad : List (Acc × Option PoisonKind)) : Option State :=
  match worstOf (bad.map (·.2)) with
  | none => none
  | some k =>
    let mine := bad.filter (fun x => x.2 == some k)
    let lanes := g.lanes.filter (fun t => mine.any (fun x => decide (laneOf x.1.dst = [(t.block, t.lane)]) || (laneOf x.1.dst).isEmpty))
    let addr := match mine with | x :: _ => x.1.va | [] => 0
    some (g.s.trapAt g.site (g.trapInfo (accessCause k) lanes addr 0 0))

/-- An entry joins the group's store queue and the instruction is over. -/
def GCtx.enqueue (g : GCtx) (s : State) (item : SqItem) (sp : Space) (home : List Nat) (keep : Nat) (leaves : List Nat) : State :=
  let e : SqEntry := { item := item, space := sp, home := home, keep := keep, since := s.cycle, leaves := leaves, unverified := g.verified, done := [], asked := none }
  g.finish (g.updGroup s (fun x => { x with storeQ := x.storeQ ++ [e] }))

/-- What the lines of a checked store or atomic give its entry: the space, the blocks that go to their home, and the leaves to mark dirty. -/
def routeOf (cache : Nat) (segs : List Seg) : Space × List Nat × List Nat :=
  (match segs with | x :: _ => x.line.space | [] => .phys,
   distinct ((segs.filter (fun x => x.line.uncached cache)).flatMap Seg.blocks),
   distinct (segs.flatMap (fun x => if isDevice x.line.leaf then x.line.dirties else [])))

/-- A global store of bytes per access (R218, R248): every access is checked and translated first; then all bytes enter the queue together. -/
def GCtx.store (g : GCtx) (cache : Nat) (tb : Bool) (accs : List (Acc × List Byte)) : State :=
  let v := g.ref.vf
  let core := g.team.core
  let lines := distinct (accs.flatMap (fun a => a.1.lines))
  let stuck := (lines.map (· * 128)).filter (fun x => g.s.globalStuck core v x .store)
  if !stuck.isEmpty then g.s.waitWalks core v stuck
  else
    let (m, s) := g.s.mapLines core v .store lines
    let looked : List ((Acc × List Byte) × Except PoisonKind (List Seg)) := accs.map (fun a => (a, a.1.look m tb))
    let g' : GCtx := { g with s := s }
    match g'.accessTrap (looked.map (fun (x : (Acc × List Byte) × Except PoisonKind (List Seg)) => (x.1.1, errOf x.2))) with
    | some s => s
    | none =>
      let segs := looked.flatMap (fun x => match x.2 with | .ok l => l | .error _ => [])
      let s := if g.f.ord = 2 then g.escaping s else s
      if accs.isEmpty then g.finish s
      else
        let cells := looked.flatMap (fun x => match x.2 with
          | .ok l => (l.foldl (fun (a : List Host.Cell × List Byte) y => (a.1 ++ cellsOf y.pa (a.2.take y.len), a.2.drop y.len)) ([], x.1.2)).1
          | .error _ => [])
        let (sp, home, leaves) := routeOf cache segs
        g.enqueue s (.store cells) sp home (cacheKeep cache) leaves

/-- The reason code that a poisoned record adds to a trap on its kind (R250). -/
def recReason (rec' : Option BReg) (k : PoisonKind) : Nat := match rec' with | some b => if b.poison = some k && decide (k = .format) then b.reason.toNat else 0 | none => 0

/-- Poisoned sources of a store, over the active lanes: each lane's sources and the record (R248, R250, R357). -/
def GCtx.storePoison (g : GCtx) (rec' : Option BReg) (srcs : Thread → Option PoisonKind) : Option State :=
  match worstLanes (g.actives.map (fun t => (t, worst (rec'.bind (·.poison)) (srcs t)))) with
  | none => none
  | some (k, lanes) => some (g.consumeTrap k lanes (recReason rec' k))

/-- A lane's data register of `n` bytes as bytes, with its tags. -/
def Thread.data (t : Thread) (d n : Nat) : List Byte × Option PoisonKind :=
  let regs := (List.range (max 1 (n / 4))).map (fun i => t.vreg (d + i))
  ((regs.flatMap (fun r => bytesOfNat 4 r.val.toNat)).take n, worstOf (regs.map (·.poison)))

/-- The data of each active lane beside its access. -/
def GCtx.withData (g : GCtx) (n : Nat) (accs : List Acc) : List (Acc × List Byte) :=
  accs.zip (g.actives.map (fun t => (t.data (opNum g.f.d) n).1))

/-- A lane store through a record. -/
def GCtx.laneStore (g : GCtx) (n : Nat) (accs : List Acc) : State :=
  let rec' := g.record g.f.a
  let srcs (t : Thread) := worst (t.data (opNum g.f.d) n).2 (worst (g.raw t false g.f.b).2 (g.raw t false g.f.c).2)
  match g.storePoison (some rec') srcs with
  | some s => s
  | none => let r := BufRec.of rec'.bits; g.store r.cache r.tb (g.withData n accs)

def execSt (f : Fields) (s : State) : Host.Outcome State Fault Refusal :=
  issueG (.st f) s (fun g => g.storing (g.laneStore (widthBytes g.f) (g.recLanes true (widthBytes g.f))))

def execStb (f : Fields) (s : State) : Host.Outcome State Fault Refusal :=
  issueG (.stb f) s (fun g => g.storing (g.laneStore 4 (g.blockLanes true)))

def execSst (f : Fields) (s : State) : Host.Outcome State Fault Refusal :=
  issueG (.sst f) s (fun g => g.storing (
    let rec' := g.record g.f.a
    let r := BufRec.of rec'.bits
    let n := widthBytes g.f
    let d := g.once g.f.d
    match worst rec'.poison (worst d.2 (worst (g.once g.f.b).2 (g.once g.f.c).2)) with
    | some k => g.consumeTrap k g.lanes (if rec'.poison = some k && decide (k = .format) then rec'.reason.toNat else 0)
    | none => g.store r.cache r.tb [(g.groupAcc true n (.s g.grp.key 0 n false), bytesOfNat n d.1)]))

/-- A scratchpad store: sources, then bounds, then presence; the bytes enter the queue. -/
def GCtx.spadStore (g : GCtx) (cluster : Bool) : State :=
  let n := widthBytes g.f
  let srcs (t : Thread) := worst (t.data (opNum g.f.d) n).2 (g.raw t false g.f.a).2
  match g.storePoison none srcs with
  | some s => s
  | none =>
    let accs := g.spadLanes cluster n
    match g.accessTrap (accs.map (fun a => (a, errOf a.out))) with
    | some s => s
    | none =>
      match g.s.absentOf g.ref (distinct (accs.flatMap Acc.lines)) with
      | some p => g.park p
      | none =>
        let s := if g.f.ord = 2 then g.escaping g.s else g.s
        if accs.isEmpty then g.finish s
        else
          let cells := (g.withData n accs).flatMap (fun x => match x.1.out with | .ok a => cellsOf a x.2 | .error _ => [])
          g.enqueue s (.store cells) .spad [] 1 []

def execStsp (f : Fields) (s : State) : Host.Outcome State Fault Refusal := issueG (.stsp f) s (fun g => g.storing (g.spadStore false))

def execStcl (f : Fields) (s : State) : Host.Outcome State Fault Refusal := issueG (.stcl f) s (fun g => g.storing (g.spadStore true))

/-! ### Record caches, hints and presence tests (R251 to R253) -/

/-- The cores whose engine record caches a scope covers (R251); none for every core. -/
def GCtx.scopeCores (g : GCtx) : Option (List Nat) :=
  if g.scope ≤ 2 then some [g.team.core]
  else if g.scope = 3 then match g.s.clusterOf g.ref with | some c => some (c.teams.map (·.core)) | none => some [g.team.core]
  else none

/-- The group parks until its stores have left; then the entries of its context go. -/
def execRecinv (f : Fields) (s : State) : Host.Outcome State Fault Refusal :=
  issueG (.recinv f) s (fun g =>
    if !g.grp.storeQ.isEmpty then g.park .stores
    else
      let covered (core : Nat) : Bool := match g.scopeCores with | some l => l.contains core | none => true
      g.finish { g.s with recCache := g.s.recCache.map (fun (e : Nat × List (Nat × Nat × List Byte)) =>
        if covered e.1 then (e.1, e.2.filter (fun x => x.1 != g.ref.vf)) else e) })

/-- A hint's effect on one translated line (R252). -/
def State.hintLine (s : State) (t : Team) (resid : Bool) (m5 : Bool) (cache : Nat) (l : Line) : State :=
  let chiplet := t.core / 32
  let blocks := [l.pa / 64, l.pa / 64 + 1]
  if l.space ≠ .phys ∨ l.uncached cache then s
  else
    let fetchCc (s : State) (keep : Nat) : State := blocks.foldl (fun s b =>
      if s.coh.l2St chiplet b ≠ .i then s
      else if s.missFull chiplet || !s.canAllocate chiplet b then s
      else if isHost (64 * b) then s.hostMiss (256 + chiplet) b false t.ref.vf keep
      else s.sendHome { kind := .read, block := b, who := chiplet, core := 256 + chiplet, src := 0, ctx := t.ref.vf, keep := keep, waitFwd := false, since := s.cycle }) s
    let setKeep (s : State) (keep : Nat) : State :=
      { s with coh := { s.coh with l2 := s.coh.l2.map (fun (e : L2Entry) => if e.chiplet == chiplet && blocks.contains e.block then { e with keep := keep } else e) } }
    if !resid then
      if m5 then fetchCc s (cacheKeep cache)
      else blocks.foldl (fun s b => if s.coh.l1St (s.l1Core t l.pa) b = .i then s.ask (s.l1Core t l.pa) b false t.ref.vf (cacheKeep cache) else s) s
    else if m5 then setKeep s 0
    else fetchCc (setKeep s 2) 2

/-- A hint: lanes that fail before translation are dropped, failed lines are counted, and any line may be dropped (log 2). -/
def GCtx.hint (g : GCtx) (resid : Bool) : State :=
  let cache := (BufRec.of (g.record g.f.a).bits).cache
  let v := g.ref.vf
  let lines := (distinct ((g.recLanes false 1).flatMap Acc.lines)).filter (fun x => !g.s.globalStuck g.team.core v (x * 128) .load)
  let (m, s) := g.s.mapLines g.team.core v .load lines
  g.finish (m.foldl (fun s x =>
    match x.2 with
    | .error .pageFault => s.updCtx v (fun c => { c with drophint := satInc c.drophint })
    | .error .protection => s.updCtx v (fun c => { c with drophint := satInc c.drophint })
    | .error _ => s
    | .ok l =>
      let (drop, s) := s.freeBool
      if drop then s else s.hintLine g.team resid g.f.m5 cache l) s)

def execPref (f : Fields) (s : State) : Host.Outcome State Fault Refusal := issueG (.pref f) s (fun g => g.hint false)

def execResid (f : Fields) (s : State) : Host.Outcome State Fault Refusal := issueG (.resid f) s (fun g => g.hint true)

def execSptest (f : Fields) (s : State) : Host.Outcome State Fault Refusal :=
  issueG (.sptest f) s (fun g =>
    g.done (fun t =>
      if !guardOn g.f.pg t then t
      else t.setPred (opPreg g.f.d) (match (g.s.spadAccess g.ref false 1 (g.raw t false g.f.a) g.f.disp).2 with
        | .ok a => g.team.present (a % 2 ^ 20 / 128)
        | .error _ => false)))

/-! ### Replies (R230, R401) -/

/-- A lodge entry is FILLED, with poison when its reply was in error, and the latency of a request that went to a stack is sampled (R388). -/
def State.fillEntry (s : State) (quad : Nat) (e : LodgeEntry) (error : Bool) (latency : Nat) : State :=
  let s := s.updQuad quad (fun q => { q with lodge := q.lodge.map (fun x => if x.id == e.id then { x with st := .filled } else x) })
  let s := if e.home = true ∧ 8 ≤ e.port ∧ e.port < 24 then s.sample 1 (25 * (quad / 128) + e.port) latency else s
  let hit (v : PendVal) : Bool := match v with | .v b l _ _ => e.lanes.contains (b, l) | _ => e.lanes.isEmpty
  let mark (v : PendVal) : PendVal := match v with
    | .v b l n _ => .v b l n { val := 0, poison := some .uncorrectable }
    | .s p n _ => .s p n { val := 0, poison := some .uncorrectable }
    | .b p n _ => .b p n { bits := 0, poison := some .uncorrectable, reason := 0 }
  let s := if !error then s else s.updTeam e.team (fun t => { t with pend := t.pend.map (fun (p : PendOp) =>
    if p.id == e.op then { p with vals := p.vals.map (fun v => if hit v then mark v else v)
                                  known := p.known || ((s.quad quad).lodge.filter (fun x => x.team == e.team && x.op == e.op)).all (fun x => decide (x.st = .filled)) }
    else p) })
  s.settleOp e.team quad e.op

def execLodgeReply (quad entry : Nat) (error : Bool) (s : State) : Host.Outcome State Fault Refusal :=
  module s (fun s =>
    match (s.quad quad).lodge.find? (fun e => e.id == entry) with
    | none => s
    | some e =>
      let known : Bool := match s.team? e.team with | some t => (t.pend.any (fun p => p.id == e.op && p.known)) | none => false
      if e.st = .out ∧ e.await = [] ∧ known = true ∧ s.pathUp (quad / 128) e.port then
        -- a peer's answer carries the line over the I/O chiplet
        let s := if e.home = true ∧ e.port = ioPort then s.flits ioPort (quad / 128) 2 else s
        s.fillEntry quad e error (s.cycle - e.since)
      else s)

def execLodgeTimeout (quad entry : Nat) (s : State) : Host.Outcome State Fault Refusal :=
  module s (fun s =>
    match (s.quad quad).lodge.find? (fun e => e.id == entry) with
    | none => s
    | some e =>
      if e.st = .out ∧ s.overdue e.since then
        (s.updCtx e.team.vf (fun c => { c with lodgeto := satInc c.lodgeto })).fillEntry quad e true Config.lodgeTimeout
      else s)

/-- The banks have returned every line. -/
def execScratchpadLoadReturn (quad op : Nat) (s : State) : Host.Outcome State Fault Refusal :=
  module s (fun s =>
    match ((s.clusters.flatMap (fun c => c.teams)).filter (fun t => t.quads.contains quad)).findSome?
        (fun t => (t.pend.find? (fun p => p.id == op && p.bank && p.known && p.place / 16 % 1024 == t.slotOf quad)).map (fun p => (t.ref, p))) with
    | some (r, p) => s.finishOp r p
    | none => s)

/-- A waiting walk is made once its tables can be reached. -/
def execPageWalk (core ctx page : Nat) (s : State) : Host.Outcome State Fault Refusal :=
  module s (fun s =>
    let mine (x : Nat × Nat × Nat × Nat) : Bool := x.1 == core && x.2.1 == ctx && x.2.2.1 == page
    if !s.walkWait.any mine || s.walkStuck core ctx (page * 4096) .load then s
    else ({ s with walkWait := s.walkWait.filter (fun x => !mine x) }.walk core ctx (page * 4096) .load).2)

def execWalkDarkTimeout (core ctx page : Nat) (s : State) : Host.Outcome State Fault Refusal :=
  module s (fun s =>
    match s.walkWait.find? (fun x => x.1 == core && x.2.1 == ctx && x.2.2.1 == page) with
    | none => s
    | some x =>
      if s.overdue x.2.2.2 && s.walkDark core ctx (page * 4096) then { s with walkWait := s.walkWait.erase x, walkFail := s.walkFail ++ [(core, ctx, page)] } else s)

/-! ### The store queue (R305, R338) -/

/-- The head of a group's queue has left: its leaves become dirty, and the REL commands that wait for it have one entry less to wait for (R309). -/
def State.popHead (s : State) (t : Team) (g : Group) (quad : Nat) (leaves : List Nat) : State :=
  let s := s.updTeam t.ref (fun x => match x.group? g.slot g.place with | some y => x.setGroup { y with storeQ := y.storeQ.drop 1 } | none => x)
  let s := { s with cmds := s.cmds.map (fun (k : Cmd) => if k.team == t.ref && k.place == g.key then { k with stores := k.stores - 1 } else k) }
  ((s.setDirty (t.core / 32) leaves).tryDissolve t.ref quad g.place)

/-- The head of a group's queue changed. -/
def State.setHead (s : State) (t : Team) (g : Group) (e : SqEntry) : State :=
  s.updTeam t.ref (fun x => match x.group? g.slot g.place with | some y => x.setGroup { y with storeQ := e :: y.storeQ.drop 1 } | none => x)

/-- An atomic without a return that held back later accesses is over. -/
def State.endAcquire (s : State) (r : TeamRef) (op : Option Nat) (dst : Option Nat) : State :=
  match op, dst with
  | some i, none => s.updTeam r (fun t => { t with pend := t.pend.filter (fun p => p.id != i) })
  | _, _ => s

/-- Scratchpad bytes of the cluster written. -/
def State.spadCells (s : State) (r : TeamRef) (cs : List Host.Cell) : State :=
  cs.foldl (fun s c => s.updTeam { r with cteam := c.1 / 2 ^ 20 } (fun t => { t with spad := t.spad.write (c.1 % 2 ^ 20) c.2 })) s

/-- A plain store to bytes of a barrier object is one of its updates, so the test of R271 follows it. An object is what `barinit` has made of an address, until a store
leaves its EXP 0, which no object has (log 65). -/
def Team.storedObj (t : Team) (a : Nat) : Team :=
  if (t.barObj a).exp = 0 then { t with objs := t.objs.filter (· != a) } else t.barUpdate a id

/-- A plain store at a bank: its bytes are written, and the barrier objects it touches are updated (R271). -/
def State.bankStore (s : State) (r : TeamRef) (cs : List Host.Cell) : State :=
  let s := s.spadCells r cs
  (distinct (cs.map (fun c => c.1 / 16))).foldl (fun (s : State) k =>
    s.updTeam { r with cteam := k * 16 / 2 ^ 20 } (fun t => if t.objs.contains (k * 16 % 2 ^ 20) then t.storedObj (k * 16 % 2 ^ 20) else t)) s

/-- The head entry of a queue on a bank: its stores are written, or its lanes performed in order. -/
def State.bankHead (s : State) (t : Team) (g : Group) (e : SqEntry) (quad : Nat) : State :=
  match e.item with
  | .store cs => (s.bankStore t.ref cs).popHead t g quad []
  | .atomic k u w ls dst op =>
    let (s, vals) := ls.foldl (fun (a : State × List PendVal) l =>
      match a.1.mate t.ref (l.addr / 2 ^ 20) with
      | none => a
      | some m =>
        let r := atomLane k u w m.spad { l with addr := l.addr % 2 ^ 20 }
        let bad := a.1.badSpad t.ref l.addr w
        let ret := match dst with
          | some n => (atomReturn w n l r.2).map (fun v => match v with | .v b x y z => PendVal.v b x y (if bad then { val := 0, poison := some .uncorrectable } else z) | z => z)
          | none => []
        (a.1.setTeam { m with spad := r.1 }, a.2 ++ ret)) (s, [])
    ((s.updTeam t.ref (fun x => x.learn op vals true)).endAcquire t.ref op dst).popHead t g quad []

/-- The cached blocks of an entry are written in their L1s, which own them; a no-allocate store to a host block leaves no copy behind (R234). -/
def State.writeCached (s : State) (t : Team) (e : SqEntry) (cached : List Nat) : State :=
  let dirty (c : Coh) : Coh := cached.foldl (fun (c : Coh) b => let core := s.l1Core t (64 * b); if c.l1St core b = .m then c else c.setL1 core b .m (c.l1Keep core b)) c
  let s := cached.foldl (fun (s : State) b => s.hostWritten (t.core / 32) b) { s with coh := dirty s.coh }
  let s := match e.item with
    | .store cs => { s with mem := s.mem.writeCells (cs.filter (fun c => cached.contains (c.1 / 64))) }
    | .atomic k u w ls dst op =>
      let (m, vals) := atomRun k u w dst s.mem (ls.filter (fun l => cached.contains (l.addr / 64)))
      if cached.isEmpty then s else { s with mem := m }.updTeam t.ref (fun x => x.learn op vals true)
  if e.keep = 3 then s.evictAll (t.core / 32) t.ref.vf cached else s

/-- The source of a head entry's requests at homes: its quadrant and place. -/
def srcOf (quad : Nat) (g : Group) : Nat := 16 * quad + g.place

/-- Blocks that a head entry performs at their homes and has not asked for yet. -/
def State.unsent (s : State) (g : Group) (e : SqEntry) (quad : Nat) : List Nat :=
  e.home.filter (fun b => !e.done.contains b && !(s.coh.homes.get (s.homeStack (64 * b)) []).any (fun (r : HomeReq) =>
    r.block == b && r.src == srcOf quad g && e.asked == some r.since))

/-- Requests of a head entry leave for their homes, each when the miss table has a place for it; an atomic that returns a value holds its lodge entry instead (R232). -/
def State.sendBlocks (s : State) (t : Team) (g : Group) (e : SqEntry) (quad now : Nat) : State :=
  let kind : HomeKind := match e.item with | .store _ => .uncachedWrite | .atomic .. => .atomic
  (s.unsent g e quad).foldl (fun (s : State) b =>
    if e.silent && s.missFull (t.core / 32) then s
    else s.sendHome { kind := kind, block := b, who := t.core / 32, core := t.core, src := srcOf quad g, ctx := t.ref.vf, keep := 0, waitFwd := false, since := now }) s

/-- A head entry's cached lines counted as hits or misses of their L1s when it first comes to the head (R232, R353). -/
def State.countL1 (s : State) (t : Team) (cached lack : List Nat) : State :=
  (distinct (cached.map (· / 2))).foldl (fun (s : State) l => s.diag (4 * t.core) t.ref.vf (if lack.any (fun b => b / 2 == l) then 5 else 4) (· + 1)) s

/-- The head entry of a queue on global memory: the blocks that its core owns are written there, the others at their homes; an entry
leaves when the last is done and the DT bits it sets can be set (R224, R305, R314, R322, R325). -/
def State.globalHead (s : State) (t : Team) (g : Group) (e : SqEntry) (quad : Nat) : State :=
  let owned (b : Nat) : Bool := let st := s.coh.l1St (s.l1Core t (64 * b)) b; decide (st = .m) || decide (st = .e)
  let cached := e.blocks.filter (fun b => !e.home.contains b)
  let now := e.asked.getD s.cycle
  let lack := cached.filter (fun b => !owned b)
  let s := if e.asked.isSome then s else s.countL1 t cached lack
  if lack.isEmpty && e.home.all (fun b => e.done.contains b) then
    match s.leavesWait (t.core / 32) e.leaves with
    | some (_, s) => s.setHead t g { e with asked := some now }
    | none =>
      let s := s.writeCached t e cached
      let s := match e.item with | .atomic _ _ _ _ dst op => s.endAcquire t.ref op dst | _ => s
      s.popHead t g quad e.leaves
  else
    let op : Option Nat := match e.item with | .atomic _ _ _ _ (some _) op => op | _ => none
    let s := s.sendBlocks t g e quad now
    let s := if e.asked.isSome || op.isNone then s else
      s.updQuad quad (fun q => { q with lodge := q.lodge.map (fun x => if x.team == t.ref && some x.op == op then { x with home := true } else x) })
    let s := lack.foldl (fun (s : State) b => s.ask (s.l1Core t (64 * b)) b true t.ref.vf e.keep) s
    s.setHead t g { e with asked := some now }

/-- Stored bytes as single accesses: each run of consecutive addresses inside one block of 64 bytes (R303). -/
def storeRuns (cs : List Host.Cell) : List (Nat × List Byte) :=
  (cs.foldl (fun (l : List (Nat × List Byte)) c => match l with
    | (a, bs) :: rest => if c.1 = a + bs.length ∧ c.1 / 64 = a / 64 then (a, bs ++ [c.2]) :: rest else (c.1, [c.2]) :: l
    | [] => [(c.1, [c.2])]) []).reverse

/-- What an entry sends to a peer for one block, each part a single access at its home (R303, R324). -/
def SqEntry.peerParts (e : SqEntry) (block : Nat) : List PeerMsg :=
  match e.item with
  | .store cs => (storeRuns (cs.filter (fun c => c.1 / 64 == block))).map (fun x => PeerMsg.write x.1 x.2)
  | .atomic k u w ls _ _ => (ls.filter (fun l => l.addr / 64 == block)).map (fun l => PeerMsg.atomic l.addr k u w l.val l.cmp)

/-- An access to a peer leaves for the peer's home, block by block as the miss table has room, and the entry leaves the queue when that home's acknowledgement has come back
(R232, R305, R324, R328): turns with a way send it, a later one with a way receives the answer. What its atomics return is a free value (log 5). -/
def State.peerHead (s : State) (t : Team) (g : Group) (e : SqEntry) (quad port : Nat) : State :=
  let wait (s : State) (e : SqEntry) : State := s.setHead t g { e with asked := some (e.asked.getD s.cycle) }
  let chiplet := t.core / 32
  let left := e.blocks.filter (fun b => !e.done.contains b)
  if !s.pathUp chiplet ioPort then wait s e
  else if !left.isEmpty then
    let room := if e.silent then 4096 - s.missHeld chiplet else left.length
    let parts := (left.take room).flatMap e.peerParts
    wait ({ s with out := { s.out with peer := s.out.peer ++ parts.map (fun x => (port, x)) } }.flits chiplet ioPort (2 * parts.length)) { e with done := e.done ++ left.take room }
  else
    match s.leavesWait chiplet e.leaves with
    | some (_, s) => wait s e
    | none =>
      let s := s.flits ioPort chiplet (e.blocks.flatMap e.peerParts).length
      match e.item with
      | .store _ => s.popHead t g quad e.leaves
      | .atomic _ _ w ls dst op =>
        let vals := match dst with
          | some n => ls.flatMap (fun l => atomReturn w n l (natOfBytes ((List.range w).map (fun i => Config.freeByte ((s.tick * 8 + port) * 2 ^ 64 + l.addr + i)))))
          | none => []
        let s := { s with tick := s.tick + 1 }
        ((s.updTeam t.ref (fun x => x.learn op vals true)).endAcquire t.ref op dst).popHead t g quad e.leaves

/-- The head of a group's store queue on a quadrant. -/
def State.headOf (s : State) (quad place : Nat) : Option (Team × Group × SqEntry) :=
  match (s.groupsOn quad).find? (fun x => x.2.place == place) with
  | some (t, g) => match g.storeQ with | e :: _ => some (t, g, e) | [] => none
  | none => none

def execStoreQueueDrain (quad place : Nat) (s : State) : Host.Outcome State Fault Refusal :=
  module s (fun s =>
    match s.headOf quad place with
    | none => s
    | some (t, g, e) =>
      if e.unverified then s
      else match e.space with
        | .spad => s.bankHead t g e quad
        | .phys => s.globalHead t g e quad
        | .peer port => s.peerHead t g e quad port)

/-- An entry whose ownership, acknowledgement or performance has waited 2^21 cycles on a dark direction (R401): its cluster consumes an
uncorrectable error. -/
def execStoreDarkTimeout (quad place : Nat) (s : State) : Host.Outcome State Fault Refusal :=
  module s (fun s =>
    match s.headOf quad place with
    | none => s
    | some (t, _, e) =>
      let chiplet := t.core / 32
      let dark := match e.space with
        | .phys => (e.blocks.filter (fun b => !e.done.contains b)).any (fun b => s.blockStalled chiplet b)
        | .peer _ => !s.pathUp chiplet ioPort
        | .spad => false
      match e.asked with
      | none => s
      | some since => if s.overdue since && (dark || e.leaves.any (fun a => !s.pathUp chiplet (s.portOf a))) then s.consume t.ref else s)

/-! ### Instruction lines (R107) -/

/-- A slot's even parity with its bit of the slot word (R107). -/
def slotBad (w : IWord) (p : Bool) : Bool := (popN 96 w.toNat % 2 == 1) != p

/-- A fetched line enters the cache of a core: five slots of 96 bits and the slot word. `glitch` names the slots whose parity fails twice. -/
def execIcacheFill (core ctx line : Nat) (glitch : BitVec 5) (s : State) : Host.Outcome State Fault Refusal :=
  module s (fun s =>
    if (s.iline core ctx line).isSome || s.walkStuck core ctx (line * 64) .fetch then s
    else
      match s.readLine core ctx line with
      | .waits s => s
      | .fails s => s
      | .line l s =>
          let slots : List IWord := (List.range 5).map (fun i => BitVec.ofNat 96 (s.mem.nat (l.pa + 12 * i) 12))
          let word : BitVec 32 := BitVec.ofNat 32 (s.mem.nat (l.pa + 60) 4)
          let bad := (List.range 5).foldl (fun (b : BitVec 5) i =>
            if glitch.getLsbD i || slotBad (slots.getD i 0) (word.getLsbD (19 + i)) then b ||| BitVec.ofNat 5 (2 ^ i) else b) 0
          { s with lineWait := s.lineWait.filter (fun x => !(x.1 == core && x.2.1 == ctx && x.2.2.1 == line)) }.cacheLine core
            { ctx := ctx, line := line, slots := slots, word := word, bad := bad, error := s.badAt l.pa 64 })

end Sys2Proof.Machine
end

