-- ==== Sys2Proof/Machine/Async.lean ====
section
/-! DEFINITION. The async engine: issue, acceptance, block writes and completion of its commands, handles, and barrier objects
(R41, R42, R254 to R273, R259, R401). -/
namespace Sys2Proof.Machine

/-! ### Issue (R254, R255, R257, R268) -/

/-- A barrier arrival, ring signal or handle signal of a verified group waits until its second agrees (R369). -/
def GCtx.agreed (g : GCtx) (body : GCtx → State) : State :=
  if !g.verified then body g
  else if !g.grp.arrived then g.updGroup g.s (fun r => { r with heldAt := some (r.heldAt.getD g.s.cycle) })
  else
    let grp := { g.grp with arrived := false, heldAt := none }
    let team := g.team.setGroup grp
    body { g with s := g.s.setTeam team, team := team, grp := grp }

/-- A new command of a group. -/
def GCtx.newCmd (g : GCtx) (id op : Nat) : Cmd :=
  { id := id, core := g.team.core, team := g.ref, place := g.grp.key, slot := g.grp.slot, hreg := match g.f.d with | .h n => some n.toNat | _ => none
    op := op, a := BitVec.ofNat 64 (g.once g.f.a).1, b := BitVec.ofNat 64 (g.once g.f.b).1, c := BitVec.ofNat 64 (g.once g.f.c).1, brec := g.record g.f.a
    mod := g.f.mod, imm := g.f.imm, acq := g.f.m 3, rel := g.f.m 4, scope := g.scope
    after := if g.f.m 3 then (g.s.cmds.filter (fun (k : Cmd) => k.team == g.ref && k.place == g.grp.key)).map (·.id) else []
    stores := if g.f.m 4 then g.grp.storeQ.length else 0, signal := none
    accepted := false, acceptedAt := g.s.cycle, shape := 0, pages := [], total := 0, next := 0, counted := 0, subbed := 0
    bar := if g.f.i 31 31 = 1 then some (16 * g.f.i 30 16) else none
    lines := [], fault := none, idxFault := false, reject := none, cancel := false, sent := false, arrived := [], left := [], hutFault := none, busy := false
    reported := [], pmask := 0, mmask := 0, partials := [], lists := [], scanned := [], scanAt := [], granted := [], result := none, finished := false, unverified := g.verified, idxs := none
    asked := none, prog := [], held := [], away := false, grid := none }

/-- A command is captured (R254 step 1): poisoned operands trap, a pending handle or a full engine parks the group. An earlier acquiring atomic of the group is performed
first (R310, R338). -/
def GCtx.command (g : GCtx) (op : Nat) : State := g.ordered <|
  let rec' := if op = 1 then (g.record g.f.a).poison else none
  match worst rec' (worst (g.once g.f.a).2 (worst (g.once g.f.b).2 (g.once g.f.c).2)) with
  | some k => g.consumeTrap k g.lanes (if rec' = some k && decide (k = .format) then (g.record g.f.a).reason.toNat else 0)
  | none =>
    let busy : Bool := match g.f.d with | .h n => decide ((g.grp.hreg n.toNat).st = .pending) | _ => false
    if busy then g.park (.handle (opNum g.f.d))
    else if engineRoom ≤ g.s.engineHeld g.team.core then g.park .engineFull
    else
      let (id, s) := g.s.fresh
      let k := g.newCmd id op
      let s := if k.rel then g.escaping s else s
      let s := { s with cmds := s.cmds ++ [k] }
      let h : Handle := { Handle.null with st := .pending, cmd := some id }
      g.finish (match g.f.d with | .h n => g.updGroup s (fun x => x.setH n.toNat h) | _ => s)

def execAcopy (f : Fields) (s : State) : Host.Outcome State Fault Refusal := issueG (.acopy f) s (fun g => g.command 0)

def execAwrite (f : Fields) (s : State) : Host.Outcome State Fault Refusal := issueG (.awrite f) s (fun g => g.command 1)

def execAgather (f : Fields) (s : State) : Host.Outcome State Fault Refusal := issueG (.agather f) s (fun g => g.command 2)

def execAscatter (f : Fields) (s : State) : Host.Outcome State Fault Refusal := issueG (.ascatter f) s (fun g => g.command 3)

def execAstage (f : Fields) (s : State) : Host.Outcome State Fault Refusal := issueG (.astage f) s (fun g => g.command 4)

def execAfill (f : Fields) (s : State) : Host.Outcome State Fault Refusal := issueG (.afill f) s (fun g => g.command 5)

def execAhut (f : Fields) (s : State) : Host.Outcome State Fault Refusal := issueG (.ahut f) s (fun g => g.command 6)

def execAsummit (f : Fields) (s : State) : Host.Outcome State Fault Refusal := issueG (.asummit f) s (fun g => g.command 7)

/-! ### Handles (R268, R269) -/

def execHwait (f : Fields) (s : State) : Host.Outcome State Fault Refusal :=
  issueG (.hwait f) s (fun g => if (g.grp.hreg (opNum g.f.a)).st = .pending then g.park (.handle (opNum g.f.a)) else g.done id)

def execHtest (f : Fields) (s : State) : Host.Outcome State Fault Refusal :=
  issueG (.htest f) s (fun g =>
    let w := (g.grp.hreg (opNum g.f.a)).word
    g.receives [(w, none)] (fun push => g.done id (fun x => push (x.setS (opNum g.f.d) { val := BitVec.ofNat 64 w, poison := none }))))

/-- The signal an `hpass` names. -/
def passSignal (f : Fields) (x : Nat) : Signal := if f.i 1 0 = 0 then .barrier (f.i 5 2) else .ring (f.i 1 0 == 2) (f.i 4 2) x

/-- A signal is attached to a pending handle, or given at once; a second one waits in place until the first has fired. -/
def execHpass (f : Fields) (s : State) : Host.Outcome State Fault Refusal :=
  issueG (.hpass f) s (fun g =>
    let x := g.once g.f.b
    match x.2 with
    | some k => g.consumeTrap k g.lanes
    | none =>
      let n := opNum g.f.a
      let h := g.grp.hreg n
      if h.st = .pending ∧ h.signal.isSome then g.s
      else g.agreed (fun g =>
        if h.st = .pending then g.done id (fun y => y.setH n { h with signal := some (passSignal g.f x.1) })
        else g.finish (g.s.updTeam g.ref (fun t => t.give (passSignal g.f x.1)))))

/-- The command of a pending handle is marked; it stops at its next block boundary. One already sent to the stacks runs on. -/
def execHcancel (f : Fields) (s : State) : Host.Outcome State Fault Refusal :=
  issueG (.hcancel f) s (fun g =>
    let h := g.grp.hreg (opNum g.f.a)
    if h.st ≠ .pending then g.done id
    else g.finish { g.s with cmds := g.s.cmds.map (fun (k : Cmd) => if some k.id = h.cmd ∧ ¬(k.nearMemory ∧ k.sent) then { k with cancel := true } else k) })

/-! ### Barrier objects (R272, R273) -/

/-- A value of `barinit` and `barexp`. -/
def GCtx.barVal (g : GCtx) (o : Operand) : Nat × Option PoisonKind := g.once o

/-- An instruction on a barrier object: poisoned values, or an address that names no object, trap; it waits in place for earlier commands of
its group on the object that are not yet accepted. -/
def GCtx.barObject (g : GCtx) (body : GCtx → Nat → Nat → State) : State :=
  let a := g.barVal g.f.a
  let b := g.barVal g.f.b
  match worst a.2 b.2 with
  | some k => g.consumeTrap k g.lanes
  | none =>
    let spad := match g.s.kd? g.ref with | some k => k.spad | none => 0
    if a.1 % 16 ≠ 0 ∨ spad ≤ a.1 then g.consumeTrap .bounds g.lanes
    else if g.s.cmds.any (fun (k : Cmd) => k.team == g.ref && k.place == g.grp.key && !k.accepted && k.bar == some a.1) then g.s
    else body g a.1 b.1

def execBarinit (f : Fields) (s : State) : Host.Outcome State Fault Refusal :=
  issueG (.barinit f) s (fun g => g.barObject (fun g a e =>
    let exp := if e % 65536 = 0 then 1 else e % 65536
    g.finish (g.s.updTeam g.ref (fun t => t.startObj a exp))))

def execBarexp (f : Fields) (s : State) : Host.Outcome State Fault Refusal :=
  issueG (.barexp f) s (fun g => g.barObject (fun g a x =>
    let upd (b : BarObj) : BarObj := let b := b.expect (s64 x); if g.f.m5 then b.arrive else b
    let go (g : GCtx) : State := g.finish (g.s.updTeam g.ref (fun t => t.barUpdate a upd))
    if g.f.m5 then g.agreed go else go g))

/-! ### The work of a command (R258, R260 to R265) -/

/-- A place that a command reads or writes: a cluster scratchpad address, a global address, or a byte of a slice of a slot's B-SRAM. -/
inductive Place where
  | spad (a : Nat)
  | glob (va : Nat)
  | bsram (slot col off : Nat)
  deriving DecidableEq, Repr

/-- What a destination byte receives. -/
inductive Source where
  | place (p : Place)
  | byte (b : Byte)
  deriving DecidableEq, Repr

def Cmd.rec' (c : Cmd) : ShapeRec := ShapeRec.of c.shape

/-- Bytes of a row of `agather` and `ascatter`. -/
def Cmd.rowBytes (c : Cmd) : Nat := c.rec'.exOf 0 * c.rec'.bytes

/-- The slots of `astage`. -/
def Cmd.slots (c : Cmd) : List Nat :=
  let m := c.imm.toNat % 16
  if m = 0 then [c.slot] else (List.range 4).filter (fun i => m.testBit i)

/-- IMM[15:0]. -/
def Cmd.imm16 (c : Cmd) : Nat := c.imm.toNat % 65536
def Cmd.m5 (c : Cmd) : Bool := c.mod.getLsbD 5

/-- The bytes a command counts into its barrier object (R260). -/
def Cmd.bytes (c : Cmd) : Nat :=
  match c.op with
  | 0 => c.rec'.total
  | 1 => 8
  | 2 => c.imm16 * c.rowBytes
  | 3 => c.imm16 * c.rowBytes
  | 4 => 64 * c.rec'.exOf 0 * c.rec'.exOf 1 * c.slots.length
  | 5 => if c.m5 then c.rec'.total else c.b.toNat
  | _ => 0

/-- Byte `k` of a command: where it comes from and where it goes; none for a skipped row (R261 to R265). -/
def Cmd.byteAt (c : Cmd) (k : Nat) : Option (Source × Place) :=
  let r := c.rec'
  match c.op with
  | 0 =>
    let g := Place.glob (r.byteAddr (k / r.bytes) (k % r.bytes))
    let sp := Place.spad (c.b.toNat + k)
    some (if c.m5 then (.place sp, g) else (.place g, sp))
  | 1 => match (BufRec.of c.brec.bits).addr 0 (c.b.toInt) 8 with
    | .ok (_, a) => some (.byte (BitVec.ofNat 8 (c.c.toNat / 2 ^ (8 * k))), .glob (a + k))
    | .error _ => none
  | 4 =>
    let per := 64 * r.exOf 0 * r.exOf 1
    let e := k % per / 64
    some (.place (.glob (r.byteAddr e (k % 64))),
          .bsram (c.slots.getD (k / per) 0) (c.c.toNat + e / r.exOf 0) (c.b.toNat + 64 * (e % r.exOf 0) + k % 64))
  | 5 =>
    if c.m5 then
      let b : Byte := if r.tb then (if k % 64 = 0 then BitVec.ofNat 8 c.c.toNat else 0) else BitVec.ofNat 8 (c.c.toNat / 2 ^ (8 * (k % 4)))
      some (.byte b, .glob (r.byteAddr (k / r.bytes) (k % r.bytes)))
    else some (.byte (BitVec.ofNat 8 (c.c.toNat / 2 ^ (8 * (k % 4)))), .spad (c.a.toNat + k))
  | _ =>
    match (c.idxs.getD []).getD (k / c.rowBytes) none with
    | none => none
    | some x =>
      let q := k % c.rowBytes
      let g := Place.glob (r.byteAddr (x * r.exOf 0 + q / r.bytes) (q % r.bytes))
      let sp := Place.spad (c.b.toNat + k)
      some (if c.op = 2 then (.place g, sp) else (.place sp, g))

/-- The 64-byte destination block of byte `k`: the kind of place, or the slot of a B-SRAM share, the slice, and the block (R258). -/
def Cmd.blockOf (c : Cmd) (k : Nat) : Option (Nat × Nat × Nat) :=
  (c.byteAt k).map (fun x => match x.2 with
    | .spad a => (0, 0, a / 64)
    | .glob a => (0, 1, a / 64)
    | .bsram s col off => (1 + s, col, off / 64))

/-- Elements in order of first appearance. -/
def firsts {α : Type} [BEq α] (l : List α) : List α := l.foldl (fun a x => if a.contains x then a else a ++ [x]) []

/-- The destination blocks of a command, in order. -/
def Cmd.blocks (c : Cmd) : List (Nat × Nat × Nat) := firsts ((List.range c.bytes).filterMap c.blockOf)

/-! ### Acceptance (R41, R42, R254 step 2, R256, R266) -/

/-- A 64-byte record at a global address, from the engine's record cache or from memory: its bytes, a fault, or a wait, on a dark direction or not. -/
inductive Read64 where
  | ok (bs : List Byte)
  | fault (k : PoisonKind)
  | wait (dark : Bool)
  deriving DecidableEq, Repr

def State.readRecord (s : State) (core v addr : Nat) : Read64 × State :=
  match (s.recCache.get core []).find? (fun x => x.1 == v && x.2.1 == addr) with
  | some x => (.ok x.2.2, s)
  | none =>
    if s.globalStuck core v addr .load then (.wait false, s.waitWalks core v [addr])
    else
      match s.translateGlobal core v addr .load with
      | (.error k, s) => (.fault k, s)
      | (.ok l, s) =>
        match l.space with
        | .peer port =>
          if !s.pathUp (core / 32) ioPort then (.wait true, s)
          else
            let bs := (List.range 64).map (fun i => Config.freeByte ((s.tick * 8 + port) * 2 ^ 64 + l.pa + i))
            let out := { s.out with peer := s.out.peer ++ [(port, PeerMsg.read l.pa 64)] }
            (.ok bs, { s with tick := s.tick + 1, out := out }.exchange (core / 32) ioPort 1 1)
        | _ =>
          match s.reach (core / 32) v [l.pa / 64] [] with
          | .waits dark s => (.wait dark, s)
          | .go s => if s.badAt l.pa 64 then (.fault .uncorrectable, s) else (.ok (s.mem.bytes l.pa 64), s)

/-- An accepted record stays in the engine's record cache, until `recinv` drops it: the cache has no capacity here (R42; DESIGN CHOICE, log 72). -/
def State.keepRecord (s : State) (core v addr : Nat) (bs : List Byte) : State :=
  let l := s.recCache.get core []
  if l.any (fun x => x.1 == v && x.2.1 == addr) then s else { s with recCache := s.recCache.set core (l ++ [(v, addr, bs)]) }

/-- A scratchpad range of the issuing team, or with CL of the cluster, as a cluster address (R261). -/
def State.imageAt (s : State) (r : TeamRef) (cl : Bool) (a n : Nat) : Option Nat := (s.spadAddr r cl a n).toOption

/-- The command checks of R256 in ascending code order, and the command with its scratchpad addresses resolved. -/
def State.checkCmd (s : State) (c : Cmd) : Nat × Cmd :=
  let spad := match s.kd? c.team with | some k => k.spad | none => 0
  let window := match s.kd? c.team with | some k => k.bsram / 64 | none => 0
  let team := s.team? c.team
  let r := c.rec'
  let n := c.bytes
  let image := match c.op with
    | 0 => s.imageAt c.team (c.imm.getLsbD 0) c.b.toNat n
    | 2 => s.imageAt c.team false c.b.toNat n
    | 3 => s.imageAt c.team false c.b.toNat n
    | 5 => if c.m5 then some 0 else s.imageAt c.team false c.a.toNat n
    | _ => some 0
  let range : Bool := match c.op with
    | 2 => image.isNone || decide (c.c.toNat % 4 ≠ 0) || decide (spad < c.c.toNat + 4 * c.imm16)
    | 3 => image.isNone || decide (c.c.toNat % 4 ≠ 0) || decide (spad < c.c.toNat + 4 * c.imm16)
    | 4 => decide (c.b.toNat % 64 ≠ 0) || decide (window < c.b.toNat + 64 * r.exOf 0) || decide (64 < c.c.toNat + r.exOf 1) ||
        (match team with | some t => c.slots.any (fun i => decide (t.slots ≤ i)) || !t.hasMatrix | none => true)
    | 5 => image.isNone || (!c.m5 && decide (c.b.toNat % 4 ≠ 0))
    | _ => image.isNone
  let writes := (c.op == 0 && c.m5) || c.op == 3 || (c.op == 5 && c.m5)
  let shape : Bool := match c.op with
    | 2 => r.rank != 2
    | 3 => r.rank != 2
    | 4 => !r.tb || r.rank != 2
    | 5 => c.m5 && r.tb && !([0x31, 0x32, 0x34].contains (c.c.toNat % 256))
    | _ => false
  let count : Bool := match c.op with
    | 2 => c.imm16 == 0
    | 3 => c.imm16 == 0
    | 5 => !c.m5 && c.b == 0
    | _ => false
  (firstReason [(range, 7), (writes && !r.wr, 8), (shape, 9), (match c.bar with | some a => decide (spad ≤ a) | none => false, 10), (count, 11)],
   match c.op with
   | 5 => if c.m5 then c else { c with a := BitVec.ofNat 64 (image.getD 0) }
   | 0 => { c with b := BitVec.ofNat 64 (image.getD 0) }
   | 2 => { c with b := BitVec.ofNat 64 (image.getD 0) }
   | 3 => { c with b := BitVec.ofNat 64 (image.getD 0) }
   | _ => c)

def State.setCmd (s : State) (c : Cmd) : State := { s with cmds := s.cmds.map (fun (k : Cmd) => if k.id == c.id then c else k) }
def State.delCmd (s : State) (c : Cmd) : State := { s with cmds := s.cmds.filter (fun (k : Cmd) => k.id != c.id) }

/-- A command is over (R254 step 4, R259, R268): what it did not write leaves PEND and the presence counts, ERR is set for an error after
acceptance, and the handle takes its final state and gives its signal. A consumed uncorrectable error is decided then (R363). A launch may have waited for a command
of a killed team (R81, R365). -/
def State.completeCmd (s : State) (c : Cmd) (st : HState) (reason : Nat) (pmask mmask : Nat) : State :=
  let err := decide (st = .error) && c.accepted
  let rest := c.counted - c.subbed
  let s := s.updTeam c.team (fun t => match c.bar with
    | some a => if c.accepted then t.barUpdate a (fun b => let b := if rest = 0 then b else b.add (-(rest : Int)); { b with err := b.err || err }) else t
    | none => t)
  let s := c.lines.foldl (fun (s : State) (x : Nat × Nat) =>
    if x.2 = 0 then s else s.updTeam { c.team with cteam := x.1 * 128 / 2 ^ 20 } (fun t => t.subPending s.cycle (x.1 * 128 % 2 ^ 20 / 128) 1)) s
  let s := s.updTeam c.team (fun t => match c.hreg with | some n => t.completeHandle c.place n c.id st reason pmask mmask | none => t)
  let s := s.updTeam c.team (fun t => match c.signal with | some x => t.give x | none => t)
  let s := s.delCmd c
  let s := match c.grid with | some id => s.finishLaunch c.team.vf id | none => s
  if st = .error ∧ reason = 0x20 then s.consume c.team else s.tryRetire c.team

/-- A command is accepted: bytes counted, presence updated, its record kept (R236, R254, R373 for the staging log). -/
def State.acceptCmd (s : State) (c : Cmd) (bs : List Byte) : State :=
  let n := c.bytes
  let dests := (List.range n).filterMap (fun k => match (if c.op = 2 then some (Source.byte 0, Place.spad (c.b.toNat + k)) else c.byteAt k) with
    | some (_, .spad a) => some (a / 128)
    | _ => none)
  let ls := if c.op = 3 then [] else (firsts dests).map (fun l => (l, (dests.filter (· == l)).length))
  let mate (l : Nat) : TeamRef := { c.team with cteam := l * 128 / 2 ^ 20 }
  let no (l : Nat) : Nat := l * 128 % 2 ^ 20 / 128
  if ls.any (fun x => match s.team? (mate x.1) with | some t => decide (15 ≤ t.absent.get (no x.1) 0) | none => false) then s
  else
    let s := ls.foldl (fun (s : State) (x : Nat × Nat) => s.updTeam (mate x.1) (fun t => t.addPending (no x.1) 1)) s
    let s := s.updTeam c.team (fun t => match c.bar with | some a => t.barUpdate a (fun b => b.add (n : Int)) | none => t)
    let s := if bs.isEmpty then s else s.keepRecord c.core c.team.vf c.a.toNat bs
    let s := if c.op ≠ 4 then s else s.updTeam c.team (fun t =>
      let kept := c.slots.filter (fun k => decide (t.staged.get k 0 < 64))
      { t with staged := c.slots.foldl (fun (m : Tab Nat) k => m.set k (m.get k 0 + 1)) t.staged
               stageLog := if kept.isEmpty then t.stageLog else t.stageLog ++ [{ shape := c.shape, woff := c.b.toNat, col0 := c.c.toNat, slots := kept }] })
    s.setCmd { c with accepted := true, acceptedAt := s.cycle, total := n, counted := n, lines := ls }

/-- Every command that a command with ACQ follows has completed (R257). -/
def State.acquired (s : State) (c : Cmd) : Bool := c.after.all (fun i => s.cmds.all (fun (k : Cmd) => k.id != i))

/-- The command that a core's engine accepts next (R254): the first in issue order. One with ACQ reads no byte, its record among them, before the earlier commands of
its group have completed (R257; DEDUCED, log 63). -/
def State.nextCmd (s : State) (core : Nat) : Option Cmd :=
  (s.cmds.find? (fun (c : Cmd) => c.core == core && !c.accepted && !c.cancel)).filter s.acquired

/-- A command waits, on a dark direction since the first turn that found it dark (R401). -/
def State.darkSince (s : State) (c : Cmd) (dark : Bool) : State := s.setCmd { c with asked := if dark then some (c.asked.getD s.cycle) else none }

/-- A command that names no shape record. -/
def Cmd.plain (c : Cmd) : Bool := c.op == 1 || (c.op == 5 && !c.m5)

def execAsyncAccept (core : Nat) (s : State) : Host.Outcome State Fault Refusal :=
  module s (fun s =>
    match s.nextCmd core with
    | none => s
    | some c =>
      if c.unverified || 6 ≤ c.op then s
      else if c.plain then
        match s.checkCmd c with
        | (0, c) => s.acceptCmd c []
        | (r, c) => s.completeCmd c .error r 0 0
      else if c.a.toNat % 64 ≠ 0 then s.completeCmd c .error 4 0 0
      else
        match s.readRecord core c.team.vf c.a.toNat with
        | (.wait dark, s) => s.darkSince c dark
        | (.fault k, s) => s.completeCmd c .error k.code 0 0
        | (.ok bs, s) =>
          let shape : BitVec 512 := BitVec.ofNat 512 (natOfBytes bs)
          let c := { c with shape := shape }
          match shapeReason shape with
          | 0 => match s.checkCmd c with
            | (0, c) => s.acceptCmd c bs
            | (r, c) => s.completeCmd c .error r 0 0
          | r => s.completeCmd c .error r 0 0)

/-! ### Blocks (R258, R259) -/

/-- What a block's turn came to: it waits, it fails, or it has been read whole and written, or sent to a peer whose acknowledgement is still to come (R324). With
the last two go the source blocks that the command's next block needs too, so that each is read once (R258, R303). -/
inductive BlockEnd where
  | waits (dark : Bool)
  | fails (k : PoisonKind)
  | written (held : List (Nat × List Byte))
  | sent (held : List (Nat × List Byte))
  deriving DecidableEq, Repr

/-- The 64-byte blocks of global memory that the bytes of one destination block come from. -/
def Cmd.sourceBlocks (c : Cmd) (key : Nat × Nat × Nat) : List Nat :=
  distinct (((List.range c.bytes).filter (fun k => c.blockOf k == some key)).filterMap (fun k => match c.byteAt k with
    | some (.place (.glob a), _) => some (a / 64)
    | _ => none))

/-- A global byte of a command: its place, or the kind it fails with; TB wants the page attribute (R256). -/
def globByte (m : List (Nat × Except PoisonKind Line)) (tb : Bool) (va : Nat) : Except PoisonKind (Space × Nat × List Nat) :=
  match m.find? (fun e => e.1 == va / 128) with
  | some (_, .ok l) => if tb && !l.tb then .error .format else .ok (l.space, l.pa + va % 128, l.dirties)
  | some (_, .error k) => .error k
  | none => .error .pageFault

/-- A byte of B-SRAM. -/
def bsramKey (col off : Nat) : Nat := 8192 * col + off

/-- One destination block of a command, read and written as a unit; a source block read for the block before is not read again. -/
def State.cmdBlock (s : State) (c : Cmd) (key : Nat × Nat × Nat) : BlockEnd × State :=
  let v := c.team.vf
  let r := c.rec'
  let tb := if c.op = 1 then (BufRec.of c.brec.bits).tb else r.tb && !c.plain
  let plan := ((List.range c.bytes).filter (fun k => c.blockOf k == some key)).filterMap c.byteAt
  let heldAt (a : Nat) : Option (Nat × List Byte) := c.held.find? (fun h => h.1 == a / 64)
  let rdVa := plan.filterMap (fun x => match x.1 with | .place (.glob a) => if (heldAt a).isSome then none else some a | _ => none)
  let wrVa := plan.filterMap (fun x => match x.2 with | .glob a => some a | _ => none)
  let stuck (l : List Nat) (w : Want) := (distinct (l.map (· / 128))).filter (fun x => s.globalStuck c.core v (x * 128) w)
  let lost := stuck rdVa .load ++ stuck wrVa .store
  if !lost.isEmpty then (.waits false, s.waitWalks c.core v (lost.map (· * 128)))
  else
    let (mr, s) := s.mapLines c.core v .load (distinct (rdVa.map (· / 128)))
    let (mw, s) := s.mapLines c.core v .store (distinct (wrVa.map (· / 128)))
    let spads := distinct (plan.filterMap (fun x => match x.1 with | .place (.spad a) => some (a / 128) | _ => none))
    if (s.absentOf c.team spads).isSome then (.waits false, s)
    else
      let cache := if c.op = 1 then (BufRec.of c.brec.bits).cache else r.cache
      let rds := rdVa.map (globByte mr tb)
      let wrs := wrVa.map (globByte mw tb)
      let phys (l : List (Except PoisonKind (Space × Nat × List Nat))) : List Nat :=
        l.filterMap (fun x => match x with | .ok (.phys, a, _) => some a | _ => none)
      let badRead := (phys rds).any (fun a => s.badAt a 1) || spads.any (fun l => s.badSpad c.team (l * 128) 1)
      let kinds := rds.map errOf ++ wrs.map errOf ++ [if badRead then some .uncorrectable else none, if !wrVa.isEmpty && cache == 1 then some .protection else none]
      match worstOf kinds with
      | some k => (.fails k, s)
      | none =>
        let wb := distinct ((phys wrs).map (· / 64))
        let away := (rds ++ wrs).any (fun x => match x with | .ok (.peer _, _, _) => true | _ => false)
        let leaves := distinct (wrs.flatMap (fun x => match x with | .ok (_, _, l) => l | _ => []))
        if away && !s.pathUp (c.core / 32) ioPort then (.waits true, s)
        else match s.leavesWait (c.core / 32) leaves with
        | some (dark, s) => (.waits dark, s)
        | none =>
          match s.reach (c.core / 32) v (distinct ((phys rds).map (· / 64))) wb with
          | .waits dark s => (.waits dark, s)
          | .go s =>
            let globalByte (s : State) (va : Nat) : Byte := match globByte mr tb va with
              | .ok (.phys, a, _) => s.mem.read a
              | .ok (.peer port, a, _) => Config.freeByte ((s.tick * 8 + port) * 2 ^ 64 + a)
              | _ => 0
            let byteOf (x : Source) : Byte := match x with
              | .byte b => b
              | .place (.spad a) => s.spadByte c.team a
              | .place (.bsram _ _ _) => 0
              | .place (.glob va) => match heldAt va with
                | some h => h.2.getD (va % 64) 0
                | none => globalByte s va
            let moves := plan.map (fun x => (byteOf x.1, x.2))
            let next := match c.blocks[c.next + 1]? with | some k => c.sourceBlocks k | none => []
            let held : List (Nat × List Byte) := (c.sourceBlocks key).filterMap (fun b =>
              if !next.contains b then none
              else match heldAt (64 * b) with
                | some h => some h
                | none => some (b, (List.range 64).map (fun i => globalByte s (64 * b + i))))
            let peers (l : List (Except PoisonKind (Space × Nat × List Nat))) : List (Nat × Nat) :=
              l.filterMap (fun x => match x with | .ok (.peer port, a, _) => some (port, a) | _ => none)
            let reads : List (Nat × PeerMsg) := (firsts ((peers rds).map (fun x => (x.1, x.2 / 64)))).map (fun x => (x.1, PeerMsg.read (64 * x.2) 64))
            let cells : List Host.Cell := moves.filterMap (fun x => match x.2 with
              | .glob va => (match globByte mw tb va with | .ok (.peer _, a, _) => some (a, x.1) | _ => none)
              | _ => none)
            let stores : List (Nat × PeerMsg) := match peers wrs with
              | (port, _) :: _ => (storeRuns cells).map (fun x => (port, PeerMsg.write x.1 x.2))
              | [] => []
            let chiplet := c.core / 32
            let s := { s with tick := s.tick + 1, out := { s.out with peer := s.out.peer ++ reads ++ stores } }.setDirty chiplet leaves
            let s := (s.exchange chiplet ioPort reads.length reads.length).flits chiplet ioPort (2 * stores.length)
            (if stores.isEmpty then .written held else .sent held, moves.foldl (fun (s : State) (x : Byte × Place) =>
              match x.2 with
              | .spad a => s.spadCells c.team [(a, x.1)]
              | .bsram slot col off => s.updTeam c.team (fun t => { t with bsram := t.bsram.set slot ((t.bsram.get slot []).write (bsramKey col off) x.1) })
              | .glob va => match globByte mw tb va with
                | .ok (.phys, a, _) => { s with mem := s.mem.write a x.1 }
                | _ => s) s)

/-- The index list of a gather or scatter, read once after acceptance; an index at or beyond EX1 skips its row (R262). -/
def State.readIdxs (s : State) (c : Cmd) : Option Cmd :=
  if (c.op ≠ 2 ∧ c.op ≠ 3) ∨ c.idxs.isSome then some c
  else
    let base := c.team.cteam * 2 ^ 20 + c.c.toNat
    if (s.absentOf c.team (linesOf base (4 * c.imm16))).isSome then none
    else
      let raw := (List.range c.imm16).map (fun i => natOfBytes ((List.range 4).map (fun j => s.spadByte c.team (base + 4 * i + j))))
      let bad (i : Nat) : Bool := s.badSpad c.team (base + 4 * i) 4
      let fault := if (List.range c.imm16).any bad then worst c.fault (some .uncorrectable) else c.fault
      some { c with idxs := some (raw.mapIdx (fun i x => if bad i || decide (c.rec'.exOf 1 ≤ x) then none else some x)), fault := fault
                    idxFault := raw.any (fun x => decide (c.rec'.exOf 1 ≤ x)) }

/-- The bytes of a written block leave PEND and, in the scratchpad, their lines' counts (R236, R271). -/
def State.landBlock (s : State) (c : Cmd) (key : Nat × Nat × Nat) : State :=
  let ks := (List.range c.bytes).filter (fun k => c.blockOf k == some key)
  let n := ks.length
  let hit := ks.filterMap (fun k => match c.byteAt k with | some (_, .spad a) => some (a / 128) | _ => none)
  let ls := if c.lines.isEmpty then [] else c.lines.map (fun (x : Nat × Nat) => (x.1, x.2 - (hit.filter (· == x.1)).length))
  let freed := (c.lines.zip ls).filter (fun x => decide (0 < x.1.2) && x.2.2 == 0)
  let s := s.updTeam c.team (fun t => match c.bar with | some a => t.barUpdate a (fun b => b.add (-(n : Int))) | none => t)
  let s := freed.foldl (fun (s : State) x => s.updTeam { c.team with cteam := x.1.1 * 128 / 2 ^ 20 } (fun t => t.subPending s.cycle (x.1.1 * 128 % 2 ^ 20 / 128) 1)) s
  s.setCmd { c with next := c.next + 1, subbed := c.subbed + n, lines := ls, asked := none }

/-- A command may work: accepted, not stopped, every command before it complete when it has ACQ (R257), and, when it has REL, the earlier stores and atomics of its
group performed (R309). -/
def State.cmdRuns (s : State) (c : Cmd) : Bool :=
  c.accepted && decide (c.op ≤ 5) && !c.cancel && c.reject.isNone && s.acquired c && decide (c.stores = 0)

/-- An `awrite` that cannot be made (R265): its misaligned address, or the fault of its record. A record of EXTENT 0 and a negative offset are out of bounds before WR is
looked at (R34, R244). -/
def Cmd.writeFault (c : Cmd) : Option Nat :=
  if c.op ≠ 1 then none
  else
    let r := BufRec.of c.brec.bits
    match r.addr 0 c.b.toInt 8 with
    | .error k => some (if r.wr || r.extent == 0 || decide (c.b.toInt < 0) then k.code else PoisonKind.protection.code)
    | .ok (_, a) => if a % 8 ≠ 0 then some 4 else if !r.wr then some PoisonKind.protection.code else none

def execAsyncBlockWrite (cmd : Nat) (s : State) : Host.Outcome State Fault Refusal :=
  module s (fun s =>
    match s.cmds.find? (fun (c : Cmd) => c.id == cmd) with
    | none => s
    | some c =>
      if !s.cmdRuns c then s
      else match c.writeFault with
        | some r => s.setCmd { c with reject := some r }
        | none =>
          match s.readIdxs c with
          | none => s
          | some c =>
            match c.blocks[c.next]? with
            | none => s.setCmd c
            | some key =>
              if c.away then
                (if s.pathUp (c.core / 32) ioPort then (s.flits ioPort (c.core / 32) 1).landBlock { c with away := false } key else s.darkSince c true)
              else match s.cmdBlock c key with
              | (.waits dark, s) => s.darkSince c dark
              | (.fails k, s) => s.setCmd { c with next := c.next + 1, fault := worst c.fault (some k), asked := none, held := [] }
              | (.written held, s) => s.landBlock { c with held := held } key
              | (.sent held, s) => s.setCmd { c with held := held, away := true, asked := none })

/-- A block that has waited 2^21 cycles on a dark direction fails with fault 0x20, and so does the read of a record or command block at acceptance (R401). -/
def execAsyncDarkTimeout (cmd : Nat) (s : State) : Host.Outcome State Fault Refusal :=
  module s (fun s =>
    match s.cmds.find? (fun (c : Cmd) => c.id == cmd) with
    | none => s
    | some c =>
      match c.asked with
      | none => s
      | some since =>
        if !s.overdue since then s
        else if !c.accepted then s.completeCmd c .error 0x20 0 0
        else s.setCmd { c with next := c.next + 1, fault := some .uncorrectable, asked := none, held := [], away := false })

/-- A command whose blocks are all decided, or that was cancelled, completes (R254, R259, R265, R269); near-memory commands complete when
their collectors have finished. -/
def execAsyncComplete (cmd : Nat) (s : State) : Host.Outcome State Fault Refusal :=
  module s (fun s =>
    match s.cmds.find? (fun (c : Cmd) => c.id == cmd) with
    | none => s
    | some c =>
      if c.cancel then s.completeCmd c .cancelled 0 0 0
      else if 6 ≤ c.op then
        match c.result with
        | some (st, reason) => if c.finished then s.completeCmd c st reason c.pmask.toNat c.mmask.toNat else s
        | none => s
      else
        match c.reject with
        | some r => s.completeCmd c .error r 0 0
        | none =>
          if !s.cmdRuns c || ((c.op == 2 || c.op == 3) && c.idxs.isNone) || decide (c.next < c.blocks.length) then s
          else
            match worst c.fault (if c.idxFault then some .bounds else none) with
            | some k => s.completeCmd c .error k.code 0 0
            | none => s.completeCmd c .done 0 0 0)

end Sys2Proof.Machine
end

