-- ==== Sys2Proof/Machine/Atomics.lean ====
section
/-! DEFINITION. Memory-side and scratchpad atomics (R332 to R340). -/
namespace Sys2Proof.Machine

/-- Whether an atomic acquires (R338). -/
def acquiring (f : Fields) : Bool := f.ord == 1 || f.ord == 3

/-- Every register an atomic will write is pending. -/
def atomHolders (w n : Nat) (lanes : List AtomLane) : List PendVal := lanes.flatMap (fun l => atomReturn w n l 0)

/-- The register of a returning atomic. -/
def atomDst (f : Fields) : Option Nat := match f.d with | .v n => some n.toNat | _ => none

/-- An address of an atomic must be a multiple of its width (R334). -/
def alignedTo (w : Nat) : Except PoisonKind Nat → Except PoisonKind Nat
  | .ok x => if x % w = 0 then .ok x else .error .bounds
  | e => e

/-- A checked atomic enters the store queue, with its pending operation when it returns a value or acquires (R338). `sites` pairs each
active lane with its location. -/
def GCtx.sendAtomic (g : GCtx) (s : State) (kind : AtomKind) (w : Nat) (bank : Bool) (val : Thread → Nat) (sites : List (Thread × Nat)) (sp : Space) (home : List Nat) (keep : Nat) (leaves : List Nat)
    (onOp : State → Nat → State) : State :=
  let lanes := sites.map (fun x =>
    ({ addr := x.2, val := BitVec.ofNat 64 (val x.1), cmp := BitVec.ofNat 64 (x.1.vpair (opNum g.f.d)).1, block := x.1.block, lane := x.1.lane } : AtomLane))
  let dst := atomDst g.f
  let s := g.escaping s
  if sites.isEmpty then g.finish s
  else if dst.isNone && !acquiring g.f then g.enqueue s (.atomic kind g.f.m5 w lanes none none) sp home keep leaves
  else
    let (op, s) := s.fresh
    let p : PendOp := { id := op, place := g.grp.key, vals := match dst with | some n => atomHolders w n lanes | none => []
                        entries := [], bank := bank, known := false, acquire := acquiring g.f, late := [] }
    let s := s.updTeam g.ref (fun t => { t with pend := t.pend ++ [p] })
    g.enqueue (if dst.isSome then onOp s op else s) (.atomic kind g.f.m5 w lanes dst (some op)) sp home keep leaves

/-- The value operand of a lane: FP32 for an `addf`, which converts an inline constant, else an integer of the access's width (R114, R333). -/
def GCtx.atomVal (g : GCtx) (kind : AtomKind) (w : Nat) (val : Operand) (t : Thread) : Nat × Option PoisonKind :=
  if kind = .addf then g.typed t 0 val else g.raw t (w == 8) val

/-- Poisoned sources of a lane: index or address, val, and D for a compare (R335). -/
def GCtx.atomPoison (g : GCtx) (kind : AtomKind) (w : Nat) (at_ val : Operand) (t : Thread) : Option PoisonKind :=
  worst (g.raw t false at_).2 (worst (g.atomVal kind w val t).2 (if kind = .cas then (t.data (opNum g.f.d) w).2 else none))

/-- The first check of an atomic: a poisoned record traps whatever lanes are active, then the sources of the active lanes (R335). -/
def GCtx.atomCheck (g : GCtx) (rec' : Option BReg) (srcs : Thread → Option PoisonKind) : Option State :=
  match g.storePoison rec' srcs, rec'.bind (·.poison) with
  | some s, _ => some s
  | none, some k => some (g.consumeTrap k [] (recReason rec' k))
  | none, none => none

/-- A memory-side atomic (R334, R335, R337, R338). -/
def GCtx.memAtomic (g : GCtx) (kind : AtomKind) : State :=
  let w := widthBytes g.f
  let rec' := g.record g.f.a
  let r := BufRec.of rec'.bits
  match g.atomCheck (some rec') (g.atomPoison kind w g.f.b g.f.c) with
  | some s => s
  | none =>
    let accs := g.actives.map (fun t =>
      let (va, out) := recAccess rec' true w (g.raw t false g.f.b) (0, none) g.f.disp
      ({ dst := .lane t.block t.lane 0 w false, virt := g.virt t, va := va, n := w, out := alignedTo w out } : Acc))
    let v := g.ref.vf
    let lines := distinct (accs.flatMap Acc.lines)
    let stuck := (lines.map (· * 128)).filter (fun x => g.s.globalStuck g.team.core v x .store)
    if !stuck.isEmpty then g.s.waitWalks g.team.core v stuck
    else
      let (m, s) := g.s.mapLines g.team.core v .store lines
      let looked := accs.map (fun a => (a, a.look m r.tb))
      let g' : GCtx := { g with s := s }
      match g'.accessTrap (looked.map (fun (x : Acc × Except PoisonKind (List Seg)) => (x.1, errOf x.2))) with
      | some s => s
      | none =>
        let firsts := looked.filterMap (fun x => match x.2 with | .ok (y :: _) => some y | _ => none)
        let need := distinct (firsts.map (·.no))
        if (atomDst g.f).isSome ∧ 64 < need.length + (g.s.quad g.quad).lodge.length then g.park (.lodge need.length)
        else
          let (sp, _, leaves) := routeOf r.cache firsts
          let home := distinct ((firsts.filter (fun x => decide (x.line.space = .phys) && isDevice x.pa)).map (fun x => x.pa / 64))
          let sites := g.actives.zip (firsts.map (·.pa))
          g.sendAtomic s kind w false (fun t => (g.atomVal kind w g.f.c t).1) sites sp home (cacheKeep r.cache) leaves (fun s op =>
            need.foldl (fun (s : State) no =>
              match firsts.find? (fun x => x.no == no) with
              | none => s
              | some y =>
                let (id, s) := s.fresh
                let lanes := (g.actives.zip firsts).filterMap (fun x => if x.2.no = no then some (x.1.block, x.1.lane) else none)
                let e : LodgeEntry := { id := id, team := g.ref, op := op, st := .out, line := no, port := if y.line.space = .phys then s.portOf y.pa else ioPort, home := false
                                        await := [], since := s.cycle, lanes := lanes }
                (s.updQuad g.quad (fun q => { q with lodge := q.lodge ++ [e] })).lodgeHigh g.quad v) s)

/-- A scratchpad atomic (R334, R335, R338, R340). -/
def GCtx.spadAtomic (g : GCtx) (kind : AtomKind) : State :=
  let w := widthBytes g.f
  match g.atomCheck none (g.atomPoison kind w g.f.a g.f.b) with
  | some s => s
  | none =>
    let accs := g.actives.map (fun t =>
      let (va, out) := g.s.spadAccess g.ref (g.f.i 3 3 == 1) w (g.raw t false g.f.a) g.f.disp
      ({ dst := .lane t.block t.lane 0 w false, virt := g.virt t, va := va, n := w, out := alignedTo w out } : Acc))
    match g.accessTrap (accs.map (fun a => (a, errOf a.out))) with
    | some s => s
    | none =>
      match g.s.absentOf g.ref (distinct (accs.flatMap Acc.lines)) with
      | some p => g.park p
      | none =>
        let sites := g.actives.zip (accs.filterMap (fun a => a.out.toOption))
        g.sendAtomic g.s kind w true (fun t => (g.atomVal kind w g.f.b t).1) sites .spad [] 1 [] (fun s _ => s)

/-- The two shapes of an atomic's issue. -/
def issueAtomic (i : Instr) (s : State) (body : GCtx → State) : Host.Outcome State Fault Refusal := issueG i s (fun g => g.loading (g.storing (body g)))

def execGadd (f : Fields) (s : State) : Host.Outcome State Fault Refusal := issueAtomic (.gadd f) s (fun g => g.memAtomic .add)

def execGaddf (f : Fields) (s : State) : Host.Outcome State Fault Refusal := issueAtomic (.gaddf f) s (fun g => g.memAtomic .addf)

def execGmin (f : Fields) (s : State) : Host.Outcome State Fault Refusal := issueAtomic (.gmin f) s (fun g => g.memAtomic .min)

def execGmax (f : Fields) (s : State) : Host.Outcome State Fault Refusal := issueAtomic (.gmax f) s (fun g => g.memAtomic .max)

def execGand (f : Fields) (s : State) : Host.Outcome State Fault Refusal := issueAtomic (.gand f) s (fun g => g.memAtomic .and)

def execGor (f : Fields) (s : State) : Host.Outcome State Fault Refusal := issueAtomic (.gor f) s (fun g => g.memAtomic .or)

def execGxor (f : Fields) (s : State) : Host.Outcome State Fault Refusal := issueAtomic (.gxor f) s (fun g => g.memAtomic .xor)

def execGxchg (f : Fields) (s : State) : Host.Outcome State Fault Refusal := issueAtomic (.gxchg f) s (fun g => g.memAtomic .xchg)

def execGcas (f : Fields) (s : State) : Host.Outcome State Fault Refusal := issueAtomic (.gcas f) s (fun g => g.memAtomic .cas)

def execGinc (f : Fields) (s : State) : Host.Outcome State Fault Refusal := issueAtomic (.ginc f) s (fun g => g.memAtomic .inc)

def execPadd (f : Fields) (s : State) : Host.Outcome State Fault Refusal := issueAtomic (.padd f) s (fun g => g.spadAtomic .add)

def execPaddf (f : Fields) (s : State) : Host.Outcome State Fault Refusal := issueAtomic (.paddf f) s (fun g => g.spadAtomic .addf)

def execPmin (f : Fields) (s : State) : Host.Outcome State Fault Refusal := issueAtomic (.pmin f) s (fun g => g.spadAtomic .min)

def execPmax (f : Fields) (s : State) : Host.Outcome State Fault Refusal := issueAtomic (.pmax f) s (fun g => g.spadAtomic .max)

def execPxchg (f : Fields) (s : State) : Host.Outcome State Fault Refusal := issueAtomic (.pxchg f) s (fun g => g.spadAtomic .xchg)

def execPcas (f : Fields) (s : State) : Host.Outcome State Fault Refusal := issueAtomic (.pcas f) s (fun g => g.spadAtomic .cas)

end Sys2Proof.Machine
end

