-- ==== Sys2Proof/Machine/Crypto.lean ====
section
/-! DEFINITION. The digests and signatures of the loader and of boot (R29, R406): SHA-384, ECDSA P-384 of FIPS 186-5 and LMS of RFC 8554, in the parameter
sets R29 allows. The rule fixes them by name; their text is that of the standards it cites (log 4). -/
namespace Sys2Proof.Machine

/-- A big-endian number of bytes. -/
def natOfBe (bs : List Byte) : Nat := bs.foldl (fun x b => 256 * x + b.toNat) 0

/-- The `n` big-endian bytes of a number. -/
def beBytes (n x : Nat) : List Byte := (bytesOfNat n x).reverse

/-- The greatest r below 2^bits with r^k at most x, found bit by bit from the top. -/
def iroot (k x : Nat) : Nat → Nat → Nat
  | 0, r => r
  | n + 1, r => iroot k x n (if (r + 2 ^ n) ^ k ≤ x then r + 2 ^ n else r)

/-- The first 80 primes. -/
def smallPrimes : List Nat := (List.range 410).filter (fun p => decide (2 ≤ p) && (List.range 21).all (fun d => decide (d < 2) || decide (p ≤ d) || decide (p % d ≠ 0)))

/-- The first 64 bits of the fraction of a square root and of a cube root. -/
def sqrtFrac (p : Nat) : Nat := iroot 2 (p * 2 ^ 128) 70 0 % 2 ^ 64
def cbrtFrac (p : Nat) : Nat := iroot 3 (p * 2 ^ 192) 70 0 % 2 ^ 64

/-! ### SHA-2 -/

/-- One digest of the family: rounds, the shift amounts of its four functions, its round constants and its first value. -/
structure Sha2 (w : Nat) where
  big0 : Nat × Nat × Nat
  big1 : Nat × Nat × Nat
  small0 : Nat × Nat × Nat
  small1 : Nat × Nat × Nat
  k : List (BitVec w)
  iv : List (BitVec w)

def sha384Params : Sha2 64 :=
  { big0 := (28, 34, 39), big1 := (14, 18, 41), small0 := (1, 8, 7), small1 := (19, 61, 6)
    k := smallPrimes.map (fun p => BitVec.ofNat 64 (cbrtFrac p)), iv := ((smallPrimes.drop 8).take 8).map (fun p => BitVec.ofNat 64 (sqrtFrac p)) }

def sha256Params : Sha2 32 :=
  { big0 := (2, 13, 22), big1 := (6, 11, 25), small0 := (7, 18, 3), small1 := (17, 19, 10)
    k := (smallPrimes.take 64).map (fun p => BitVec.ofNat 32 (cbrtFrac p / 2 ^ 32)), iv := (smallPrimes.take 8).map (fun p => BitVec.ofNat 32 (sqrtFrac p / 2 ^ 32)) }

/-- The exclusive or of three rotations, and of two rotations and a shift. -/
def rot3 {w : Nat} (r : Nat × Nat × Nat) (x : BitVec w) : BitVec w := x.rotateRight r.1 ^^^ x.rotateRight r.2.1 ^^^ x.rotateRight r.2.2
def rot2 {w : Nat} (r : Nat × Nat × Nat) (x : BitVec w) : BitVec w := x.rotateRight r.1 ^^^ x.rotateRight r.2.1 ^^^ (x >>> r.2.2)

/-- The message schedule, latest word first. -/
def Sha2.schedule {w : Nat} (h : Sha2 w) : Nat → List (BitVec w) → List (BitVec w)
  | 0, l => l
  | n + 1, l => h.schedule n ((rot2 h.small1 (l.getD 1 0) + l.getD 6 0 + rot2 h.small0 (l.getD 14 0) + l.getD 15 0) :: l)

/-- One round on the eight working words. -/
def Sha2.round {w : Nat} (h : Sha2 w) (v : List (BitVec w)) (x : BitVec w × BitVec w) : List (BitVec w) :=
  match v with
  | [a, b, c, d, e, f, g, y] =>
    let t := y + rot3 h.big1 e + ((e &&& f) ^^^ (~~~e &&& g)) + x.1 + x.2
    [t + rot3 h.big0 a + ((a &&& b) ^^^ (a &&& c) ^^^ (b &&& c)), a, b, c, d + t, e, f, g]
  | _ => v

/-- One block compressed into the chaining value. -/
def Sha2.block {w : Nat} (h : Sha2 w) (v : List (BitVec w)) (words : List (BitVec w)) : List (BitVec w) :=
  let sched := (h.schedule (h.k.length - 16) words.reverse).reverse
  (v.zip ((h.k.zip sched).foldl h.round v)).map (fun x => x.1 + x.2)

/-- Bytes in pieces of n. -/
def piecesOf {α : Type} (n : Nat) : Nat → List α → List (List α)
  | 0, _ => []
  | k + 1, l => l.take n :: piecesOf n k (l.drop n)

/-- The chaining value after a message, padded as the standard says; words have w / 8 bytes, blocks sixteen words. -/
def Sha2.digest {w : Nat} (h : Sha2 w) (msg : List Byte) : List (BitVec w) :=
  let size := 2 * w
  let len := w / 4
  let zeros := (2 * size - 1 - len - msg.length % size) % size
  let m := msg ++ [0x80] ++ List.replicate zeros 0 ++ beBytes len (8 * msg.length)
  (piecesOf size (m.length / size) m).foldl (fun v b => h.block v ((piecesOf (w / 8) 16 b).map (fun x => BitVec.ofNat w (natOfBe x)))) h.iv

/-- SHA-384: the first six words of the digest, big-endian. -/
def sha384Bytes (msg : List Byte) : List Byte := ((sha384Params.digest msg).take 6).flatMap (fun x => beBytes 8 x.toNat)

/-- SHA-256. -/
def sha256Bytes (msg : List Byte) : List Byte := (sha256Params.digest msg).flatMap (fun x => beBytes 4 x.toNat)

/-- The SHA-384 measurement of bytes (R29). -/
def sha384 (msg : List Byte) : BitVec 384 := BitVec.ofNat 384 (natOfBe (sha384Bytes msg))

/-! ### ECDSA P-384 -/

def p384P : Nat := 2 ^ 384 - 2 ^ 128 - 2 ^ 96 + 2 ^ 32 - 1
def p384N : Nat := 0xFFFFFFFFFFFFFFFFFFFFFFFFFFFFFFFFFFFFFFFFFFFFFFFFC7634D81F4372DDF581A0DB248B0A77AECEC196ACCC52973
def p384B : Nat := 0xB3312FA7E23EE7E4988E056BE3F82D19181D9C6EFE8141120314088F5013875AC656398D8A2ED19D2A85C8EDD3EC2AEF
def p384G : Nat × Nat :=
  (0xAA87CA22BE8B05378EB1C71EF320AD746E1D3B628BA79B9859F741E082542A385502F25DBF55296C3A545E3872760AB7,
   0x3617DE4A96262C6F5D9E98BF9292DC29F8F41DBD289A147CE9DA3113B5F0B8C00A60B1CE1D7E819D7A431D7C90EA0E5F)

/-- x^e mod m, for e below 2^bits. -/
def powMod (m x e : Nat) : Nat → Nat
  | 0 => 1 % m
  | n + 1 =>
    let h := powMod m x (e / 2) n
    if e % 2 = 1 then h * h % m * (x % m) % m else h * h % m

/-- The inverse modulo a prime of at most 384 bits. -/
def invMod (m x : Nat) : Nat := powMod m x (m - 2) 384

/-- Two points of the curve added; none is the point at infinity. -/
def pointAdd (a b : Option (Nat × Nat)) : Option (Nat × Nat) :=
  match a, b with
  | none, y => y
  | x, none => x
  | some (x1, y1), some (x2, y2) =>
    if x1 = x2 ∧ (y1 + y2) % p384P = 0 then none
    else
      let slope := if x1 = x2 then (3 * x1 * x1 + p384P - 3) * invMod p384P (2 * y1) % p384P
        else (y2 + p384P - y1) * invMod p384P (x2 + p384P - x1) % p384P
      let x3 := (slope * slope + 2 * p384P - x1 - x2) % p384P
      some (x3, (slope * (x1 + p384P - x3) + p384P - y1) % p384P)

/-- A point multiplied by a number below 2^bits. -/
def pointMul (k : Nat) (pt : Option (Nat × Nat)) : Nat → Option (Nat × Nat)
  | 0 => none
  | n + 1 =>
    let h := pointMul (k / 2) pt n
    let d := pointAdd h h
    if k % 2 = 1 then pointAdd d pt else d

/-- The signature (r, s) of a digest verifies under a public key on the curve (FIPS 186-5). -/
def p384Verifies (key : Nat × Nat) (digest r s : Nat) : Bool :=
  let w := invMod p384N s
  decide (key.1 < p384P) && decide (key.2 < p384P) && decide (key.2 * key.2 % p384P = (key.1 * key.1 * key.1 + (p384P - 3) * key.1 + p384B) % p384P) &&
    decide (1 ≤ r) && decide (r < p384N) && decide (1 ≤ s) && decide (s < p384N) &&
    (match pointAdd (pointMul (digest * w % p384N) (some p384G) 384) (pointMul (r * w % p384N) (some key) 384) with
     | none => false
     | some x => decide (x.1 % p384N = r))

/-- A 96-byte signature of a message: r and s, each 48 bytes, big-endian (R29). -/
def ecdsaOk (msg sig : List Byte) : Bool :=
  decide (sig.length = 96) && p384Verifies Config.ecdsaKey (natOfBe (sha384Bytes msg)) (natOfBe (sig.take 48)) (natOfBe (sig.drop 48))

/-! ### LMS -/

/-- The height of an allowed LMS parameter set: SHA256_M32_H10, H15, H20 (R29). -/
def lmsHeight (type : Nat) : Option Nat := match type with | 6 => some 10 | 7 => some 15 | 8 => some 20 | _ => none

/-- The width, chains and checksum shift of an allowed LM-OTS parameter set: SHA256_N32_W4, W8 (R29). -/
def otsParams (type : Nat) : Option (Nat × Nat × Nat) := match type with | 3 => some (4, 67, 4) | 4 => some (8, 34, 0) | _ => none

/-- Digit i of w bits of a byte string. -/
def otsDigit (s : List Byte) (i w : Nat) : Nat := (s.getD (i * w / 8) 0).toNat / 2 ^ (8 - (w * (i % (8 / w)) + w)) % 2 ^ w

/-- A chain of a one-time signature continued for n hashes from step j. -/
def otsChain (pre : List Byte) : Nat → Nat → List Byte → List Byte
  | 0, _, t => t
  | n + 1, j, t => otsChain pre n (j + 1) (sha256Bytes (pre ++ beBytes 1 j ++ t))

/-- The one-time public key that a signature of a message leads to (RFC 8554). -/
def otsCandidate (ident : List Byte) (q : Nat) (params : Nat × Nat × Nat) (c : List Byte) (y : List (List Byte)) (msg : List Byte) : List Byte :=
  let (w, p, ls) := params
  let head := ident ++ beBytes 4 q
  let d := sha256Bytes (head ++ [0x81, 0x81] ++ c ++ msg)
  let sum := ((List.range (256 / w)).map (fun i => 2 ^ w - 1 - otsDigit d i w)).foldl (· + ·) 0
  let digits := d ++ beBytes 2 (sum * 2 ^ ls)
  sha256Bytes (head ++ [0x80, 0x80] ++
    (List.range p).flatMap (fun i => let a := otsDigit digits i w; otsChain (head ++ beBytes 2 i) (2 ^ w - 1 - a) a (y.getD i [])))

/-- The root that a leaf and its path lead to. -/
def lmsRoot (ident : List Byte) : List (List Byte) → Nat → List Byte → List Byte
  | [], _, t => t
  | x :: rest, node, t =>
    lmsRoot ident rest (node / 2) (sha256Bytes (ident ++ beBytes 4 (node / 2) ++ [0x83, 0x83] ++ (if node % 2 = 1 then x ++ t else t ++ x)))

/-- An LMS signature of a message verifies under a 56-byte public key, in an allowed parameter set (R29). -/
def lmsVerifies (key msg sig : List Byte) : Bool :=
  let be (off n : Nat) (l : List Byte) : Nat := natOfBe ((l.drop off).take n)
  match lmsHeight (be 0 4 key), otsParams (be 4 4 key) with
  | some h, some (w, p, ls) =>
    let ident := (key.drop 8).take 16
    let q := be 0 4 sig
    let path := sig.drop (12 + 32 + 32 * p)
    decide (key.length = 56) && decide (sig.length = 12 + 32 + 32 * p + 32 * h) && decide (be 4 4 sig = be 4 4 key) &&
      decide (be (8 + 32 + 32 * p) 4 sig = be 0 4 key) && decide (q < 2 ^ h) &&
      (lmsRoot ident (piecesOf 32 h path) (2 ^ h + q)
        (sha256Bytes (ident ++ beBytes 4 (2 ^ h + q) ++ [0x82, 0x82] ++
          otsCandidate ident q (w, p, ls) ((sig.drop 8).take 32) (piecesOf 32 p (sig.drop 40)) msg)) == key.drop 24)
  | _, _ => false

/-- An LMS signature of a message under the provisioned key (R29). -/
def lmsOk (msg sig : List Byte) : Bool := lmsVerifies Config.lmsKey msg sig

/-- An ECDSA and an LMS signature over a 48-byte measurement, both verified (R29). The measurement is the message that each standard signs, so ECDSA takes its
SHA-384 digest (DESIGN CHOICE, log 4). -/
def bothSigned (measure : BitVec 384) (ecdsa lms : List Byte) : Bool := ecdsaOk (beBytes 48 measure.toNat) ecdsa && lmsOk (beBytes 48 measure.toNat) lms

end Sys2Proof.Machine
end

