-- ==== Sys2Proof/Machine/Vector.lean ====
section
/-! DEFINITION. The vector instructions that act lane by lane: arithmetic, comparison, selection, bit operations and
elementary functions (R156 to R171), with the drain port (R161, R162). -/
namespace Sys2Proof.Machine

/-! ### The shape of a vector instruction (R157, R158, R161, R162) -/

/-- A drain port of a slot. -/
def portKey (slot acc : Nat) : Nat := 4 * slot + acc

/-- The port a team holds. -/
def Team.port (t : Team) (key : Nat) : DrainPort := t.ports.get key { entries := [], readers := [] }

/-- The drain port that an instruction names, if any. -/
def dpOf (f : Fields) : Option Nat :=
  match f.a, f.b, f.c with
  | .dp n, _, _ => some n.toNat
  | _, .dp n, _ => some n.toNat
  | _, _, .dp n => some n.toNat
  | _, _, _ => none

/-- The entry an instruction reads: the one bound to its group at this instruction, or the oldest unbound one; none where there is neither (R162).
It leaves the port only with the instruction's effect. -/
def GCtx.takeEntry (g : GCtx) : Option GCtx :=
  match dpOf g.f with
  | none => some g
  | some n =>
    if g.grp.bound.any (fun e => e.port == n && e.pc == g.pc) then some g else
    let key := portKey g.grp.slot n
    match (g.team.port key).entries with
    | [] => none
    | e :: rest => some { g with grp := { g.grp with bound := some { port := n, pc := g.pc, entry := e } }
                                 team := { g.team with ports := g.team.ports.set key { g.team.port key with entries := rest } } }

/-- The group is queued at its port and parks (R162). -/
def GCtx.parkPort (g : GCtx) : State :=
  let key := portKey g.grp.slot ((dpOf g.f).getD 0)
  let p := g.team.port key
  { g with s := g.s.setTeam { g.team with ports := g.team.ports.set key { p with readers := p.readers ++ [g.grp.key] } } }.park
    (.drainPort ((dpOf g.f).getD 0))

/-- A vector instruction: what `check` finds is a consumption trap; otherwise `h` acts in each active lane. -/
def vecStep (g : GCtx) (check : GCtx → Option (PoisonKind × List Thread)) (h : GCtx → Thread → Thread) : State :=
  match g.takeEntry with
  | none => g.parkPort
  | some g' =>
    match check g' with
    | some (k, lanes) => g'.consumeTrap k lanes
    | none => g'.done (fun t => if guardOn g'.f.pg t then h g' t else t)

/-- A vector instruction that consumes nothing. -/
def issueV (i : Instr) (s : State) (h : GCtx → Thread → Thread) : Host.Outcome State Fault Refusal :=
  issueG i s (fun g => vecStep g (fun _ => none) h)

/-- A lane's result in D, with its poison, or with its float conditions (R157, R158, R160). -/
def GCtx.put (g : GCtx) (wide : Bool) (t : Thread) (r : Nat × FFlags) (p : Option PoisonKind) : Thread :=
  let t := t.writeV wide (opNum g.f.d) r.1 p
  if p.isSome then t else t.raise r.2

/-! ### Element types (R116) -/

def isFloat (ty : Nat) : Bool := ty ≤ 2
def isPacked (ty : Nat) : Bool := ty == 1 || ty == 2 || ty == 7
def fmtOf (ty : Nat) : Fmt := if ty = 0 then fp32 else if ty = 1 then fp16 else bf16
def isSigned (ty : Nat) : Bool := ty == 3 || ty == 5 || ty == 7
def widthOf (ty : Nat) : Nat := if ty = 5 ∨ ty = 6 then 64 else if isPacked ty then 16 else 32

/-- An operation of elements applied to a register value: both halves of a packed type. -/
def perElem (ty : Nat) (h : Nat → Nat → Nat → Nat × FFlags) (a b c : Nat) : Nat × FFlags :=
  if isPacked ty then
    let lo := h (a % 65536) (b % 65536) (c % 65536)
    let hi := h (a / 65536 % 65536) (b / 65536 % 65536) (c / 65536 % 65536)
    (lo.1 + 65536 * hi.1, lo.2 ||| hi.2)
  else h a b c

/-- Element operations in one active lane; the mode is that of the rounding code, DYN read in the lane (R160). -/
def elemOp (h : Nat → RMode → Bool → Nat → Nat → Nat → Nat × FFlags) (g : GCtx) (t : Thread) : Thread :=
  let ty := g.f.type
  let a := g.typed t ty g.f.a
  let b := g.typed t ty g.f.b
  let c := g.typed t ty g.f.c
  g.put g.f.wide t (perElem ty (h ty (t.mode g.f.rnd) (g.f.m 0)) a.1 b.1 c.1) (worst a.2 (worst b.2 c.2))

/-- The integer an element holds. -/
def ival (ty x : Nat) : Int := if isSigned ty then sextNat (widthOf ty) x else (x : Int)

/-- An exact integer at the element width: wrapped, or saturated with SAT (R163). -/
def iput (ty : Nat) (sat : Bool) (x : Int) : Nat :=
  let w := widthOf ty
  if sat then wrapNat w (if isSigned ty then satS x w else satU x w) else wrapNat w x

/-- An operation on integers alone. -/
def intElem (h : Nat → Bool → Nat → Nat → Nat → Nat) : GCtx → Thread → Thread := elemOp (fun ty _ sat a b c => (h ty sat a b c, 0))

/-! ### Arithmetic (R163, R164) -/

/-- Float or integer form of an operation of two elements. -/
def arith (fl : Fmt → RMode → FVal → FVal → Nat × FFlags) (it : Int → Int → Int) : GCtx → Thread → Thread :=
  elemOp (fun ty mode sat a b _ =>
    if isFloat ty then fl (fmtOf ty) mode ((fmtOf ty).unpack a) ((fmtOf ty).unpack b) else (iput ty sat (it (ival ty a) (ival ty b)), 0))

/-- Fused multiply-add with the signs of its terms. -/
def fused (na nc : Bool) : GCtx → Thread → Thread :=
  elemOp (fun ty mode _ a b c =>
    let F := fmtOf ty
    let sg (n : Bool) (x : FVal) : FVal := if n then x.negate else x
    F.fma mode (sg na (F.unpack a)) (F.unpack b) (sg nc (F.unpack c)))

/-- Lesser or greater of two elements (R163, R164). -/
def pick (wantMax : Bool) (ty a b : Nat) : Nat × FFlags :=
  if isFloat ty then (fmtOf ty).minmax wantMax a b
  else
    let less := decide (ival ty a < ival ty b)
    (if wantMax then (if less then b else a) else (if less then a else b), 0)

def execVadd (f : Fields) (s : State) : Host.Outcome State Fault Refusal :=
  issueV (.vadd f) s (arith Fmt.add (· + ·))

def execVsub (f : Fields) (s : State) : Host.Outcome State Fault Refusal :=
  issueV (.vsub f) s (arith (fun F m a b => F.add m a b.negate) (· - ·))

def execVmul (f : Fields) (s : State) : Host.Outcome State Fault Refusal :=
  issueV (.vmul f) s (arith Fmt.mul (· * ·))

def execVmulhi (f : Fields) (s : State) : Host.Outcome State Fault Refusal :=
  issueV (.vmulhi f) s (intElem (fun ty _ a b _ => wrapNat (widthOf ty) (ival ty a * ival ty b / ((2 ^ widthOf ty : Nat) : Int))))

def execVmad (f : Fields) (s : State) : Host.Outcome State Fault Refusal :=
  issueV (.vmad f) s (intElem (fun ty sat a b c => iput ty sat (ival ty a * ival ty b + ival ty c)))

def execVfma (f : Fields) (s : State) : Host.Outcome State Fault Refusal :=
  issueV (.vfma f) s (fused false false)

def execVfms (f : Fields) (s : State) : Host.Outcome State Fault Refusal :=
  issueV (.vfms f) s (fused false true)

def execVfnma (f : Fields) (s : State) : Host.Outcome State Fault Refusal :=
  issueV (.vfnma f) s (fused true false)

/-- A correctly rounded quotient, or the quotient of R140 at the element width. -/
def execVdiv (f : Fields) (s : State) : Host.Outcome State Fault Refusal :=
  issueV (.vdiv f) s (elemOp (fun ty mode _ a b _ =>
    if isFloat ty then (fmtOf ty).div mode ((fmtOf ty).unpack a) ((fmtOf ty).unpack b) else (divN (widthOf ty) (!isSigned ty) a b, 0)))

def execVrem (f : Fields) (s : State) : Host.Outcome State Fault Refusal :=
  issueV (.vrem f) s (intElem (fun ty _ a b _ => remN (widthOf ty) (!isSigned ty) a b))

def execVmin (f : Fields) (s : State) : Host.Outcome State Fault Refusal :=
  issueV (.vmin f) s (elemOp (fun ty _ _ a b _ => pick false ty a b))

def execVmax (f : Fields) (s : State) : Host.Outcome State Fault Refusal :=
  issueV (.vmax f) s (elemOp (fun ty _ _ a b _ => pick true ty a b))

/-- The sign bit cleared, or the magnitude. -/
def execVabs (f : Fields) (s : State) : Host.Outcome State Fault Refusal :=
  issueV (.vabs f) s (elemOp (fun ty _ sat a _ _ =>
    (if isFloat ty then a % (fmtOf ty).signBit else iput ty sat ((ival ty a).natAbs : Int), 0)))

/-- The sign bit inverted, or 0 − a. -/
def execVneg (f : Fields) (s : State) : Host.Outcome State Fault Refusal :=
  issueV (.vneg f) s (elemOp (fun ty _ sat a _ _ => (if isFloat ty then a ^^^ (fmtOf ty).signBit else iput ty sat (-ival ty a), 0)))

/-- `vmin` of `vmax` of a and b, and c. -/
def execVclamp (f : Fields) (s : State) : Host.Outcome State Fault Refusal :=
  issueV (.vclamp f) s (elemOp (fun ty _ _ a b c => let x := pick true ty a b; let y := pick false ty x.1 c; (y.1, x.2 ||| y.2)))

def execVavg (f : Fields) (s : State) : Host.Outcome State Fault Refusal :=
  issueV (.vavg f) s (intElem (fun ty _ a b _ => iput ty false ((ival ty a + ival ty b + 1) / 2)))

/-! ### Compare, select and bit operations (R165 to R167) -/

/-- |a − b| + U(c): wrapped, or saturated as unsigned. -/
def execVsad (f : Fields) (s : State) : Host.Outcome State Fault Refusal :=
  issueV (.vsad f) s (intElem (fun ty sat a b c =>
    let x : Int := ((ival ty a - ival ty b).natAbs : Int) + (c : Int)
    wrapNat 32 (if sat then satU x 32 else x)))

/-- Byte `i` of a word, signed or not. -/
def byteVal (signed : Bool) (x i : Nat) : Int := let y := x / 2 ^ (8 * i) % 256; if signed then sextNat 8 y else (y : Int)

/-- c plus the four products of bytes. -/
def execVdot4 (f : Fields) (s : State) : Host.Outcome State Fault Refusal :=
  issueV (.vdot4 f) s (intElem (fun ty sat a b c =>
    iput ty sat ((List.range 4).foldl (fun acc i => acc + byteVal (isSigned ty) a i * byteVal (isSigned ty) b i) (ival ty c))))

/-- c plus the two products of halves: INT32, or one rounded float sum with c and d as FP32 (R165, R166). -/
def execVdot2 (f : Fields) (s : State) : Host.Outcome State Fault Refusal :=
  issueV (.vdot2 f) s (fun g t =>
    let ty := g.f.type
    let a := g.typed t ty g.f.a
    let b := g.typed t ty g.f.b
    let c := g.typed t (if ty = 7 then 3 else 0) g.f.c
    let al := a.1 % 65536
    let ah := a.1 / 65536
    let bl := b.1 % 65536
    let bh := b.1 / 65536
    let r : Nat × FFlags :=
      if ty = 7 then (iput 3 (g.f.m 0) (sextNat 32 c.1 + sextNat 16 al * sextNat 16 bl + sextNat 16 ah * sextNat 16 bh), 0)
      else
        let F := fmtOf ty
        let (p, pf) := mulVal (F.unpack al) (F.unpack bl)
        let (q, qf) := mulVal (F.unpack ah) (F.unpack bh)
        let (x, xf) := fp32.fsum (t.mode g.f.rnd) [p, q, fp32.unpack c.1]
        (x, pf ||| qf ||| xf)
    g.put false t r (worst a.2 (worst b.2 c.2)))

/-- The relation of `vsetp` (R167), with its conditions. -/
def setpRel (ty cc a b : Nat) : Bool × FFlags :=
  if isFloat ty then
    let x := fp32.unpack a
    let y := fp32.unpack b
    let un := x.unordered y
    let r := match cc with
      | 0 => x.eqv y
      | 1 => !x.eqv y
      | 2 => !un && x.lt y
      | 3 => !un && !y.lt x
      | 4 => !un && y.lt x
      | 5 => !un && !x.lt y
      | 6 => un
      | _ => !un
    (r, flagIf (x.isSnan || y.isSnan) flagNv)
  else (relOf cc (fun a b => decide (ival ty a < ival ty b)) a b, 0)

/-- A comparison into p(D), combined with p(C); its sources are consumed (R158, R167). -/
def execVsetp (f : Fields) (s : State) : Host.Outcome State Fault Refusal :=
  issueG (.vsetp f) s (fun g => vecStep g
    (fun g => worstLanes (g.actives.map (fun t => (t, worst (g.typed t g.f.type g.f.a).2 (g.typed t g.f.type g.f.b).2))))
    (fun g t =>
      let ty := g.f.type
      let r := setpRel ty (g.f.i 3 0) (g.typed t ty g.f.a).1 (g.typed t ty g.f.b).1
      let c := t.pred (opPreg g.f.c)
      let x := match g.f.i 5 4 with
        | 0 => r.1
        | 1 => r.1 && c
        | 2 => r.1 || c
        | _ => r.1 != c
      (t.setPred (opPreg g.f.d) x).raise r.2))

/-- a or b by p(C); poison only from the one selected. -/
def execVsel (f : Fields) (s : State) : Host.Outcome State Fault Refusal :=
  issueV (.vsel f) s (fun g t =>
    let x := g.typed t g.f.type (if t.pred (opPreg g.f.c) then g.f.a else g.f.b)
    g.put g.f.wide t (x.1, 0) x.2)

def execVmov (f : Fields) (s : State) : Host.Outcome State Fault Refusal :=
  issueV (.vmov f) s (fun g t => let x := g.typed t g.f.type g.f.a; g.put g.f.wide t (x.1, 0) x.2)

def execVand (f : Fields) (s : State) : Host.Outcome State Fault Refusal :=
  issueV (.vand f) s (intElem (fun _ _ a b _ => a &&& b))

def execVor (f : Fields) (s : State) : Host.Outcome State Fault Refusal :=
  issueV (.vor f) s (intElem (fun _ _ a b _ => a ||| b))

def execVxor (f : Fields) (s : State) : Host.Outcome State Fault Refusal :=
  issueV (.vxor f) s (intElem (fun _ _ a b _ => a ^^^ b))

def execVnot (f : Fields) (s : State) : Host.Outcome State Fault Refusal :=
  issueV (.vnot f) s (intElem (fun ty _ a _ _ => 2 ^ widthOf ty - 1 - a))

/-- A number from its bits. -/
def ofBits (n : Nat) (h : Nat → Bool) : Nat := (List.range n).foldl (fun x i => if h i then x + 2 ^ i else x) 0

/-- Bit by bit from the table in IMM[7:0]. -/
def execVlut3 (f : Fields) (s : State) : Host.Outcome State Fault Refusal :=
  issueV (.vlut3 f) s (fun g => intElem (fun ty _ a b c =>
    ofBits (widthOf ty) (fun j => g.f.imm.toNat.testBit ((a.testBit j).toNat + 2 * (b.testBit j).toNat + 4 * (c.testBit j).toNat))) g)

/-- The amount of a shift (R166). -/
def shiftOf (ty b : Nat) : Nat := b % widthOf ty

def execVshl (f : Fields) (s : State) : Host.Outcome State Fault Refusal :=
  issueV (.vshl f) s (intElem (fun ty _ a b _ => a * 2 ^ shiftOf ty b % 2 ^ widthOf ty))

def execVshr (f : Fields) (s : State) : Host.Outcome State Fault Refusal :=
  issueV (.vshr f) s (intElem (fun ty _ a b _ => a / 2 ^ shiftOf ty b))

def execVsra (f : Fields) (s : State) : Host.Outcome State Fault Refusal :=
  issueV (.vsra f) s (intElem (fun ty _ a b _ => sraN (widthOf ty) a (shiftOf ty b)))

def execVrotl (f : Fields) (s : State) : Host.Outcome State Fault Refusal :=
  issueV (.vrotl f) s (intElem (fun ty _ a b _ => rotlN (widthOf ty) a (shiftOf ty b)))

/-- Bits n + 31 down to n of cat(a, b). -/
def execVfsh (f : Fields) (s : State) : Host.Outcome State Fault Refusal :=
  issueV (.vfsh f) s (intElem (fun _ _ a b c => (a * 2 ^ 32 + b) / 2 ^ (c % 32) % 2 ^ 32))

def execVpopc (f : Fields) (s : State) : Host.Outcome State Fault Refusal :=
  issueV (.vpopc f) s (intElem (fun ty _ a _ _ => popN (widthOf ty) a))

def execVclz (f : Fields) (s : State) : Host.Outcome State Fault Refusal :=
  issueV (.vclz f) s (intElem (fun ty _ a _ _ => clzN (widthOf ty) a))

def execVbrev (f : Fields) (s : State) : Host.Outcome State Fault Refusal :=
  issueV (.vbrev f) s (intElem (fun ty _ a _ _ => ofBits (widthOf ty) (fun j => a.testBit (widthOf ty - 1 - j))))

def execVbfe (f : Fields) (s : State) : Host.Outcome State Fault Refusal :=
  issueV (.vbfe f) s (intElem (fun ty _ a b c => bfeN (widthOf ty) (isSigned ty) a b c))

/-- The old value of D is a source too. -/
def execVbfi (f : Fields) (s : State) : Host.Outcome State Fault Refusal :=
  issueV (.vbfi f) s (fun g t =>
    let ty := g.f.type
    let a := g.typed t ty g.f.a
    let b := g.typed t ty g.f.b
    let c := g.typed t ty g.f.c
    let d := g.typed t ty g.f.d
    g.put g.f.wide t (bfiN (widthOf ty) d.1 a.1 b.1 c.1, 0) (worst (worst a.2 d.2) (worst b.2 c.2)))

/-- One byte of `vbytesel`: its selector names a byte of cat(b, a) and a mode. -/
def byteSel (a b sel : Nat) : Nat :=
  let x := (a + 2 ^ 32 * b) / 2 ^ (8 * (sel % 8)) % 256
  match sel / 8 % 4 with
  | 0 => x
  | 1 => 0
  | 2 => if 128 ≤ x then 255 else 0
  | _ => 255

def execVbytesel (f : Fields) (s : State) : Host.Outcome State Fault Refusal :=
  issueV (.vbytesel f) s (intElem (fun _ _ a b c =>
    (List.range 4).foldl (fun acc i => acc + byteSel a b (c / 2 ^ (8 * i) % 256) * 2 ^ (8 * i)) 0))

/-! ### Elementary functions (R168, R169) -/

/-- An encoding widened exactly to FP32, a NaN staying signalling or quiet. -/
def widen (ty x : Nat) : Nat :=
  if ty = 0 then x
  else match (fmtOf ty).unpack x with
    | .nan sg => if sg then 0x7F800001 else 0x7FC00000
    | v => (fp32.round .rne v).1

/-- Computed as FP32 and, for the narrow formats, rounded under RNE. -/
def elementary (e : Elem) : GCtx → Thread → Thread :=
  elemOp (fun ty _ _ a _ _ =>
    let r := e.eval (widen ty a)
    if ty = 0 then r else let y := (fmtOf ty).round .rne (fp32.unpack r.1); (y.1, r.2 ||| y.2))

def execVrcp (f : Fields) (s : State) : Host.Outcome State Fault Refusal :=
  issueV (.vrcp f) s (elementary .rcp)

def execVrsqrt (f : Fields) (s : State) : Host.Outcome State Fault Refusal :=
  issueV (.vrsqrt f) s (elementary .rsqrt)

/-- Correctly rounded in every format. -/
def execVsqrt (f : Fields) (s : State) : Host.Outcome State Fault Refusal :=
  issueV (.vsqrt f) s (elemOp (fun ty mode _ a _ _ => (fmtOf ty).sqrt mode ((fmtOf ty).unpack a)))

def execVexp2 (f : Fields) (s : State) : Host.Outcome State Fault Refusal :=
  issueV (.vexp2 f) s (elementary .exp2)

def execVlog2 (f : Fields) (s : State) : Host.Outcome State Fault Refusal :=
  issueV (.vlog2 f) s (elementary .log2)

def execVsin (f : Fields) (s : State) : Host.Outcome State Fault Refusal :=
  issueV (.vsin f) s (elementary .sin)

def execVcos (f : Fields) (s : State) : Host.Outcome State Fault Refusal :=
  issueV (.vcos f) s (elementary .cos)

def execVtanh (f : Fields) (s : State) : Host.Outcome State Fault Refusal :=
  issueV (.vtanh f) s (elementary .tanh)

/-! ### Parts of a float (R170, R171) -/

def execVrint (f : Fields) (s : State) : Host.Outcome State Fault Refusal :=
  issueV (.vrint f) s (elemOp (fun ty mode _ a _ _ => (fmtOf ty).rint mode a))

def execVfrac (f : Fields) (s : State) : Host.Outcome State Fault Refusal :=
  issueV (.vfrac f) s (elemOp (fun ty mode _ a _ _ => (fmtOf ty).frac mode ((fmtOf ty).unpack a)))

/-- A value scaled by a power of two. -/
def FVal.scale (x : FVal) (k : Int) : FVal := match x with | .fin n m e => .fin n m (e + k) | _ => x

/-- round(a × 2^b), b a signed integer of the element's width. -/
def execVldexp (f : Fields) (s : State) : Host.Outcome State Fault Refusal :=
  issueV (.vldexp f) s (fun g t =>
    let ty := g.f.type
    let a := g.typed t ty g.f.a
    let b := g.typed t (if ty = 0 then 3 else 7) g.f.b
    let F := fmtOf ty
    let h (a b _ : Nat) := F.round (t.mode g.f.rnd) ((F.unpack a).scale (sextNat (if ty = 0 then 32 else 16) b))
    g.put false t (perElem ty h a.1 b.1 0) (worst a.2 b.2))

/-- floor(log2 |a|), with the ends of the integer range for ±0, NaN and ±∞. -/
def execVgetexp (f : Fields) (s : State) : Host.Outcome State Fault Refusal :=
  issueV (.vgetexp f) s (elemOp (fun ty _ _ a _ _ =>
    let w := widthOf ty
    let x := (fmtOf ty).unpack a
    (match x.exponent with
     | some e => wrapNat w e
     | none => if x.isInf then 2 ^ (w - 1) - 1 else 2 ^ (w - 1), flagIf x.isSnan flagNv)))

def execVclass (f : Fields) (s : State) : Host.Outcome State Fault Refusal :=
  issueV (.vclass f) s (elemOp (fun ty _ _ a _ _ => (2 ^ (fmtOf ty).classBit a, 0)))

/-- Magnitude of a, sign of b. -/
def execVcpsgn (f : Fields) (s : State) : Host.Outcome State Fault Refusal :=
  issueV (.vcpsgn f) s (elemOp (fun ty _ _ a b _ => let k := (fmtOf ty).signBit; (a % k + b / k % 2 * k, 0)))

end Sys2Proof.Machine
end

