-- ==== Sys2Proof/Machine/Convert.lean ====
section
/-! DEFINITION. Conversions, quantisation and tensor-block words (R54 to R58, R172 to R179). -/
namespace Sys2Proof.Machine

/-! ### Conversions (R172 to R174) -/

/-- Width and signedness of an integer destination code (R172). -/
def dstInt (d : Nat) : Nat × Bool :=
  match d with
  | 3 => (32, true) | 4 => (32, false) | 5 => (64, true) | 6 => (64, false) | 7 => (16, true) | 8 => (16, false) | 9 => (8, true) | _ => (8, false)

/-- Ends of an integer range. -/
def rangeOf (w : Nat) (signed : Bool) : Int × Int :=
  if signed then (-((2 ^ (w - 1) : Nat) : Int), ((2 ^ (w - 1) : Nat) : Int) - 1) else (0, ((2 ^ w : Nat) : Int) - 1)

/-- One element converted (R54, R172). -/
def convert (src dst : Nat) (mode : RMode) (sat : Bool) (x : Nat) : Nat × FFlags :=
  if dst ≤ 2 then
    (fmtOf dst).round mode (if isFloat src then (fmtOf src).unpack x else ofInt (ival src x))
  else
    let (w, sg) := dstInt dst
    if isFloat src then
      let (lo, hi) := rangeOf w sg
      let (k, fl) := toIntSat mode lo hi ((fmtOf src).unpack x)
      (wrapNat w k, fl)
    else
      let k := ival src x
      (wrapNat w (if sat then (if sg then satS k w else satU k w) else k), 0)

/-- The element `vcvt` reads: bits [15:0] of a packed source (R172). -/
def cvtSource (ty x : Nat) : Nat := if isPacked ty then x % 65536 else x

/-- One element converted, or rounded stochastically under the team's key (R67, R172). -/
def execVcvt (f : Fields) (s : State) : Host.Outcome State Fault Refusal :=
  issueV (.vcvt f) s (fun g t =>
    let ty := g.f.type
    let a := g.typed t ty g.f.a
    if cvtSr g.f then
      let b := g.typed t 4 g.f.b
      let c := g.typed t 4 g.f.c
      g.put false t (srBf16 a.1 g.cairnkey (g.f.i 31 16) b.1 c.1) (worst a.2 (worst b.2 c.2))
    else
      let dst := g.f.i 3 0
      g.put (dst == 5 || dst == 6) t (convert ty dst (t.mode g.f.rnd) (g.f.m 0) (cvtSource ty a.1)) a.2)

/-- Two sources packed into the halves of one word (R174). -/
def execVcvtp (f : Fields) (s : State) : Host.Outcome State Fault Refusal :=
  issueV (.vcvtp f) s (fun g t =>
    let ty := g.f.type
    let src := if ty = 7 then 3 else 0
    let a := g.typed t src g.f.a
    let b := g.typed t src g.f.b
    let one (x : Nat) : Nat × FFlags :=
      if ty = 7 then (iput 7 (g.f.m 0) (sextNat 32 x), 0) else (fmtOf ty).round (t.mode g.f.rnd) (fp32.unpack x)
    let lo := one a.1
    let hi := one b.1
    g.put false t (lo.1 + 65536 * hi.1, lo.2 ||| hi.2) (worst a.2 b.2))

/-! ### Quantisation (R56, R175) -/

/-- The code of a value under scale byte `sb`, within ±`lim` in `w` bits, with its conditions. -/
def quantise (lim w : Nat) (v : FVal) (sb : Nat) : Nat × FFlags :=
  let nae := 2 ^ (w - 1)
  if sb = 255 then (nae, flagNv)
  else match v with
    | .nan _ => (nae, flagNv)
    | .inf n => (wrapNat w (if n then -(lim : Int) else lim), flagOf ||| flagNx)
    | .fin n m e =>
      let (k, inexact) := roundAt .rne n m (e + 127 - (sb : Int)) 0 false
      let past := decide (lim < k)
      let q : Int := ((min k lim : Nat) : Int)
      (wrapNat w (if n then -q else q), flagIf (inexact || past) flagNx ||| flagIf past flagOf)

/-- `vqn8` and `vqn4`. The scale byte is an integer: an inline constant in its place is not converted to FP32 (R114, R175; DEDUCED, log 71). -/
def quantLane (lim w : Nat) (g : GCtx) (t : Thread) : Thread :=
  let a := g.typed t 0 g.f.a
  let b := g.typed t 4 g.f.b
  g.put false t (quantise lim w (fp32.unpack a.1) (b.1 % 256)) (worst a.2 b.2)

def execVqn8 (f : Fields) (s : State) : Host.Outcome State Fault Refusal :=
  issueV (.vqn8 f) s (quantLane 127 8)

def execVqn4 (f : Fields) (s : State) : Host.Outcome State Fault Refusal :=
  issueV (.vqn4 f) s (quantLane 7 4)

/-! ### Tensor-block words (R57, R58, R176 to R179) -/

/-- Where the payload of a byte comes from: the register beyond A that is read, and the byte it gives with its conditions. -/
def packByte (fmt sb : Nat) (mode : RMode) (k i : Nat) (reg : Nat → VReg) : List VReg × Nat × FFlags :=
  if fmt = 0x10 then
    let x := reg i
    let q := quantise 127 8 (fp32.unpack x.val.toNat) sb
    ([x], q.1, q.2)
  else if fmt = 0x11 then
    let x := reg (2 * i)
    let y := reg (2 * i + 1)
    let q := quantise 7 4 (fp32.unpack x.val.toNat) sb
    let r := quantise 7 4 (fp32.unpack y.val.toNat) sb
    ([x, y], q.1 + 16 * r.1, q.2 ||| r.2)
  else
    let x := reg (i / 2)
    let F := if fmt = 0x20 then bf16 else fp16
    let q := F.round mode ((fp32.unpack x.val.toNat).scale (127 - (sb : Int)))
    ([x], if k % 2 = 0 then q.1 % 256 else q.1 / 256, q.2)

/-- The word of one thread of a block (R176): its bytes, the registers they used, its conditions. -/
def packWord (fmt sb w : Nat) (mode : RMode) (reg : Nat → VReg) : List VReg × Nat × FFlags :=
  (List.range 4).foldl (fun acc i =>
    let k := 4 * w + i
    let (used, byte, fl) : List VReg × Nat × FFlags :=
      if k = 0 then ([], fmt, 0) else if k = 1 then ([], sb, 0)
      else if sb = 255 then ([], 0, flagNv)
      else packByte fmt sb mode k i reg
    (acc.1 ++ used, acc.2.1 + byte * 2 ^ (8 * i), acc.2.2 ||| fl)) ([], 0, 0)

/-- The executing thread's word of its block. The scale source is an integer (R114, R176; DEDUCED, log 71). -/
def execVbpack (f : Fields) (s : State) : Host.Outcome State Fault Refusal :=
  issueV (.vbpack f) s (fun g t =>
    let b := g.typed t 4 g.f.b
    let (used, x, fl) := packWord (g.f.i 7 0) (b.1 % 256) (g.virt t % 16) (t.mode g.f.rnd) (fun i => t.vreg (opNum g.f.a + i))
    g.put false t (x, fl) (worst b.2 (worstOf (used.map (·.poison)))))

/-- The largest magnitude a format holds at scale 1 (R177). -/
def fmtLimit (fmt : Nat) : FVal :=
  if fmt = 0x10 then .fin false 127 0 else if fmt = 0x11 then .fin false 7 0 else if fmt = 0x20 then .fin false 255 120 else .fin false 65504 0

/-- The smallest scale byte at which |a| fits. -/
def scaleByte (fmt : Nat) (v : FVal) : Nat × FFlags :=
  match v with
  | .nan sg => (255, flagIf sg flagNv)
  | .inf _ => (254, flagOf)
  | .fin _ m e =>
    match (List.range 255).find? (fun (sb : Nat) => !(fmtLimit fmt).lt (.fin false m (e + 127 - (sb : Int)))) with
    | some sb => (sb, 0)
    | none => (254, flagOf)

def execVbscale (f : Fields) (s : State) : Host.Outcome State Fault Refusal :=
  issueV (.vbscale f) s (fun g t => let a := g.typed t 0 g.f.a; g.put false t (scaleByte (g.f.i 7 0) (fp32.unpack a.1)) a.2)

/-- Format codes of zero blocks, and of blocks with a payload (R57). -/
def zeroFmt (x : Nat) : Bool := x == 0x31 || x == 0x32 || x == 0x34
def dataFmt (x : Nat) : Bool := x == 0x10 || x == 0x11 || x == 0x20 || x == 0x21

/-- The integer of an N8 or N4 code; none for NaE (R55). -/
def codeVal (w x : Nat) : Option Int := if x = 2 ^ (w - 1) then none else some (sextNat w x)

/-- An element of a data format at byte positions already chosen, scaled: the value read, NaN for NaE and NaN elements (R55, R57, R58). -/
def elemValue (fmt raw sb : Nat) : FVal :=
  if sb = 255 then .nan false
  else
    let v : FVal :=
      if fmt = 0x10 then (match codeVal 8 raw with | some k => ofInt k | none => .nan false)
      else if fmt = 0x11 then (match codeVal 4 raw with | some k => ofInt k | none => .nan false)
      else if fmt = 0x20 then bf16.unpack raw else fp16.unpack raw
    v.scale ((sb : Int) - 127)

/-- The bits `vbunpack` selects from a word (R178). -/
def unpackSel (fmt x sel : Nat) : Nat :=
  if fmt = 0x10 then x / 2 ^ (8 * (sel % 4)) % 256
  else if fmt = 0x11 then x / 2 ^ (8 * (sel / 2 % 4) + 4 * (sel % 2)) % 16
  else x / 2 ^ (16 * (sel % 2)) % 65536

/-- One element decoded to FP32. The word and the source of format and scale are bits: inline constants there are integers (R114, R178; DEDUCED, log 71). -/
def execVbunpack (f : Fields) (s : State) : Host.Outcome State Fault Refusal :=
  issueV (.vbunpack f) s (fun g t =>
    let a := g.typed t 4 g.f.a
    let b := g.typed t 4 g.f.b
    let p := worst a.2 b.2
    let fmt := b.1 % 256
    if zeroFmt fmt then g.put false t (0, 0) p
    else if !dataFmt fmt then g.put false t (0, 0) (worst p (some .format))
    else g.put false t (fp32.round (t.mode g.f.rnd) (elemValue fmt (unpackSel fmt a.1 (g.f.i 2 0)) (b.1 / 256 % 256))) p)

/-- Element count and integer path of a format code (R57). -/
def fmtInfo (x : Nat) : Option (Nat × Bool) :=
  if x = 0x10 ∨ x = 0x32 then some (62, true)
  else if x = 0x11 ∨ x = 0x34 then some (124, true)
  else if x = 0x20 ∨ x = 0x21 ∨ x = 0x31 then some (31, false) else none

/-- What a format code says (R179). -/
def fmtWord (a : Nat) : Nat :=
  let x := a % 256
  match fmtInfo x with
  | none => 2 ^ 11
  | some (n, int) =>
    n + (if int then 2 ^ 8 else 0) + (if zeroFmt x then 2 ^ 9 else 0) + (if !zeroFmt x && a / 256 % 256 == 255 then 2 ^ 10 else 0)

def execVbfmt (f : Fields) (s : State) : Host.Outcome State Fault Refusal :=
  issueV (.vbfmt f) s (fun g t => let a := g.typed t 4 g.f.a; g.put false t (fmtWord a.1, 0) a.2)

def execVbzero (f : Fields) (s : State) : Host.Outcome State Fault Refusal :=
  issueV (.vbzero f) s (fun g t => g.put false t (if g.virt t % 16 = 0 then g.f.i 7 0 else 0, 0) none)

def execVcairn (f : Fields) (s : State) : Host.Outcome State Fault Refusal :=
  issueV (.vcairn f) s (fun g t =>
    let a := g.typed t 4 g.f.a
    let b := g.typed t 4 g.f.b
    g.put false t (cairn g.cairnkey (g.f.i 15 0) a.1 b.1, 0) (worst a.2 b.2))

end Sys2Proof.Machine
end

