-- ==== Sys2Proof/Machine/NearMemory.lean ====
section
/-! DEFINITION. Hut and summit commands: acceptance, the queues of the huts, deadlines, command slots, the collector, and the scan of
the summit engine (R274 to R279, R285 to R302). -/
namespace Sys2Proof.Machine

/-! ### Command blocks (R286, R287, R297) -/

def Cmd.kind (c : Cmd) : Nat := c.field 0 1
def Cmd.pid (c : Cmd) : Nat := c.field 2 2
def Cmd.resreg (c : Cmd) : Nat := c.field 4 1
def Cmd.plen (c : Cmd) : Nat := c.field 5 1
def Cmd.off (c : Cmd) : Nat := c.field 8 4
def Cmd.len (c : Cmd) : Nat := c.field 12 4
def Cmd.str0 (c : Cmd) : Int := sextNat 8 (c.field 16 1)
def Cmd.str1 (c : Cmd) : Int := sextNat 8 (c.field 17 1)
def Cmd.nreg (c : Cmd) : Nat := c.field 18 1
def Cmd.pg (c : Cmd) (n : Nat) : Nat := c.field (20 + 5 * n) 5
def Cmd.addr (c : Cmd) : Nat := c.field 40 8
def Cmd.param (c : Cmd) (n : Nat) : Nat := c.field (48 + 4 * n) 4

/-- Stripe numbers of the involved huts (R287). -/
def Cmd.huts (c : Cmd) : List Nat :=
  if c.len = 0 then [] else (List.range ((c.off + c.len - 1) / 1024 - c.off / 1024 + 1)).map (fun i => c.off / 1024 + i)

/-- WSTART and WN of a hut. -/
def Cmd.window (c : Cmd) (hut : Nat) : Nat × Nat :=
  let lo := max c.off (1024 * hut)
  let hi := min (c.off + c.len) (1024 * hut + 1024)
  (lo - 1024 * hut, (hi - lo) / 32)

/-- Involved stacks, ascending. -/
def Cmd.hutStacks (c : Cmd) : List Nat := (List.range 16).filter (fun s => c.huts.any (fun h => h % 16 == s))

/-- The fields of a summit block. -/
def Cmd.etype (c : Cmd) : Nat := c.field 1 1
def Cmd.opc (c : Cmd) : Nat := c.field 2 1
def Cmd.topk (c : Cmd) : Nat := c.field 4 2
def Cmd.src (c : Cmd) : Nat := c.field 8 8
def Cmd.count (c : Cmd) : Nat := c.field 16 8
def Cmd.dst (c : Cmd) : Nat := c.field 24 8
def Cmd.cap (c : Cmd) : Nat := c.field 32 4
def Cmd.const1 (c : Cmd) : Nat := c.field 36 4
def Cmd.const2 (c : Cmd) : Nat := c.field 40 4
def Cmd.esizeOf (c : Cmd) : Nat := match c.etype with | 0 => 4 | 1 => 2 | 2 => 4 | _ => 64

/-- Entries the output can hold, and its bytes (R297). -/
def Cmd.entries (c : Cmd) : Nat := if c.kind = 1 then c.cap else c.topk
def Cmd.outBytes (c : Cmd) : Nat := 64 + 8 * c.entries

/-! ### Programs (R285) -/

/-- The loops of a program: variable, index, and last word of the body. -/
def progLoops (ws : List (Option Instr)) : List (Bool × Nat × Nat) :=
  (ws.mapIdx (fun q i => match i with | some (.hloop lv _ _ bl) => some (lv, q, q + bl.toNat) | _ => none)).filterMap id

/-- The check of R285. -/
def progOk (ws : List (BitVec 32)) : Bool :=
  let is := ws.map decodeHut
  let loops := progLoops is
  is.all (fun i => match i with | some x => (hutIllegal x).isNone | none => false) &&
    loops.all (fun l => decide (l.2.2 < ws.length) && !loops.any (fun m => m.2.1 == l.2.2) &&
      loops.all (fun m => !(decide (l.2.1 < m.2.1) && decide (m.2.1 ≤ l.2.2)) || (l.1 && !m.1 && decide (m.2.2 ≤ l.2.2))))

/-! ### Acceptance (R276, R288, R298) -/

/-- The pages of 4 KiB that a range touches. -/
def pagesOf (va n : Nat) : List Nat := if n = 0 then [] else (List.range ((va + n - 1) / 4096 - va / 4096 + 1)).map (fun i => va / 4096 + i)

/-- Pages translated once, by number. An address on another module cannot be named (DEDUCED, log 14). -/
def State.mapPages (s : State) (core v : Nat) (w : Want) : List Nat → List (Nat × Except PoisonKind Line) × State
  | [] => ([], s)
  | p :: rest =>
    let (r, s) := s.translateGlobal core v (p * 4096) w
    let r := match r with | .ok l => (if l.space = .phys then .ok l else .error .protection) | e => e
    let (l, s) := s.mapPages core v w rest
    ((p, r) :: l, s)

/-- Addresses of pages whose walks must wait. -/
def State.pagesStuck (s : State) (core v : Nat) (w : Want) (ps : List Nat) : List Nat := (ps.map (· * 4096)).filter (fun a => s.globalStuck core v a w)

/-- The kinds of failed pages. -/
def pageKinds (l : List (Nat × Except PoisonKind Line)) : List (Option PoisonKind) := l.map (fun x => errOf x.2)

/-- Pages that were translated, as the command keeps them. -/
def keepPages (l : List (Nat × Except PoisonKind Line)) : List (Nat × BitVec 64 × Nat) :=
  l.filterMap (fun x => match x.2 with | .ok y => some (x.1, BitVec.ofNat 64 (y.pte / 2 ^ 52 * 2 ^ 52 + y.pte % 4096 + y.pa), y.leaf) | .error _ => none)

/-- What a translated page says of writing, tensor blocks and computing. -/
def pagesAll (p : Line → Bool) (l : List (Nat × Except PoisonKind Line)) : Bool := l.all (fun x => match x.2 with | .ok y => p y | .error _ => true)

/-- The physical address of a byte through a command's kept pages. -/
def Cmd.phys (c : Cmd) (va : Nat) : Nat :=
  match c.pages.find? (fun p => p.1 == va / 4096) with
  | some p => ptePa p.2.1.toNat + va % 4096
  | none => 0

/-- The leaf of a byte's page. -/
def Cmd.leafOf (c : Cmd) (va : Nat) : List Nat := ((c.pages.find? (fun p => p.1 == va / 4096)).map (·.2.2)).toList

/-- The first page number of region `n`. -/
def Cmd.regionPage (c : Cmd) (n : Nat) : Nat := (c.pg n) % 2 ^ 36 * 512

/-- The pages an `ahut` block makes the engine read: its regions, and a LOAD's program range. -/
def Cmd.hutReads (c : Cmd) : List Nat :=
  (List.range c.nreg).map c.regionPage ++ (if c.kind = 1 then pagesOf c.addr (4 * c.plen) else [])

/-- The checks of R288 before any page is looked at. -/
def Cmd.hutReason (c : Cmd) : Nat :=
  let k := c.kind
  firstReason
    [ (k == 0 || decide (3 < k) || (if k = 3 then decide (2 < c.etype) || decide (23 < c.resreg) else c.etype != 0 || c.resreg != 0) || c.field 19 1 != 0 ||
        (List.range 4).any (fun n => if n < c.nreg then decide (2 ^ 36 ≤ c.pg n) else c.pg n != 0) || (k == 2 && c.addr != 0), 1),
      (c.deadline == 0 || decide (c.len < 32) || decide (2 ^ 21 < c.len) || (if k = 1 then c.plen == 0 || decide (96 < c.plen) else c.plen != 0) ||
        (if k = 1 then c.nreg != 0 else c.nreg == 0 || decide (4 < c.nreg)), 11),
      (decide (c.off % 32 ≠ 0) || decide (c.len % 32 ≠ 0) || (k == 1 && decide (c.addr % 4 ≠ 0)) || (k == 3 && decide (c.addr % 32 ≠ 0)), 4),
      (decide (2 ^ 21 < c.off + c.len), 0x30) ]

/-- The checks of R298 before any page is looked at. -/
def Cmd.summitReason (c : Cmd) : Nat :=
  let k := c.kind
  let float := c.etype != 2
  let nan (x : Nat) : Bool := float && (fp32.unpack x).isNan
  let uses2 := k == 1 && decide (6 ≤ c.opc)
  let srcEnd := c.src % 2 ^ 57 + c.count * c.esizeOf
  let dstEnd := c.dst % 2 ^ 57 + c.outBytes
  firstReason
    [ (k == 0 || decide (2 < k) || decide (3 < c.etype) || (if k = 1 then decide (7 < c.opc) else decide (1 < c.opc)) || c.field 3 1 != 0 ||
        c.field 44 20 != 0 || nan c.const1 || (if uses2 then nan c.const2 else c.const2 != 0), 1),
      (c.count == 0 || decide (2 ^ 32 ≤ (if c.etype = 3 then 62 * c.count else c.count)) || (if k = 2 then c.topk == 0 || decide (256 < c.topk) else c.topk != 0) ||
        (if k = 1 then c.cap == 0 || decide (2 ^ 20 < c.cap) else c.cap != 0) || c.deadline == 0, 11),
      (decide (c.src % c.esizeOf ≠ 0) || decide (c.dst % 64 ≠ 0), 4),
      (decide (2 ^ 57 < srcEnd) || decide (2 ^ 57 < dstEnd), 6),
      (decide (c.src < c.dst + c.outBytes) && decide (c.dst < c.src + c.count * c.esizeOf), 7) ]

/-- The ranges of addresses that a command has translated: its region pages of 2 MiB, and its other pages (R276). -/
def Cmd.named (c : Cmd) : List (Nat × Nat) :=
  (if c.op = 6 then (List.range c.nreg).map (fun n => (c.regionPage n * 4096, 2 ^ 21)) else []) ++ c.pages.map (fun p => (p.1 * 4096, 4096))

/-- What looking at the pages came to: a wait, on a dark direction or not, a reason, or the pages kept and the program read. -/
inductive Looked where
  | wait (dark : Bool)
  | reject (r : Nat)
  | ok (pages : List (Nat × BitVec 64 × Nat)) (prog : List (BitVec 32))
  deriving DecidableEq, Repr

/-- The rest of R288: translation faults, NOTCC, PERM and PROGRAM. -/
def State.lookHut (s : State) (c : Cmd) : Looked × State :=
  let v := c.team.vf
  let res := if c.kind = 3 then pagesOf c.addr 32 else []
  let stuck := s.pagesStuck c.core v .load c.hutReads ++ s.pagesStuck c.core v .any res
  if !stuck.isEmpty then (.wait false, s.waitWalks c.core v stuck)
  else
    let (rd, s) := s.mapPages c.core v .load c.hutReads
    let (wr, s) := s.mapPages c.core v .any res
    let regions := rd.take c.nreg
    let kept := keepPages (rd ++ wr)
    let c' := { c with pages := kept }
    let words := if c.kind = 1 then (List.range c.plen).map (fun i => c.addr + 4 * i) else []
    -- the program words are read when every page of theirs has been translated
    let seen := if pageKinds (rd.drop c.nreg) |>.all Option.isNone then words else []
    match s.reach (c.core / 32) v (distinct (seen.map (fun a => c'.phys a / 64))) [] with
    | .waits dark s => (.wait dark, s)
    | .go s =>
    let bad := seen.any (fun a => s.badAt (c'.phys a) 4)
    match worstOf (pageKinds (rd ++ wr) ++ [if bad then some .uncorrectable else none]) with
    | some k => (.reject k.code, s)
    | none =>
      let prog : List (BitVec 32) := words.map (fun a => BitVec.ofNat 32 (s.mem.nat (c'.phys a) 4))
      if !pagesAll (fun l => l.cc) regions then (.reject 0x31, s)
      else if !pagesAll (fun l => pteBit l.pte 2) wr then (.reject 8, s)
      else if c.kind = 1 ∧ !progOk prog then (.reject 0x32, s)
      else (.ok kept prog, s)

/-- The rest of R298. -/
def State.lookSummit (s : State) (c : Cmd) : Looked × State :=
  let v := c.team.vf
  let src := pagesOf c.src (c.count * c.esizeOf)
  let dst := pagesOf c.dst c.outBytes
  let stuck := s.pagesStuck c.core v .load src ++ s.pagesStuck c.core v .any dst
  if !stuck.isEmpty then (.wait false, s.waitWalks c.core v stuck)
  else
    let (rd, s) := s.mapPages c.core v .load src
    let (wr, s) := s.mapPages c.core v .any dst
    match worstOf (pageKinds (rd ++ wr)) with
    | some k => (.reject k.code, s)
    | none =>
      if !pagesAll (fun l => pteBit l.pte 2) wr || (c.etype == 3 && !pagesAll (fun l => l.tb) rd) then (.reject 8, s)
      else (.ok (keepPages (rd ++ wr)) [], s)

/-- The bytes a near-memory command counts (R292, R298). -/
def Cmd.nearBytes (c : Cmd) : Nat := if c.op = 7 then c.outBytes else c.len + (if c.kind = 3 then 32 else 0)

/-- A stack's counter moved. -/
def State.updStack (s : State) (k : Nat) (f : Stack → Stack) : State := s.setStack k (f (s.stack k))

/-- A near-memory command is accepted and sent: a RUN or REDUCE joins the queues of the huts it can reach; a summit scan starts at the stacks. -/
def State.sendNear (s : State) (c : Cmd) (bs : List Byte) : State :=
  let n := c.nearBytes
  let s := s.updTeam c.team (fun t => match c.bar with | some a => t.barUpdate a (fun b => b.add (n : Int)) | none => t)
  let s := s.keepRecord c.core c.team.vf c.a.toNat bs
  let reach (k : Nat) : Bool := s.wayUp (c.core / 32) (stackPort k)
  let hs := if c.op = 6 then c.huts.filter (fun h => reach (h % 16)) else []
  let c := { c with accepted := true, acceptedAt := s.cycle, total := n, counted := n, sent := true, arrived := if c.op = 6 ∧ c.kind ≠ 1 then hs else [] }
  let s := s.setCmd c
  let s := (List.range 16).foldl (fun (s : State) k =>
    if reach k && (c.op == 7 || c.hutStacks.contains k) then s.flits (c.core / 32) (stackPort k) (msgFlits 64) else s) s
  if c.op = 7 then (List.range 16).foldl (fun (s : State) k => if reach k then s.updStack k (fun x => { x with sumcmd := satInc x.sumcmd }) else s) s
  else if c.kind = 1 then s
  else hs.foldl (fun (s : State) h => let x := s.hut h; s.setHut h { x with queue := x.queue ++ [c.id] }) s

/-- A command block whose KIND or MODE no table lists, or that cannot be read, is rejected by whichever acceptance meets it. -/
def nearTurn (op want : Nat) (c : Cmd) : Bool := c.kind == want || c.kind == 0 || decide ((if op = 6 then 3 else 2) < c.kind)

/-- The reason that refuses a command before its pages are looked at. R72 lets a function that accepted SUMMIT or HUTS issue these commands and does not say what another
function's command becomes: it is rejected as RESERVED (DESIGN CHOICE, log 55). -/
def State.nearReason (s : State) (c : Cmd) : Nat :=
  if !(s.vf c.team.vf).feature (if c.op = 6 then 3 else 2) then 1 else if c.op = 6 then c.hutReason else c.summitReason

/-- The engine of a core accepts its next command, when that is an `ahut` (6) or `asummit` (7) of one kind (R266, R288, R298); one with REL after the earlier stores of its
group (R309). -/
def State.acceptNear (s : State) (core op want : Nat) : State :=
  match s.nextCmd core with
  | none => s
  | some c =>
    if c.unverified || c.op != op || decide (c.stores ≠ 0) then s
    else if c.a.toNat % 64 ≠ 0 then s.completeCmd c .error 4 0 0
    else
      match s.readRecord core c.team.vf c.a.toNat with
      | (.wait dark, s) => s.darkSince c dark
      | (.fault k, s) => s.completeCmd c .error k.code 0 0
      | (.ok bs, s) =>
        let c := { c with shape := BitVec.ofNat 512 (natOfBytes bs) }
        if !nearTurn op want c then s
        else
          match s.nearReason c with
          | 0 =>
            match if op = 6 then s.lookHut c else s.lookSummit c with
            | (.wait dark, s) => s.darkSince c dark
            | (.reject r, s) => s.completeCmd c .error r 0 0
            | (.ok pages prog, s) =>
              let spad := match s.kd? c.team with | some k => k.spad | none => 0
              if (match c.bar with | some a => decide (spad ≤ a) | none => false) then s.completeCmd c .error 10 0 0
              else s.sendNear { c with pages := pages, prog := prog } bs
          | r => s.completeCmd c .error r 0 0

def execAhutLoad (core : Nat) (s : State) : Host.Outcome State Fault Refusal := module s (fun s => s.acceptNear core 6 1)

def execAhutRun (core : Nat) (s : State) : Host.Outcome State Fault Refusal := module s (fun s => s.acceptNear core 6 2)

def execAhutReduce (core : Nat) (s : State) : Host.Outcome State Fault Refusal := module s (fun s => s.acceptNear core 6 3)

def execAsummitPred (core : Nat) (s : State) : Host.Outcome State Fault Refusal := module s (fun s => s.acceptNear core 7 1)

def execAsummitTopk (core : Nat) (s : State) : Host.Outcome State Fault Refusal := module s (fun s => s.acceptNear core 7 2)

/-! ### Outcomes and collectors (R291, R292, R294 to R296, R301, R302) -/

/-- Bytes leave a command's barrier object. -/
def State.subNear (s : State) (c : Cmd) (n : Nat) : State :=
  (s.updTeam c.team (fun t => match c.bar with | some a => t.barUpdate a (fun b => b.add (-(n : Int))) | none => t)).setCmd { c with subbed := c.subbed + n }

/-- Stacks as a mask. -/
def stackMask (l : List Nat) : BitVec 16 := l.foldl (fun m k => m ||| BitVec.ofNat 16 (2 ^ k)) 0

/-- The stack that homes a command's output, its collector. -/
def State.collector (s : State) (c : Cmd) : Nat := s.homeStack (c.phys (if c.op = 7 then c.dst else c.addr))

/-- The state a command completes with (R296, R302). -/
def Cmd.outcome (c : Cmd) (missed : BitVec 16) : HState × Nat :=
  match c.hutFault with
  | some r => (.error, r)
  | none =>
    if c.kind = 1 ∧ c.op = 6 ∧ c.busy then (.error, 0x33)
    else if c.pmask ≠ 0 then (.poisoned, 0)
    else if missed ≠ 0 then (.part, 0)
    else (.done, 0)

/-- The sum of two words at a REDUCE type (R282, R291). -/
def sumWord (float : Bool) (a b : Nat) : Nat := if float then (fp32.add .rne (fp32.unpack a) (fp32.unpack b)).1 else (a + b) % 2 ^ 32

/-- Eight sums, element by element. -/
def sumWords (float : Bool) (a b : List Word) : List Word := (a.zip b).map (fun x => BitVec.ofNat 32 (sumWord float x.1.toNat x.2.toNat))

/-- The result of a REDUCE over the stacks it counts: huts ascending within a stack, stacks ascending. -/
def Cmd.reduced (c : Cmd) (counted : List Nat) : List Word :=
  let float := c.etype == 0
  let zero : List Word := List.replicate 8 0
  let stackSum (k : Nat) : List Word := (c.huts.filter (fun h => h % 16 == k)).foldl (fun a h => sumWords float a (c.partials.get h zero)) zero
  counted.foldl (fun a k => sumWords float a (stackSum k)) zero

/-- Bytes written at a collector, at their homes, or a wait. -/
def State.collectWrite (s : State) (c : Cmd) (writes : List (Nat × List Byte)) : Reach :=
  let cells := writes.flatMap (fun w => w.2.mapIdx (fun i b => (c.phys (w.1 + i), b)))
  let blocks := distinct (cells.map (fun x => x.1 / 64))
  let k := s.collector c
  let leaves := distinct (writes.flatMap (fun (w : Nat × List Byte) => c.leafOf w.1 ++ c.leafOf (w.1 + w.2.length - 1)))
  let clean := leaves.filter (fun a => !pteBit (s.mem.nat a 8) 9)
  match s.leavesWait (stackPort k) clean with
  | some (dark, s) => .waits dark s
  | none =>
    match s.reach (stackPort k) c.team.vf [] blocks with
    | .waits dark s => .waits dark s
    | .go s => let s := s.setDirty (stackPort k) clean; .go { s with mem := s.mem.writeCells cells }

/-- A near-memory command is finished with a state. -/
def State.finishNear (s : State) (c : Cmd) (missed : List Nat) : State :=
  let o := c.outcome (stackMask missed)
  let late := if c.op = 7 then (List.range 16).filter (fun k => !c.reported.contains k) else if c.kind ≠ 3 then []
    else c.hutStacks.filter (fun k => !c.reported.contains k && (c.huts.filter (fun h => h % 16 == k)).all c.left.contains)
  let s := { s with late := s.late ++ late.map (fun k => (c.id, k, s.collector c)) }
  let s := s.flits (stackPort (s.collector c)) (c.core / 32) 1
  s.setCmd { c with result := some o, finished := true, mmask := if o.1 = .part then stackMask missed else 0, pmask := if o.1 = .poisoned then c.pmask else 0 }

/-- The exact value of a list entry. -/
def SumEntry.val (x : SumEntry) : FVal := if x.inf then .inf x.neg else .fin x.neg x.m x.e

/-- A list entry of a value that is not NaN. -/
def SumEntry.of (v : FVal) (idx : Nat) (w : Word) : SumEntry :=
  match v with
  | .fin n m e => { word := w, idx := idx, inf := false, neg := n, m := m, e := e }
  | .inf n => { word := w, idx := idx, inf := true, neg := n, m := 0, e := 0 }
  | .nan _ => { word := w, idx := idx, inf := false, neg := false, m := 0, e := 0 }

/-- The order of R300 for TOPK: by value, equal values by lower index. -/
def topBefore (largest : Bool) (a b : SumEntry) : Bool :=
  if a.val.lt b.val then !largest else if b.val.lt a.val then largest else decide (a.idx < b.idx)

/-- The exact value of an element (R299). -/
def Cmd.elemAt (s : State) (c : Cmd) (i : Nat) : FVal :=
  match c.etype with
  | 0 => fp32.unpack (s.mem.nat (c.phys (c.src + 4 * i)) 4)
  | 1 => bf16.unpack (s.mem.nat (c.phys (c.src + 2 * i)) 2)
  | 2 => ofInt (sextNat 32 (s.mem.nat (c.phys (c.src + 4 * i)) 4))
  | _ =>
    let blk := c.src + 64 * (i / 62)
    let fmt := (s.mem.read (c.phys blk)).toNat
    if zeroFmt fmt then .fin false 0 0
    else elemValue 0x10 (s.mem.read (c.phys (blk + 2 + i % 62))).toNat (s.mem.read (c.phys (blk + 1))).toNat

/-- The 32-bit value of an output entry (R302). -/
def Cmd.entryWord (s : State) (c : Cmd) (i : Nat) : Word :=
  if c.etype = 2 then BitVec.ofNat 32 (s.mem.nat (c.phys (c.src + 4 * i)) 4)
  else BitVec.ofNat 32 (fp32.round .rne (c.elemAt s i)).1

/-- A constant of a PRED command. -/
def Cmd.constVal (c : Cmd) (x : Nat) : FVal := if c.etype = 2 then ofInt (sextNat 32 x) else fp32.unpack x

/-- An element qualifies (R300). -/
def Cmd.qualifies (c : Cmd) (x : FVal) : Bool :=
  let a := c.constVal c.const1
  let b := c.constVal c.const2
  match c.opc with
  | 0 => x.lt a
  | 1 => !a.lt x
  | 2 => a.lt x
  | 3 => !x.lt a
  | 4 => x.eqv a
  | 5 => !x.eqv a
  | 6 => !x.lt a && !b.lt x
  | _ => x.lt a || b.lt x

/-- The elements whose bytes a stack homes (R299). -/
def State.share (s : State) (c : Cmd) (k : Nat) : List Nat :=
  let per := if c.etype = 3 then 62 else 1
  (List.range c.count).flatMap (fun e =>
    if s.homeStack (c.phys (c.src + e * c.esizeOf)) = k then (List.range per).map (fun j => per * e + j) else [])

/-- The block of 64 bytes that holds an element. -/
def Cmd.blockAt (c : Cmd) (i : Nat) : Nat := c.phys (if c.etype = 3 then c.src + 64 * (i / 62) else c.src + i * c.esizeOf) / 64

/-- The blocks of a stack's share, in the order of their elements. -/
def State.shareBlocks (s : State) (c : Cmd) (k : Nat) : List Nat := distinct ((s.share c k).map c.blockAt)

/-- The block that a stack reads next for a scan. -/
def State.nextBlock (s : State) (c : Cmd) (k : Nat) : Option Nat := (s.shareBlocks c k)[c.scanAt.get k 0]?

/-- A stack's list with the elements of one more block: those of the lowest indices that qualify, or its best K, and the number it counts (R299 to R301). -/
def State.scan (s : State) (c : Cmd) (k block : Nat) : List SumEntry × Nat :=
  let mine := (s.share c k).filter (fun i => c.blockAt i == block && !(c.elemAt s i).isNan)
  let live := mine.map (fun i => SumEntry.of (c.elemAt s i) i (c.entryWord s i))
  let old := c.lists.get k ([], 0)
  if c.kind = 1 then
    let q := live.filter (fun x => c.qualifies x.val)
    ((sortBy (fun (a b : SumEntry) => decide (a.idx < b.idx)) (old.1 ++ q)).take c.cap, old.2 + q.length)
  else ((sortBy (topBefore (c.opc == 0)) (old.1 ++ live)).take c.topk, old.2 + live.length)

/-- A block poisons its stack's contribution: an uncorrectable read, or an N8 block of a format it cannot take (R299). -/
def State.blockPoisons (s : State) (c : Cmd) (block : Nat) : Bool :=
  s.badAt (64 * block) 64 || (c.etype == 3 && (let f := (s.mem.read (64 * block)).toNat; f != 0x10 && f != 0x32))

/-- A stack reads one block of its share whole (R299), with the command slot it was granted. -/
def State.summitRead (s : State) (c : Cmd) (k block : Nat) : State :=
  let bad := s.blockPoisons c block
  s.setCmd { c with scanAt := c.scanAt.set k (c.scanAt.get k 0 + 1), granted := c.granted.filter (· != k), lists := c.lists.set k (s.scan c k block)
                    pmask := if bad then c.pmask ||| stackMask [k] else c.pmask }

/-- The header of the output (R302). -/
def summitHeader (count total st coll : Nat) (pmask mmask : BitVec 16) : List Byte :=
  bytesOfNat 4 count ++ bytesOfNat 4 (min total (2 ^ 32 - 1)) ++ bytesOfNat 1 st ++ bytesOfNat 1 coll ++ bytesOfNat 2 pmask.toNat ++ bytesOfNat 2 mmask.toNat ++ bytesOfNat 50 0

/-- A result that waits at its collector: on a dark direction it is given up at the deadline, with every stack missed and nothing written (R401;
DEDUCED, log 56). -/
def State.collectDark (s : State) (c : Cmd) (dark : Bool) : State :=
  if dark && s.past c then s.finishNear c (if c.op = 7 then List.range 16 else c.hutStacks) else s

/-- The collector finishes with what has reported: a REDUCE writes its sums, a summit command its entries and then its header. -/
def State.collect (s : State) (c : Cmd) (missed : List Nat) : State :=
  if c.op = 6 then
    if c.kind ≠ 3 ∨ c.hutFault.isSome then s.finishNear c missed
    else
      let counted := c.hutStacks.filter (fun k => !missed.contains k && !c.pmask.getLsbD k)
      match s.collectWrite c [(c.addr, (c.reduced counted).flatMap (fun w => bytesOfNat 4 w.toNat))] with
      | .waits dark s => s.collectDark c dark
      | .go s =>
        let s := s.subNear c 32
        s.finishNear { c with subbed := c.subbed + 32 } missed
  else
    let counted := c.reported.filter (fun k => !c.pmask.getLsbD k)
    let lists := (List.range 16).filter counted.contains |>.map (fun k => c.lists.get k ([], 0))
    let merged := lists.flatMap (·.1)
    let total := sumOf (lists.map (·.2))
    let before (a b : SumEntry) : Bool := if c.kind = 1 then decide (a.idx < b.idx) else topBefore (c.opc == 0) a b
    let out := (sortBy before merged).take c.entries
    let o := c.outcome (stackMask missed)
    let entries := out.mapIdx (fun i (x : SumEntry) => (c.dst + 64 + 8 * i, bytesOfNat 4 x.word.toNat ++ bytesOfNat 4 x.idx))
    match s.collectWrite c (entries ++ [(c.dst, summitHeader out.length total o.1.code (s.collector c) c.pmask (stackMask missed))]) with
    | .waits dark s => s.collectDark c dark
    | .go s =>
      let s := s.subNear c c.outBytes
      s.finishNear { c with subbed := c.subbed + c.outBytes } missed

/-! ### Huts (R289, R290, R292, R294 to R296) -/

/-- The command a number names. -/
def State.cmd? (s : State) (id : Nat) : Option Cmd := s.cmds.find? (fun (c : Cmd) => c.id == id)

/-- A RUN, or a REDUCE that ended in error, is over when every involved hut has left it; a LOAD when every hut has accepted or refused. -/
def State.settleNear (s : State) (id : Nat) : State :=
  match s.cmd? id with
  | none => s
  | some c => if c.finished || c.op != 6 || c.kind == 3 || !c.huts.all c.left.contains then s else s.finishNear c []

/-- The lower fault of two reports: protection, then bounds, then NOPROG (R296). -/
def firstFault (a b : Option Nat) : Option Nat :=
  match a, b with
  | none, y => y
  | x, none => x
  | some x, some y => some (min x y)

/-- A hut leaves a command: its bytes leave PEND, and what it reports is noted. -/
def State.leaveHut (s : State) (h id : Nat) (fault : Option Nat) (poisoned : Bool) (part : Option (List Word)) : State :=
  let x := s.hut h
  let mine := x.running = some id
  let s := s.setHut h { x with running := if mine then none else x.running, queue := x.queue.filter (· != id), granted := if mine then false else x.granted
                               loops := if mine then [] else x.loops }
  match s.cmd? id with
  | none => s
  | some c =>
    if c.finished then s
    else
      let n := 32 * (c.window h).2
      let c := { c with left := c.left ++ [h], hutFault := firstFault c.hutFault fault, pmask := if poisoned then c.pmask ||| stackMask [h % 16] else c.pmask
                        partials := match part with | some w => c.partials.set h w | none => c.partials }
      ((s.flits (stackPort (h % 16)) (c.core / 32) 1).subNear c n).settleNear id

/-- A LOAD reaches a hut, in the order of its engine (R289): its program and tag replace the hut's, or it is refused while the hut runs. -/
def execHutLoadArrive (hut cmd : Nat) (s : State) : Host.Outcome State Fault Refusal :=
  module s (fun s =>
    match s.cmd? cmd with
    | none => s
    | some c =>
      let earlier := (s.cmds.takeWhile (fun (k : Cmd) => k.id != cmd)).any (fun (k : Cmd) =>
        k.core == c.core && k.op == 6 && k.sent && k.kind == 1 && k.huts.contains hut && !k.arrived.contains hut && !k.finished)
      if c.op ≠ 6 ∨ c.kind ≠ 1 ∨ !c.sent ∨ c.finished ∨ !c.huts.contains hut ∨ c.arrived.contains hut ∨ earlier ∨ s.past c ∨ !s.wayUp (c.core / 32) (stackPort (hut % 16)) then s
      else
        let c := { c with arrived := c.arrived ++ [hut] }
        let s := s.flits (c.core / 32) (stackPort (hut % 16)) (msgFlits (4 * c.prog.length))
        let x := s.hut hut
        if x.running.isSome then
          ((s.updStack (hut % 16) (fun y => { y with busyref := satInc y.busyref })).setCmd { c with busy := true }).leaveHut hut cmd none false none
        else
          let ib := x.ib.mapIdx (fun i w => c.prog.getD i w)
          ((s.setHut hut { x with ib := ib, tag := some (c.team.vf, c.pid, c.plen) }).setCmd c).leaveHut hut cmd none false none)

/-- The command at the head of a hut's queue starts, or reports NOPROG (R290). -/
def execHutCommandStart (hut : Nat) (s : State) : Host.Outcome State Fault Refusal :=
  module s (fun s =>
    let x := s.hut hut
    match x.queue with
    | [] => s
    | id :: rest =>
      if x.running.isSome || !(s.stack (hut % 16)).huten then s
      else
        match s.cmd? id with
        | none => s.setHut hut { x with queue := rest }
        | some c =>
          let owed := (s.cmds.takeWhile (fun (k : Cmd) => k.id != id)).any (fun (k : Cmd) =>
            k.core == c.core && k.op == 6 && k.sent && k.kind == 1 && k.huts.contains hut && !k.arrived.contains hut && !k.finished)
          if owed || s.past c then s
          else
            match x.tag with
            | some (v, pid, _) =>
              if v = c.team.vf ∧ pid = c.pid then
                let w := c.window hut
                let s := s.updStack (hut % 16) (fun y => { y with hutcmd := satInc y.hutcmd })
                s.setHut hut { x with x := List.replicate 24 (List.replicate 8 0), c := (List.range 4).map (fun i => BitVec.ofNat 32 (c.param i)), i0 := 0, i1 := 0
                                      wstart := w.1, wn := w.2, pc := 0, loops := [], running := some id, queue := rest, granted := false }
              else s.leaveHut hut id (some 0x34) false none
            | none => s.leaveHut hut id (some 0x34) false none)

/-- A window of a channel begins with the weights then in force; 0 and 0 act as 1 and 1 (R277). -/
def Stack.newWindow (x : Stack) : Nat × Nat × Nat × Nat := if x.wnorm = 0 ∧ x.whut = 0 then (0, 0, 1, 1) else (0, 0, x.wnorm, x.whut)

/-- The huts of a channel whose next instruction waits for a slot. -/
def State.slotWaiter (s : State) (stack channel : Nat) : List Nat :=
  (List.range 4).map (fun j => 16 * (4 * channel + j) + stack) |>.filter (fun h =>
    let x := s.hut h
    (match x.running.bind s.cmd? with | some c => !s.past c | none => false) && !x.granted && (match decodeHut (x.ib.getD x.pc 0) with | some (.hld ..) => true | some (.hst ..) => true | _ => false))

/-- The summit commands whose next read at a stack waits for a slot of a channel: a summit read is a hut command too (R277). -/
def State.scanWaiter (s : State) (stack channel : Nat) : List Nat :=
  (s.cmds.filter (fun (c : Cmd) => c.op == 7 && c.sent && !c.finished && !s.past c && !c.scanned.contains stack && !c.granted.contains stack &&
    (match s.nextBlock c stack with | some b => isDevice (64 * b) && s.homeChannel (64 * b) == channel | none => false))).map (·.id)

/-- One command slot of a channel is granted (R277). Whether a normal command waits is free (log 2), and so are, where both kinds have slots left in
the window, which goes first, and which of several waiting hut commands does. -/
def execCommandSlotGrant (stack channel : Nat) (s : State) : Host.Outcome State Fault Refusal :=
  module s (fun s =>
    let huts : List (Sum Nat Nat) := (s.slotWaiter stack channel).map Sum.inl ++ (s.scanWaiter stack channel).map Sum.inr
    let (normal, s) := s.freeBool
    let (pick, s) := s.freeNat
    let st := s.stack stack
    if !normal && huts.isEmpty then s.setStack stack { st with windows := st.windows.del channel }
    else
      let fresh := st.newWindow
      let w := st.windows.get channel fresh
      let w := if w.2.2.1 + w.2.2.2 ≤ w.1 + w.2.1 then fresh else w
      let toHut := if huts.isEmpty then false else if !normal then true
        else if w.1 < w.2.2.1 ∧ w.2.1 < w.2.2.2 then pick % 2 == 1 else decide (w.2.2.1 ≤ w.1)
      let w' := if toHut then (w.1, w.2.1 + 1, w.2.2) else (w.1 + 1, w.2.1, w.2.2)
      let s := s.setStack stack { st with windows := st.windows.set channel w' }
      if !toHut then s
      else
        match huts[pick / 2 % huts.length]? with
        | some (.inl h) => let x := s.hut h; s.setHut h { x with granted := true }
        | some (.inr i) => { s with cmds := s.cmds.map (fun (c : Cmd) => if c.id == i then { c with granted := c.granted ++ [stack] } else c) }
        | none => s)

/-- A command's deadline (R294): huts that run or wait stop, their stacks are missed, and the collector finishes. A hut that was running takes its bytes from PEND as it stops
(R292). -/
def execHutDeadline (cmd : Nat) (s : State) : Host.Outcome State Fault Refusal :=
  module s (fun s =>
    match s.cmd? cmd with
    | none => s
    | some c =>
      if !c.sent || c.finished || !s.past c then s
      else if c.op = 7 then s.collect c ((List.range 16).filter (fun k => !c.reported.contains k))
      else
        let stopped := c.huts.filter (fun h => !c.left.contains h)
        let n := sumOf ((stopped.filter (fun h => decide ((s.hut h).running = some cmd))).map (fun h => 32 * (c.window h).2))
        let s := stopped.foldl (fun (s : State) h =>
          let x := s.hut h
          s.setHut h { x with running := if x.running = some cmd then none else x.running, queue := x.queue.filter (· != cmd), granted := x.granted && decide (x.running ≠ some cmd)
                              loops := if x.running = some cmd then [] else x.loops }) s
        let s := s.subNear c n
        let c := { c with subbed := c.subbed + n }
        let quiet := if c.kind = 3 then c.hutStacks.filter (fun k => !c.reported.contains k) else []
        s.collect c (c.hutStacks.filter (fun k => quiet.contains k || stopped.any (fun h => h % 16 == k))))

/-! ### Scans and reports (R299, R301) -/

/-- A request for a block waits at the home of the one who makes it: a hut, or a stack's summit engine (R293). -/
def State.askSelf (s : State) (kind : HomeKind) (stack block src ctx : Nat) : State :=
  if (s.coh.homes.get stack []).any (fun (r : HomeReq) => r.src == src && r.block == block) then s
  else s.sendHome { kind := kind, block := block, who := 10, core := 256, src := src, ctx := ctx, keep := 0, waitFwd := false, since := s.cycle }

/-- The source of a summit engine's request. -/
def sumSrc (stack cmd : Nat) : Nat := 2 ^ 21 + 16 * cmd + stack

/-- A device block can be read at its home at once: no request stands before it, no chiplet owns it, and no host holds it in A (R321, R322, R327). -/
def State.readFree (s : State) (block : Nat) : Bool :=
  let e := s.coh.dirEntry block
  s.homeClear block && e.owner.isNone && (e.hostConflicts false).isEmpty

/-- A stack scans one block of its share, with its command slot and through the block's home, and after the last one its scan is done. -/
def execSummitScanDone (stack cmd : Nat) (s : State) : Host.Outcome State Fault Refusal :=
  module s (fun s =>
    match s.cmd? cmd with
    | none => s
    | some c =>
      if c.op ≠ 7 ∨ !c.sent ∨ c.finished ∨ s.past c ∨ c.scanned.contains stack ∨ 16 ≤ stack then s
      else
        match s.nextBlock c stack with
        | none => s.setCmd { c with scanned := c.scanned ++ [stack] }
        | some b =>
          if isDevice (64 * b) then
            if !c.granted.contains stack then s
            else if s.readFree b then (s.rouse b).summitRead c stack b
            else s.askSelf .hutRead stack b (sumSrc stack cmd) c.team.vf
          else
            match s.reach (stackPort stack) c.team.vf [b] [] with
            | .waits _ s => s
            | .go s => s.summitRead c stack b)

/-- A stack's list or partial reaches the collector; with the last one the collector finishes. A late one is discarded and counted. -/
def execStackListArrive (stack cmd : Nat) (s : State) : Host.Outcome State Fault Refusal :=
  module s (fun s =>
    match s.late.find? (fun x => x.1 == cmd && x.2.1 == stack) with
    | some x => { s with late := s.late.erase x }.updStack x.2.2 (fun y => { y with latedrop := satInc y.latedrop })
    | none =>
      match s.cmd? cmd with
      | none => s
      | some c =>
        let ready := if c.op = 7 then c.scanned.contains stack else c.kind == 3 && c.hutStacks.contains stack &&
          (c.huts.filter (fun h => h % 16 == stack)).all c.left.contains
        if !c.sent || c.finished || s.past c || !ready || !s.wayUp (stackPort stack) (stackPort (s.collector c)) then s
        else
          let s := if c.reported.contains stack then s
            else s.flits (stackPort stack) (stackPort (s.collector c)) (msgFlits (if c.op = 7 then 8 * (c.lists.get stack ([], 0)).1.length else 32))
          let c := if c.reported.contains stack then c else { c with reported := c.reported ++ [stack] }
          let s := s.setCmd c
          let want := if c.op = 7 then List.range 16 else c.hutStacks
          if want.all c.reported.contains then s.collect c [] else s)

end Sys2Proof.Machine
end

