-- ==== Sys2Proof/Machine/Huts.lean ====
section
/-! DEFINITION. The instructions of the huts (R279 to R285, R291, R293, R295). -/
namespace Sys2Proof.Machine

/-! ### The issue of a hut's instruction -/

/-- A hut about to execute an instruction of the command it runs. -/
structure HCtx where
  s : State
  no : Nat
  hut : Hut
  cmd : Cmd
  deriving DecidableEq, Repr

/-- The issuing hut, with its command. -/
def State.hctx? (s : State) : Option HCtx :=
  match s.cur with
  | .hut h =>
    match (s.hut h).running with
    | none => none
    | some id => (s.cmd? id).map (fun c => { s := s, no := h, hut := s.hut h, cmd := c })
  | _ => none

/-- Element `e` of a source: a register, or a parameter repeated (R280). -/
def Hut.src (x : Hut) (a : BitVec 5) (e : Nat) : Nat :=
  if a.toNat < 24 then ((x.x.getD a.toNat []).getD e 0).toNat else (x.c.getD (a.toNat - 24) 0).toNat

/-- A register's eight elements replaced. -/
def Hut.setX (x : Hut) (d : BitVec 5) (w : List Word) : Hut := { x with x := x.x.set d.toNat w }

/-- A loop index set (R284). -/
def Hut.setIdx (x : Hut) (lv : Bool) (i : Nat) : Hut := if lv then { x with i1 := i } else { x with i0 := i }

/-- The hut goes on after buffer index `q`: loops whose body ends there take their next round or end, innermost first (R284). -/
def Hut.advance (x : Hut) (q : Nat) : List HutLoop → Hut
  | [] => { x with pc := q + 1, loops := [] }
  | l :: rest =>
    if l.last ≠ q then { x with pc := q + 1, loops := l :: rest }
    else if l.idx + 1 < l.count then { x.setIdx l.lv (l.idx + 1) with pc := l.first, loops := { l with idx := l.idx + 1 } :: rest }
    else Hut.advance (x.setIdx l.lv 0) q rest

/-- The instruction is over, having changed its hut only. -/
def HCtx.done (k : HCtx) (x : Hut) : State := k.s.setHut k.no (x.advance x.pc x.loops)

/-- The hut stops at this instruction on a fault, or on poison (R295). -/
def HCtx.stop (k : HCtx) (fault : Option Nat) (poisoned : Bool) : State := k.s.leaveHut k.no k.cmd.id fault poisoned none

/-- A hut instruction: a word that breaks R280, which no accepted program holds, stops the hut as PROGRAM (log 6); otherwise its meaning. -/
def issueHut (i : Instr) (s : State) (h : HCtx → State) : Host.Outcome State Fault Refusal :=
  match s.hctx? with
  | none => .fault .noIssuer
  | some k => .next (if (hutIllegal i).isSome then k.stop (some 0x32) false else h k)

/-- An instruction that writes eight elements to D. -/
def hutOp (i : Instr) (s : State) (d : BitVec 5) (h : Hut → Nat → Nat) : Host.Outcome State Fault Refusal :=
  issueHut i s (fun k => k.done (k.hut.setX d ((List.range 8).map (fun e => BitVec.ofNat 32 (h k.hut e)))))

/-! ### Element operations (R281, R282) -/

/-- The element type of T, in the codes of R116. -/
def hutTy (t : BitVec 2) : Nat := match t.toNat with | 0 => 0 | 1 => 3 | 2 => 4 | _ => 2

/-- Float or integer arithmetic on elements, or halves, of two sources under RNE; integers wrap. -/
def hutArith (t : BitVec 2) (fl : Fmt → FVal → FVal → Nat × FFlags) (it : Int → Int → Int) (a b : Nat) : Nat :=
  let ty := hutTy t
  (perElem ty (fun a b _ =>
    if isFloat ty then fl (fmtOf ty) ((fmtOf ty).unpack a) ((fmtOf ty).unpack b) else (iput ty false (it (ival ty a) (ival ty b)), 0)) a b 0).1

def execHadd (t : BitVec 2) (d a b : BitVec 5) (s : State) : Host.Outcome State Fault Refusal :=
  hutOp (.hadd t d a b) s d (fun x e => hutArith t (fun F a b => F.add .rne a b) (· + ·) (x.src a e) (x.src b e))

def execHsub (t : BitVec 2) (d a b : BitVec 5) (s : State) : Host.Outcome State Fault Refusal :=
  hutOp (.hsub t d a b) s d (fun x e => hutArith t (fun F a b => F.add .rne a b.negate) (· - ·) (x.src a e) (x.src b e))

def execHmul (t : BitVec 2) (d a b : BitVec 5) (s : State) : Host.Outcome State Fault Refusal :=
  hutOp (.hmul t d a b) s d (fun x e => hutArith t (fun F a b => F.mul .rne a b) (· * ·) (x.src a e) (x.src b e))

/-- a × b + c with one rounding, or wrapping. -/
def execHfma (t : BitVec 2) (d a b c : BitVec 5) (s : State) : Host.Outcome State Fault Refusal :=
  hutOp (.hfma t d a b c) s d (fun x e =>
    let ty := hutTy t
    (perElem ty (fun a b c =>
      if isFloat ty then (fmtOf ty).fma .rne ((fmtOf ty).unpack a) ((fmtOf ty).unpack b) ((fmtOf ty).unpack c)
      else (iput ty false (ival ty a * ival ty b + ival ty c), 0)) (x.src a e) (x.src b e) (x.src c e)).1)

def execHmin (t : BitVec 2) (d a b : BitVec 5) (s : State) : Host.Outcome State Fault Refusal :=
  hutOp (.hmin t d a b) s d (fun x e => (perElem (hutTy t) (fun a b _ => pick false (hutTy t) a b) (x.src a e) (x.src b e) 0).1)

def execHmax (t : BitVec 2) (d a b : BitVec 5) (s : State) : Host.Outcome State Fault Refusal :=
  hutOp (.hmax t d a b) s d (fun x e => (perElem (hutTy t) (fun a b _ => pick true (hutTy t) a b) (x.src a e) (x.src b e) 0).1)

/-- Floats: the sign bit cleared; `.i32`: |a|, −2^31 unchanged. -/
def execHabs (t : BitVec 2) (d a : BitVec 5) (s : State) : Host.Outcome State Fault Refusal :=
  hutOp (.habs t d a) s d (fun x e =>
    let ty := hutTy t
    (perElem ty (fun a _ _ => (if isFloat ty then a % 2 ^ (widthOf ty - 1) else wrapNat 32 (ival ty a).natAbs, 0)) (x.src a e) 0 0).1)

def execHand (d a b : BitVec 5) (s : State) : Host.Outcome State Fault Refusal :=
  hutOp (.hand d a b) s d (fun x e => x.src a e &&& x.src b e)

def execHor (d a b : BitVec 5) (s : State) : Host.Outcome State Fault Refusal :=
  hutOp (.hor d a b) s d (fun x e => x.src a e ||| x.src b e)

def execHxor (d a b : BitVec 5) (s : State) : Host.Outcome State Fault Refusal :=
  hutOp (.hxor d a b) s d (fun x e => x.src a e ^^^ x.src b e)

def execHshl (t : BitVec 2) (d a b : BitVec 5) (s : State) : Host.Outcome State Fault Refusal :=
  hutOp (.hshl t d a b) s d (fun x e => x.src a e * 2 ^ (x.src b e % 32) % 2 ^ 32)

/-- Arithmetic for `.i32`, logical for `.z32`. -/
def execHshr (t : BitVec 2) (d a b : BitVec 5) (s : State) : Host.Outcome State Fault Refusal :=
  hutOp (.hshr t d a b) s d (fun x e => wrapNat 32 (ival (hutTy t) (x.src a e) / ((2 ^ (x.src b e % 32) : Nat) : Int)))

/-- A relation of R142 between two elements: a NaN makes every one false but `.ne`. -/
def hutRel (ty cc a b : Nat) : Bool :=
  if isFloat ty then
    let x := (fmtOf ty).unpack a
    let y := (fmtOf ty).unpack b
    let un := x.unordered y
    match cc with
    | 0 => x.eqv y
    | 1 => !x.eqv y
    | 2 => !un && x.lt y
    | 3 => !un && !y.lt x
    | 4 => !un && y.lt x
    | _ => !un && !x.lt y
  else
    let x := ival ty a
    let y := ival ty b
    match cc with
    | 0 => decide (x = y)
    | 1 => decide (x ≠ y)
    | 2 => decide (x < y)
    | 3 => decide (x ≤ y)
    | 4 => decide (y < x)
    | _ => decide (y ≤ x)

/-- All ones where the relation holds. -/
def execHcmp (t : BitVec 2) (d a b : BitVec 5) (cc : BitVec 3) (s : State) : Host.Outcome State Fault Refusal :=
  hutOp (.hcmp t d a b cc) s d (fun x e =>
    let ty := hutTy t
    (perElem ty (fun a b _ => (if hutRel ty cc.toNat a b then 2 ^ widthOf ty - 1 else 0, 0)) (x.src a e) (x.src b e) 0).1)

def execHsel (d a b c : BitVec 5) (s : State) : Host.Outcome State Fault Refusal :=
  hutOp (.hsel d a b c) s d (fun x e => if x.src c e ≠ 0 then x.src a e else x.src b e)

/-- Conversion under RNE, saturating; BF16 in the low half, the high half of a BF16 result 0 (R54). -/
def execHcvt (t : BitVec 2) (d a : BitVec 5) (u : BitVec 2) (s : State) : Host.Outcome State Fault Refusal :=
  hutOp (.hcvt t d a u) s d (fun x e => (convert (hutTy t) (hutTy u) .rne true (cvtSource (hutTy t) (x.src a e))).1)

def execHmov (d a : BitVec 5) (s : State) : Host.Outcome State Fault Refusal :=
  hutOp (.hmov d a) s d (fun x e => x.src a e)

def execHbcast (d a : BitVec 5) (e : BitVec 3) (s : State) : Host.Outcome State Fault Refusal :=
  hutOp (.hbcast d a e) s d (fun x _ => x.src a e.toNat)

/-- Element 0 is the sum taken in order, rounded at each addition; the others are 0. -/
def execHsum (t : BitVec 2) (d a : BitVec 5) (s : State) : Host.Outcome State Fault Refusal :=
  hutOp (.hsum t d a) s d (fun x e =>
    if e = 0 then (List.range 7).foldl (fun acc i => hutArith t (fun F a b => F.add .rne a b) (· + ·) acc (x.src a (i + 1))) (x.src a 0) else 0)

/-- An immediate as an integer, or as its exact FP32 value. -/
def execHseti (t : BitVec 2) (d : BitVec 5) (imm : BitVec 19) (s : State) : Host.Outcome State Fault Refusal :=
  hutOp (.hseti t d imm) s d (fun _ _ => if hutTy t = 0 then (fp32.round .rne (ofInt (sextNat 19 imm.toNat))).1 else wrapNat 32 (sextNat 19 imm.toNat))

/-- A loop index, the hut number or WN. -/
def execHidx (t : BitVec 2) (d : BitVec 5) (sel : BitVec 2) (s : State) : Host.Outcome State Fault Refusal :=
  issueHut (.hidx t d sel) s (fun k =>
    let x := k.hut
    let v := match sel.toNat with | 0 => x.i0 | 1 => x.i1 | 2 => k.no | _ => x.wn
    k.done (x.setX d (List.replicate 8 (BitVec.ofNat 32 v))))

def execHnop (s : State) : Host.Outcome State Fault Refusal := issueHut .hnop s (fun k => k.done k.hut)

/-! ### Loops and the end of a run (R284, R285, R291) -/

/-- The count of a loop. -/
def Hut.loopCount (x : Hut) (cs : Bool) (n : BitVec 12) : Nat :=
  if !cs then n.toNat else if n.toNat < 4 then (x.c.getD n.toNat 0).toNat else x.wn

def execHloop (lv cs : Bool) (n : BitVec 12) (bl : BitVec 7) (s : State) : Host.Outcome State Fault Refusal :=
  issueHut (.hloop lv cs n bl) s (fun k =>
    let x := k.hut
    let q := x.pc
    let last := q + bl.toNat
    let count := x.loopCount cs n
    if count = 0 then k.s.setHut k.no ((x.setIdx lv 0).advance last x.loops)
    else k.s.setHut k.no { x.setIdx lv 0 with pc := q + 1, loops := { lv := lv, first := q + 1, last := last, count := count, idx := 0 } :: x.loops })

/-- The run ends; a REDUCE hut contributes its result register. -/
def execHend (s : State) : Host.Outcome State Fault Refusal :=
  issueHut .hend s (fun k => k.s.leaveHut k.no k.cmd.id none false (if k.cmd.kind = 3 then some (k.hut.x.getD k.cmd.resreg []) else none))

/-! ### Loads and stores (R283, R293, R295) -/

/-- The unit of an access. -/
def HCtx.unit (k : HCtx) (kk : BitVec 5) : Int := (kk.toNat : Int) + (k.hut.i0 : Int) * k.cmd.str0 + (k.hut.i1 : Int) * k.cmd.str1

/-- The access is outside the window, or names a region the command has not. -/
def HCtx.outside (k : HCtx) (kk : BitVec 5) (n : BitVec 2) : Bool :=
  decide (k.unit kk < 0) || decide ((k.hut.wn : Int) ≤ k.unit kk) || decide (k.cmd.nreg ≤ n.toNat)

/-- The physical address of an access. -/
def HCtx.addr (k : HCtx) (kk : BitVec 5) (n : BitVec 2) : Nat :=
  k.cmd.phys (k.cmd.regionPage n.toNat * 4096) + 1024 * k.no + k.hut.wstart + 32 * (k.unit kk).toNat

/-- The leaf value of a region's page. -/
def HCtx.leaf (k : HCtx) (n : BitVec 2) : Option (BitVec 64 × Nat) :=
  (k.cmd.pages.find? (fun p => p.1 == k.cmd.regionPage n.toNat)).map (fun p => (p.2.1, p.2.2))

/-- The source of a hut's request at its home. -/
def hutSrc (hut : Nat) : Nat := 2 ^ 20 + hut

/-- A request for a block waits at the hut's own home until no copy stands in its way. -/
def HCtx.askHome (k : HCtx) (kind : HomeKind) (block : Nat) : State := k.s.askSelf kind (k.no % 16) block (hutSrc k.no) k.cmd.team.vf

/-- The 32 bytes of an `hld` are read; a read that returns an uncorrectable error stops the hut (R295). -/
def HCtx.read (k : HCtx) (d kk : BitVec 5) (n : BitVec 2) : State :=
  let pa := k.addr kk n
  if k.s.badAt pa 32 then k.stop none true
  else
    let k := { k with s := k.s.rouse (pa / 64) }
    k.done ({ k.hut with granted := false }.setX d ((List.range 8).map (fun i => BitVec.ofNat 32 (k.s.mem.nat (pa + 4 * i) 4))))

/-- The leaf whose DT an `hst` sets (R224, R276). -/
def HCtx.dirties (k : HCtx) (n : BitVec 2) : List Nat := ((k.leaf n).map (·.2)).toList.filter (fun a => !pteBit (k.s.mem.nat a 8) 9)

/-- The 32 bytes of an `hst` are written as one unit, the DT bit of its page's leaf first; while that bit's home cannot be reached it waits. -/
def HCtx.write (k : HCtx) (src kk : BitVec 5) (n : BitVec 2) : State :=
  match k.s.leavesWait (stackPort (k.no % 16)) (k.dirties n) with
  | some (_, s) => s
  | none =>
    let pa := k.addr kk n
    let s := ((k.s.setDirty (stackPort (k.no % 16)) (k.dirties n)).rouse (pa / 64)).poke pa ((List.range 8).flatMap (fun e => bytesOfNat 4 (k.hut.src src e)))
    { k with s := s }.done { k.hut with granted := false }

/-- 32 bytes to D: after its command slot, from the home, any dirty copy recalled first. -/
def execHld (d kk : BitVec 5) (n : BitVec 2) (s : State) : Host.Outcome State Fault Refusal :=
  issueHut (.hld d kk n) s (fun k =>
    if k.outside kk n then k.stop (some 0x23) false
    else if !k.hut.granted then k.s
    else
      let b := k.addr kk n / 64
      if k.s.readFree b then k.read d kk n else k.askHome .hutRead b)

/-- 32 bytes from the source, as one unit: after its command slot, at the home, every copy gone first; it sets DT (R224). -/
def execHst (src kk : BitVec 5) (n : BitVec 2) (s : State) : Host.Outcome State Fault Refusal :=
  issueHut (.hst src kk n) s (fun k =>
    let readOnly := match k.leaf n with | some p => decide (n.toNat < k.cmd.nreg) && !pteBit p.1.toNat 2 | none => false
    if readOnly then k.stop (some 0x21) false
    else if k.outside kk n then k.stop (some 0x23) false
    else if !k.hut.granted then k.s
    else
      let b := k.addr kk n / 64
      if k.s.homeClear b && decide (k.s.coh.dirEntry b = DirEntry.reset) then k.write src kk n else k.askHome .hst b)

/-! ### Their requests at the homes (R293, R321, R322) -/

/-- A hut that waits at its home for the block of its next instruction, with that instruction. -/
def State.hutAt (s : State) (r : HomeReq) : Option (HCtx × Instr) :=
  let h := r.src - 2 ^ 20
  let x := s.hut h
  match x.running.bind s.cmd?, decodeHut (x.ib.getD x.pc 0) with
  | some c, some i =>
    let k : HCtx := { s := s, no := h, hut := x, cmd := c }
    if !x.granted || s.past c then none
    else match i with
      | .hld _ kk n => if !k.outside kk n && k.addr kk n / 64 == r.block then some (k, i) else none
      | .hst _ kk n => if !k.outside kk n && k.addr kk n / 64 == r.block then some (k, i) else none
      | _ => none
  | _, _ => none

/-- A request that a home has served for a hut or a summit engine: the read or write is performed, unless the one who asked has been stopped. -/
def State.performSelf (r : HomeReq) (s : State) : State :=
  if 2 ^ 21 ≤ r.src then
    match s.cmd? ((r.src - 2 ^ 21) / 16) with
    | some c =>
      let stack := r.src % 16
      if c.finished || s.past c || s.nextBlock c stack != some r.block || !c.granted.contains stack then s else s.summitRead c stack r.block
    | none => s
  else
    match s.hutAt r with
    | some (k, .hld d kk n) => if r.kind = .hutRead then k.read d kk n else s
    | some (k, .hst src kk n) => if r.kind = .hst then k.write src kk n else s
    | _ => s

/-- An `hst`, or an uncached or no-allocate write: every copy is gone first (R322). -/
def execHomeHst (stack : Nat) (s : State) : Host.Outcome State Fault Refusal :=
  module s (fun s => s.serve stack (fun k => decide (k = .hst) || decide (k = .uncachedWrite)) true false (fun r s =>
    if r.kind = .uncachedWrite then s.performHead r else s.performSelf r))

/-- A hut or summit read: a dirty copy is recalled first (R322). -/
def execHomeHutRead (stack : Nat) (s : State) : Host.Outcome State Fault Refusal :=
  module s (fun s => s.serve stack (fun k => decide (k = .hutRead)) false false State.performSelf)

end Sys2Proof.Machine
end

