-- ==== Sys2Proof/Machine/Matrix.lean ====
section
/-! DEFINITION. The matrix stream: products, tiles, drains and drain-adds, barriers and rings, control, and the energy budget
(R57 to R64, R182 to R212). -/
namespace Sys2Proof.Machine

/-! ### Tensor blocks and granules (R57, R58, R60) -/

/-- A tensor block as read: format code, scale byte and all its bytes. -/
structure Blk where
  fmt : Nat
  sb : Nat
  bytes : List Byte
  deriving DecidableEq, Repr

def Blk.of (bs : List Byte) : Blk := { fmt := (bs.getD 0 0).toNat, sb := (bs.getD 1 0).toNat, bytes := bs }

/-- Elements of a block; 0 for format poison (R57). -/
def Blk.count (b : Blk) : Nat :=
  if b.fmt = 0x10 ∨ b.fmt = 0x32 then 62 else if b.fmt = 0x11 ∨ b.fmt = 0x34 then 124
  else if b.fmt = 0x20 ∨ b.fmt = 0x21 ∨ b.fmt = 0x31 then 31 else 0

/-- The block is on the integer path (R57). -/
def Blk.integer (b : Blk) : Bool := b.fmt == 0x10 || b.fmt == 0x11 || b.fmt == 0x32 || b.fmt == 0x34

/-- A NaN block (R58). -/
def Blk.nan (b : Blk) : Bool := !zeroFmt b.fmt && b.sb == 255

def Blk.byte (b : Blk) (n : Nat) : Nat := (b.bytes.getD n 0).toNat

/-- The bits of element `j` (R57). -/
def Blk.raw (b : Blk) (j : Nat) : Nat :=
  if b.fmt = 0x10 then b.byte (2 + j)
  else if b.fmt = 0x11 then b.byte (2 + j / 2) / 16 ^ (j % 2) % 16
  else b.byte (2 + 2 * j) + 256 * b.byte (3 + 2 * j)

/-- The value of element `j`; every element of a zero block is +0 (R58). -/
def Blk.val (b : Blk) (j : Nat) : FVal := if zeroFmt b.fmt then .fin false 0 0 else elemValue b.fmt (b.raw j) b.sb

/-- The code of element `j` of an integer block; none for NaE (R55). -/
def Blk.code (b : Blk) (j : Nat) : Option Int :=
  if zeroFmt b.fmt then some 0 else codeVal (if b.fmt = 0x10 then 8 else 4) (b.raw j)

/-- What reading one block gives: it is absent, its read fails, or it is read. -/
inductive BlkRead where
  | wait
  | fail (k : PoisonKind)
  | ok (b : Blk)
  deriving DecidableEq, Repr

/-- A granule of one row or column (R60): its blocks, the kind it is broken with, whether some block counts as neither path (R191), and the
block after it. -/
structure Gran where
  blocks : List Blk
  broken : Option PoisonKind
  odd : Bool
  next : Nat
  deriving DecidableEq, Repr

/-- A granule formed from block `m` on, with `n` elements taken already; none while a block is absent (R60, R185). -/
def formGran (read : Nat → BlkRead) : Nat → Nat → Nat → List Blk → Option Gran
  | 0, m, _, bs => some { blocks := bs, broken := none, odd := false, next := m }
  | fuel + 1, m, n, bs =>
    if 124 ≤ n then some { blocks := bs, broken := none, odd := false, next := m }
    else match read m with
      | .wait => none
      | .fail k => some { blocks := bs, broken := some k, odd := true, next := m + 1 }
      | .ok b =>
        if b.count = 0 then some { blocks := bs, broken := some .format, odd := true, next := m + 1 }
        else if 124 < n + b.count then some { blocks := bs ++ [b], broken := some .format, odd := false, next := m + 1 }
        else formGran read fuel (m + 1) (n + b.count) (bs ++ [b])

/-! ### Segments (R60 to R64) -/

/-- Part of a granule between block boundaries: `n` terms from element `ia` of one block and `ib` of the other. -/
structure Segment where
  a : Blk
  ia : Nat
  b : Blk
  ib : Nat
  n : Nat
  deriving DecidableEq, Repr

/-- The segments of two unbroken granules in ascending K; integer segments are divided at 62 terms. -/
def segments : Nat → List Blk → Nat → List Blk → Nat → List Segment
  | 0, _, _, _, _ => []
  | fuel + 1, a :: as', ia, b :: bs, ib =>
    let left := min (a.count - ia) (b.count - ib)
    let n := if a.integer && b.integer then min left 62 else left
    let (as2, ia2) := if ia + n = a.count then (as', 0) else (a :: as', ia + n)
    let (bs2, ib2) := if ib + n = b.count then (bs, 0) else (b :: bs, ib + n)
    { a := a, ia := ia, b := b, ib := ib, n := n } :: segments fuel as2 ia2 bs2 ib2
  | _, _, _, _, _ => []

/-- The residue of a sum of products in one channel (R61). -/
def residue (m : Nat) (terms : List (Int × Int)) : Nat :=
  terms.foldl (fun e t => (e + (t.1 % (m : Int)).toNat * (t.2 % (m : Int)).toNat) % m) 0

/-- The signed sum of the three channels, by the exact CRT of R61. -/
def residueSum (terms : List (Int × Int)) : Int :=
  let x := (residue 127 terms * 1056768 + residue 128 terms * 2080641 + residue 129 terms * 1056640) % 2097024
  if 1048512 ≤ x then (x : Int) - 2097024 else x

/-- Every code of a list, or none where one is NaE. -/
def allCodes : List (Option Int × Option Int) → Option (List (Int × Int))
  | [] => some []
  | (some a, some b) :: rest => (allCodes rest).map ((a, b) :: ·)
  | _ :: _ => none

/-- What a residue-path segment contributes (R61, R64). -/
def Segment.residueVal (g : Segment) : FVal :=
  if g.a.nan || g.b.nan then .nan false
  else match allCodes ((List.range g.n).map (fun k => (g.a.code (g.ia + k), g.b.code (g.ib + k)))) with
    | none => .nan false
    | some terms => (ofInt (residueSum terms)).scale ((g.a.sb : Int) + (g.b.sb : Int) - 254)

/-- What a float-path segment contributes: the exact sum of its products (R62, R64). -/
def Segment.floatVal (g : Segment) : FVal :=
  let terms := (List.range g.n).map (fun k => (mulVal (g.a.val (g.ia + k)) (g.b.val (g.ib + k))).1)
  let pinf := terms.any (fun t => t.isInf && !t.neg?)
  let ninf := terms.any (fun t => t.isInf && t.neg?)
  if terms.any FVal.isNan || (pinf && ninf) then .nan false
  else if pinf then .inf false
  else if ninf then .inf true
  else
    let (x, q) := exactSum terms
    if x = 0 then .fin (terms.all isNegZero) 0 0 else .fin (decide (x < 0)) x.natAbs q

def Segment.val (g : Segment) : FVal := if g.a.integer && g.b.integer then g.residueVal else g.floatVal

/-- A contribution added into an accumulator element, rounded once (R63, R64). -/
def accAdd (acc : VReg) (v : FVal) : VReg := { acc with val := BitVec.ofNat 32 (fp32.fsum .rne [fp32.unpack acc.val.toNat, v]).1 }

/-- A granule of a row and one of a column applied to an element; a broken one poisons it (R60, R63, R185). -/
def applyGran (a b : Gran) (acc : VReg) : VReg :=
  match worst a.broken b.broken with
  | some k => { acc with poison := worst acc.poison (some k) }
  | none => (segments 16 a.blocks 0 b.blocks 0).foldl (fun x g => accAdd x g.val) acc

/-- Cycles a granule takes, by the format codes of all rows and columns (R191). -/
def granCost (gs : List Gran) : Nat :=
  if gs.any (fun g => g.blocks.any (fun b => b.fmt == 0x20 || b.fmt == 0x21 || b.fmt == 0x31)) then 496
  else if gs.all (fun g => !g.odd && g.blocks.all (fun b => b.fmt == 0x11 || b.fmt == 0x34)) then 62
  else 124

/-! ### The array (R182 to R185, R190, R191, R194) -/

def accKey (slot acc : Nat) : Nat := 4 * slot + acc

/-- A tile of 4,096 elements, row by row; +0 where nothing was written (R182). -/
def Team.tile (t : Team) (key : Nat) : List VReg := let l := t.acc.get key []; l ++ List.replicate (4096 - l.length) VReg.zero

def Team.setTile (t : Team) (key : Nat) (l : List VReg) : Team := { t with acc := t.acc.set key l }

/-- Element [i][j] of a tile. -/
def tileAt (l : List VReg) (i j : Nat) : VReg := l.getD (64 * i + j) VReg.zero

/-- An A block at a scratchpad address (R183, R185). -/
def Team.readA (t : Team) (spad addr : Nat) : BlkRead :=
  if spad < addr + 64 then .fail .bounds
  else if !t.present (addr / 128) then .wait
  else if t.badLines.contains (addr / 128) then .fail .uncorrectable
  else .ok (Blk.of (t.spad.bytes addr 64))

/-- A B block at a window offset of a slice (R184, R185). -/
def Team.readB (t : Team) (slot window col off : Nat) : BlkRead :=
  if window < off + 64 then .fail .bounds
  else if (t.badBsram.get slot []).contains (bsramKey col off) then .fail .uncorrectable
  else .ok (Blk.of ((t.bsram.get slot []).bytes (bsramKey col off) 64))

/-- Every element of a list of options. -/
def allSome {α : Type} : List (Option α) → Option (List α)
  | [] => some []
  | some x :: rest => (allSome rest).map (x :: ·)
  | none :: _ => none

/-- A write of an accumulator is ready at a cycle; the accumulator is ready once all its writes are (R192). -/
def Seq.ready (q : Seq) (n cycle : Nat) : Seq := { q with accReady := q.accReady.set n (max cycle (q.accReady.getD n 0)) }

/-- The cycle from which scratchpad lines have all been present: the latest arrival of one of them (R191). -/
def Team.arrivedBy (t : Team) (lines : List Nat) : Nat := lines.foldl (fun m l => max m (t.arrived.get l 0)) 0

/-- The next granule of a product, or the whole of a load, if no line it reads is absent: the team after it and its job,
which ends the cycles it takes after the later of its turn and the arrival of the lines it waited for (R191). -/
def Team.granule (t : Team) (slot spad window : Nat) (j : ArrayJob) : Option (Team × ArrayJob) :=
  let key := accKey slot j.acc
  if j.load then
    let inside := if spad ≤ j.abase then 0 else min 16384 (spad - j.abase)
    if !(linesOf j.abase inside).all t.present then none
    else
      let el (n : Nat) : VReg :=
        let a := j.abase + 4 * n
        if spad < a + 4 then { val := 0, poison := some .bounds }
        else if t.badLines.contains (a / 128) then { val := 0, poison := some .uncorrectable }
        else { val := BitVec.ofNat 32 (t.spad.nat a 4), poison := none }
      some (t.setTile key ((List.range 4096).map el), { j with next := j.next + 1, due := max j.due (t.arrivedBy (linesOf j.abase inside)) + 64 })
  else
    let a := (List.range 64).map (fun i => formGran (fun m => t.readA spad (j.abase + i * j.pitch + 64 * m)) 4 (j.rows.getD i 0) 0 [])
    let b := (List.range 64).map (fun c => formGran (fun m => t.readB slot window c (j.boff + 64 * m)) 4 (j.cols.getD c 0) 0 [])
    match allSome a, allSome b with
    | some ga, some gb =>
      let none' : Gran := { blocks := [], broken := none, odd := true, next := 0 }
      let tile := (t.tile key).mapIdx (fun n x => applyGran (ga.getD (n / 64) none') (gb.getD (n % 64) none') x)
      let lines := (List.range 64).flatMap (fun i =>
        let m := j.rows.getD i 0
        linesOf (j.abase + i * j.pitch + 64 * m) (64 * ((ga.getD i none').next - m)))
      let due := max j.due (t.arrivedBy lines) + granCost (ga ++ gb)
      some (t.setTile key tile, { j with next := j.next + 1, rows := ga.map (·.next), cols := gb.map (·.next), due := due })
    | _, _ => none

/-- The granules whose turn has come by cycle `now`, in order. -/
def Team.granules (t : Team) (slot spad window now : Nat) (j : ArrayJob) : Nat → Team × ArrayJob
  | 0 => (t, j)
  | fuel + 1 =>
    if j.total ≤ j.next ∨ now < j.due then (t, j)
    else match t.granule slot spad window j with
      | none => (t, j)
      | some (t', j') => t'.granules slot spad window now j' fuel

/-- The array of a slot works on: granules start as their time comes, and after the last one the array is free, an `mmac`'s result being
ready 72 cycles later (R191). -/
def Team.arrayRun (t : Team) (kd : KDesc) (slot now : Nat) : Team :=
  match t.seqs.find? (fun q => q.slot == slot) with
  | none => t
  | some q =>
    match q.job with
    | none => t
    | some j =>
      let (t, j) := t.granules slot kd.spad (kd.bsram / 64) now j (j.total - j.next)
      let q := if j.total ≤ j.next ∧ j.due ≤ now then { q with job := none }.ready j.acc (j.due + (if j.load then 0 else 72))
               else { q with job := some j }
      { t with seqs := t.seqs.map (fun x => if x.slot == slot then q else x) }

/-- The quadrant of a slot is not being, and has not been, taken from its context (R213, R372). -/
def State.seqRuns (s : State) (t : Team) (slot : Nat) : Bool :=
  !s.frozen (t.quads.getD slot 0) t.ref.vf

/-- The array of a quadrant reaches its next boundary, and is free after its last (R191). -/
def execArrayFree (quad : Nat) (s : State) : Host.Outcome State Fault Refusal :=
  module s (fun s =>
    match s.seqTeam quad with
    | none => s
    | some (t, q) =>
      match s.kd? t.ref with
      | none => s
      | some k => if s.seqRuns t q.slot then s.setTeam (t.arrayRun k q.slot s.cycle) else s)

/-! ### Operands and waits (R186 to R188, R192) -/

/-- A value operand of a sequencer (R188). -/
def SCtx.value (c : SCtx) (o : Operand) : Nat :=
  match o with
  | .s n => if n = 0 then 0 else (c.seq.s.getD n.toNat 0).toNat
  | .const n => wrapNat 64 (constInt n)
  | .special n => groupSpecial c.s c.team c.quad n.toNat % 2 ^ 64
  | .imm zx => immExt zx c.f.imm
  | _ => 0

/-- The sequencer with an s-register written; s0 stays 0 (R186). -/
def Seq.setS (q : Seq) (n : Nat) (x : Nat) : Seq := if n = 0 then q else { q with s := q.s.set n (BitVec.ofNat 64 x) }

/-- The instruction is over, having changed its sequencer. -/
def SCtx.done (c : SCtx) (q : Seq) : State := c.finish c.s q

/-- A write of an accumulator may take effect: no drain of it is unfinished and no drain-add of it uncaptured, and no product or load writes
it (R192, R195, R198). -/
def SCtx.mayWrite (c : SCtx) (n : Nat) : Bool :=
  (c.seq.drains.all (fun d => d.acc != n || (match d.dest with | .port _ => false | .peer .. => d.tile.isSome))) &&
    (match c.seq.job with | some j => j.acc != n | none => true)

/-- The address of an A or B operand: the low 32 bits with bits [5:0] cleared (R183, R184). -/
def arrayAddr (x : Nat) : Nat := x % 2 ^ 32 / 64 * 64

/-- No effect but the program counter's. -/
def execMnop (f : Fields) (s : State) : Host.Outcome State Fault Refusal := issueS (.mnop f) s (fun c => c.done c.seq)

/-- Every element becomes +0, unpoisoned (R193). -/
def execMzero (f : Fields) (s : State) : Host.Outcome State Fault Refusal :=
  issueS (.mzero f) s (fun c =>
    let n := opNum c.f.d
    if !c.mayWrite n then c.s
    else c.finish (c.s.setTeam (c.team.setTile (accKey c.seq.slot n) [])) (c.seq.ready n c.s.cycle))

/-- A job starts: its granules begin now. -/
def SCtx.startJob (c : SCtx) (s : State) (team : Team) (j : ArrayJob) : State :=
  let s := c.finish (s.setTeam team) { c.seq with job := some j }
  match s.team? c.ref, s.kd? c.ref with
  | some t, some k => s.setTeam (t.arrayRun k c.seq.slot s.cycle)
  | _, _ => s

/-- A product takes effect when the array is free, LEVEL is positive at the latest refill, and the accumulator may be written; it debits the
budget (R190 to R192, R211). -/
def execMmac (f : Fields) (s : State) : Host.Outcome State Fault Refusal :=
  issueS (.mmac f) s (fun c =>
    let n := opNum c.f.d
    let x := c.s.ctx c.ref.vf
    let counted := match c.seq.lvlWait with | some a => c.s.diag c.quad c.ref.vf 7 (· + BitVec.ofNat 64 (c.s.cycle - a)) | none => c.s
    if c.seq.job.isSome || decide (c.s.refilled < c.s.usec) || !c.mayWrite n then c.s
    else if x.level ≤ 0 then c.put counted { c.seq with lvlWait := some c.s.cycle }
    else
      let c := { c with s := counted, seq := { c.seq with lvlWait := none } }
      let granules := c.value c.f.c % 2 ^ 32
      let level : Int := x.level - ((granules * (c.f.mod.toNat / 8 + 1) : Nat) : Int)
      let s := c.s.setCtx c.ref.vf { x with level := max level (-((2 ^ 31 : Nat) : Int)) }
      let team := if c.f.m 0 then c.team.setTile (accKey c.seq.slot n) [] else c.team
      c.startJob s team
        { acc := n, load := false, abase := arrayAddr (c.value c.f.a), boff := arrayAddr (c.value c.f.b), pitch := 64 * c.f.i 15 0, total := granules
          next := 0, rows := List.replicate 64 0, cols := List.replicate 64 0, due := c.s.cycle })

/-- A load of a tile takes the array for 64 cycles and debits nothing (R194). -/
def execMldacc (f : Fields) (s : State) : Host.Outcome State Fault Refusal :=
  issueS (.mldacc f) s (fun c =>
    let n := opNum c.f.d
    if c.seq.job.isSome || !c.mayWrite n then c.s
    else c.startJob c.s c.team
      { acc := n, load := true, abase := arrayAddr (c.value c.f.a), boff := 0, pitch := 0, total := 1, next := 0, rows := [], cols := [], due := c.s.cycle })

/-! ### Drains (R192, R195, R196) -/

/-- A drain or drain-add of an accumulator is in progress. -/
def Seq.draining (q : Seq) (n : Nat) : Bool := q.drains.any (fun d => d.acc == n)

def execMdrain (f : Fields) (s : State) : Host.Outcome State Fault Refusal :=
  issueS (.mdrain f) s (fun c =>
    let n := opNum c.f.a
    if c.seq.draining n then c.s
    else c.done { c.seq with drains := c.seq.drains ++ [{ acc := n, clear := c.f.m 0, dest := .port (c.f.m 1), tile := none, next := 0, pc := c.seq.pc }] })

/-- The chiplet whose range holds a cluster (R85, R86). -/
def Launch.chipletOf (l : Launch) (j : Nat) : Nat :=
  ((List.range 8).find? (fun c => decide (j < sumOf (l.shares.take (c + 1))))).getD 7

/-- A cluster has been placed at some time. -/
def Launch.placed (l : Launch) (j : Nat) : Bool := decide (j < l.nextCl.getD (l.chipletOf j) 0)

/-- FLAGS.VERIFY (R77). -/
def Launch.verify (l : Launch) : Bool := l.pkt.flags % 2 == 1

/-- What a drain-add finds of its target cluster (R197). -/
inductive Target where
  | trap
  | wait
  | go
  deriving DecidableEq, Repr

def State.target (s : State) (r : TeamRef) : Target :=
  match s.launch? r.vf r.launch with
  | none => .trap
  | some l =>
    if l.pkt.gx * l.pkt.gy * l.pkt.gz / (l.kd.cw * l.kd.ch) ≤ r.cluster ∨ l.kd.cw * l.kd.ch ≤ r.cteam then .trap
    else match s.clusterOf r with
      | none => if l.placed r.cluster then .trap else .wait
      | some c => if c.st = .rollback then .wait else .go

/-- The quadrants a team of a kernel takes (R93), with seconds under verified execution (R368). -/
def KDesc.footprint (k : KDesc) (verify : Bool) : Nat :=
  let groups := k.tx * k.ty * k.tz / 32
  let cap := if verify then min 8 (2048 / (2 * k.regs)) else min 16 (2048 / k.regs)
  max 1 (max (ceilDiv groups (if cap = 0 then 1 else cap)) (ceilDiv (k.spad / 4096) 32))

def execMdradd (f : Fields) (s : State) : Host.Outcome State Fault Refusal :=
  issueS (.mdradd f) s (fun c =>
    let b := c.value c.f.b
    let n := opNum c.f.a
    let dst : TeamRef := { vf := c.ref.vf, launch := c.ref.launch, cluster := b % 2 ^ 32, cteam := bitsOf b 39 32 }
    let slot := bitsOf b 41 40
    let k := match c.s.launch? c.ref.vf c.ref.launch with | some l => l.kd.footprint l.verify | none => 0
    if k ≤ slot then c.trap causeDradd
    else match c.s.target dst with
      | .trap => c.trap causeDradd
      | .wait => c.s
      | .go =>
        if c.seq.draining n then c.s
        else
          let s := if dst.cluster = c.ref.cluster then c.s else c.s.escape c.ref
          c.finish s { c.seq with drains := c.seq.drains ++ [{
            acc := n, clear := c.f.m 0, dest := .peer dst slot (c.f.i 1 0) (if c.f.i 8 8 = 1 then some (c.f.i 7 4) else none), tile := none
            next := 0, pc := c.seq.pc }] })

/-- A sequencer of a team changed. -/
def Team.updSeq (t : Team) (slot : Nat) (h : Seq → Seq) : Team := { t with seqs := t.seqs.map (fun q => if q.slot == slot then h q else q) }

/-- A pending drain captures its tile once every earlier write is ready; Z clears it, and a drain-add's tile is on its way (R192, R195, R198). -/
def execDrainCapture (team : TeamRef) (slot acc : Nat) (s : State) : Host.Outcome State Fault Refusal :=
  module s (fun s =>
    match s.team? team with
    | none => s
    | some t =>
      match t.seqs.find? (fun q => q.slot == slot) with
      | none => s
      | some q =>
        match q.drains.find? (fun d => d.acc == acc && d.tile.isNone) with
        | none => s
        | some d =>
          let writing := match q.job with | some j => j.acc == acc | none => false
          if writing || decide (s.cycle < q.accReady.getD acc 0) || !s.seqRuns t slot then s
          else
            let tile := t.tile (accKey slot acc)
            let t := if d.clear then t.setTile (accKey slot acc) [] else t
            let s := s.setTeam (t.updSeq slot (fun q => { q with drains := q.drains.map (fun (x : Drain) => if x.acc == acc then { x with tile := some tile } else x) }))
            match d.dest with
            | .port _ => s.tryRetire team
            | .peer dst dslot dacc bar =>
              let (id, s) := s.fresh
              { s with tiles := s.tiles ++ [{ id := id, src := team, srcSlot := slot, srcAcc := acc, pc := d.pc, dst := dst, slot := dslot, acc := dacc, bar := bar, data := tile, since := s.cycle }] })

/-- Entry `e` of a drained tile (R195). -/
def drainEntryOf (col : Bool) (tile : List VReg) (e : Nat) : List VReg :=
  (List.range 32).map (fun k => if col then tileAt tile (32 * (e % 2) + k) (e / 2) else tileAt tile (e / 2) (32 * (e % 2) + k))

/-- The program counter of a group's SUB threads. -/
def Team.streamPc (t : Team) (g : Group) : Pc :=
  match (t.members g).find? (fun (y : Thread) => decide (y.st = ThreadState.sub)) with
  | some y => y.pc
  | none => 0

/-- An entry enters a port: the earliest parked reader is bound to it, or it is held (R162). -/
def Team.enterPort (t : Team) (key : Nat) (e : List VReg) : Team :=
  let p := t.port key
  match p.readers with
  | g :: rest =>
    let t := match t.byKey g with
      | some x => t.setGroup { x with bound := some { port := key % 4, pc := t.streamPc x, entry := e } }
      | none => t
    { t with ports := t.ports.set key { p with readers := rest } }
  | [] => { t with ports := t.ports.set key { p with entries := p.entries ++ [e] } }

/-- One entry of a drain enters its port while the port has room; after the last the drain is over (R195). -/
def execDrainEntry (team : TeamRef) (slot acc : Nat) (s : State) : Host.Outcome State Fault Refusal :=
  module s (fun s =>
    match s.team? team with
    | none => s
    | some t =>
      match (t.seqs.find? (fun q => q.slot == slot)).bind (fun q => q.drains.find? (fun d => d.acc == acc)) with
      | none => s
      | some d =>
        match d.dest, d.tile with
        | .port col, some tile =>
          if decide (32 ≤ (t.port (portKey slot acc)).entries.length) || !s.seqRuns t slot then s
          else
            let t := t.enterPort (portKey slot acc) (drainEntryOf col tile d.next)
            let on (l : List Drain) : List Drain :=
              if d.next + 1 = 128 then l.filter (fun x => x.acc != acc)
              else l.map (fun (x : Drain) => if x.acc == acc then { x with next := x.next + 1 } else x)
            let t := t.updSeq slot (fun q => { q with drains := on q.drains })
            (s.setTeam t).tryRetire team
        | _, _ => s)

/-! ### Drain-adds at their target (R199, R200, R210, R214) -/

/-- t + v of a tile add (R199). -/
def tileAdd (t v : VReg) : VReg :=
  match worst t.poison v.poison with
  | some k => { t with poison := some k }
  | none => accAdd t (fp32.unpack v.val.toNat)

/-- The flits of a tile: 64 × 64 elements of 4 bytes (R198, R238). -/
def tileFlits : Nat := msgFlits 16384

/-- A delivered tile is added as one unit, between two instructions of the target's stream on that accumulator, and may arrive at a barrier. One that a dark
direction has held for 2^21 cycles is an uncorrectable error its cluster consumes, as for a store (R401; DEDUCED, log 68). -/
def execDraddApply (tile : Nat) (s : State) : Host.Outcome State Fault Refusal :=
  module s (fun s =>
    match s.tiles.find? (fun (x : Tile) => x.id == tile) with
    | none => s
    | some x =>
      match s.team? x.dst, s.team? x.src with
      | some t, some src =>
        let writing := match (t.seqs.find? (fun q => q.slot == x.slot)).bind (·.job) with | some j => j.acc == x.acc | none => false
        if t.retired || writing || !s.seqRuns t x.slot then s
        else if !s.wayUp (src.core / 32) (t.core / 32) then if s.overdue x.since then s.consume x.src else s
        else
          let s := s.flits (src.core / 32) (t.core / 32) tileFlits
          let key := accKey x.slot x.acc
          let t := t.setTile key (((t.tile key).zip x.data).map (fun p => tileAdd p.1 p.2))
          let t := t.updSeq x.slot (fun q => q.ready x.acc (max s.cycle (q.accReady.getD x.acc 0) + 64))
          let t := match x.bar with | some n => t.arrive n | none => t
          let s := { s.setTeam t with tiles := s.tiles.filter (fun (y : Tile) => y.id != tile) }
          let s := if x.dst.cluster = x.src.cluster then s else s.escape x.dst
          let s := s.updTeam x.src (fun t => t.updSeq x.srcSlot (fun q => { q with drains := q.drains.filter (fun d => d.acc != x.srcAcc) }))
          s.tryRetire x.src
      | _, _ => s)

/-- A tile that finds its target team retired is never applied: the sender's sequencer takes DRADD at its next boundary, not precisely (R210). -/
def execDraddLateFailure (tile : Nat) (s : State) : Host.Outcome State Fault Refusal :=
  module s (fun s =>
    match s.tiles.find? (fun (x : Tile) => x.id == tile) with
    | none => s
    | some x =>
      let gone := match s.team? x.dst with
        | some t => t.retired
        | none => (s.clusterOf x.dst).isNone
      match s.team? x.src with
      | none => s
      | some src =>
        match src.seqs.find? (fun q => q.slot == x.srcSlot) with
        | none => s
        | some q =>
          let here := src.core / 32
          let there := match s.launch? x.dst.vf x.dst.launch with | some l => l.chipletOf x.dst.cluster | none => here
          if !gone || q.trap.isSome || !s.seqRuns src x.srcSlot then s
          else if !s.pathUp here there then if s.overdue x.since then s.consume x.src else s
          else
            let s := s.exchange here there tileFlits 1
            let s := s.setTeam (src.updSeq x.srcSlot (fun q => { q with drains := q.drains.filter (fun d => d.acc != x.srcAcc) }))
            { s with tiles := s.tiles.filter (fun (y : Tile) => y.id != tile) }.takeTrap { team := x.src, quad := src.quads.getD x.srcSlot 0, place := 0, seq := true }
              { cause := BitVec.ofNat 8 causeDradd, reason := 0, code := 0, pc := x.pc, repIdx := 0, lanes := 0, addr := 0, resumable := false })

/-! ### Barriers and rings of the stream (R202 to R207) -/

/-- LP[n] of a stream or group set to a phase. -/
def setLp (lp : BitVec 16) (n : Nat) (ph : Bool) : BitVec 16 := if ph then lp ||| BitVec.ofNat 16 (2 ^ n) else lp &&& ~~~(BitVec.ofNat 16 (2 ^ n))

/-- The stage waits until PHASE differs from LP[n]. -/
def execMbarw (f : Fields) (s : State) : Host.Outcome State Fault Refusal :=
  issueS (.mbarw f) s (fun c =>
    let n := c.f.i 3 0
    if c.team.phase n != c.seq.lp.getLsbD n then c.done c.seq else c.s)

/-- LP recorded and one arrival, once operands are read, drains captured and drain-adds applied (R207). -/
def execMbara (f : Fields) (s : State) : Host.Outcome State Fault Refusal :=
  issueS (.mbara f) s (fun c =>
    let n := c.f.i 3 0
    let settled := c.seq.drains.all (fun d => match d.dest with | .port _ => d.tile.isSome | .peer .. => false)
    if c.seq.job.isSome || !settled then c.s
    else c.finish (c.s.setTeam (c.team.arriveBy n c.seq.wrote)) { c.seq with lp := setLp c.seq.lp n (c.team.phase n) })

def execMringw (f : Fields) (s : State) : Host.Outcome State Fault Refusal :=
  issueS (.mringw f) s (fun c =>
    if c.team.ringFull (c.f.i 2 0) (c.value c.f.a) == (c.f.i 3 3 == 1) then c.done c.seq else c.s)

/-- One producer or consumer signal, once operands are read (R207). -/
def execMrings (f : Fields) (s : State) : Host.Outcome State Fault Refusal :=
  issueS (.mrings f) s (fun c =>
    if c.seq.job.isSome then c.s
    else c.finish (c.s.setTeam (c.team.ringSignal (c.f.m 0) (c.f.i 2 0) (c.value c.f.a))) c.seq)

def execMset (f : Fields) (s : State) : Host.Outcome State Fault Refusal :=
  issueS (.mset f) s (fun c => c.done (c.seq.setS (opNum c.f.d) (c.value c.f.a)))

def execMsetBexp (f : Fields) (s : State) : Host.Outcome State Fault Refusal :=
  issueS (.msetBexp f) s (fun c => c.finish (c.s.setTeam (c.team.setExp (c.f.i 3 0) (c.f.i 15 8))) c.seq)

/-- D, NP and NC of a ring, once every stage is empty with no arrival. -/
def execMsetRing (f : Fields) (s : State) : Host.Outcome State Fault Refusal :=
  issueS (.msetRing f) s (fun c =>
    let n := c.f.i 2 0
    match c.team.rings[n]? with
    | none => c.done c.seq
    | some r =>
      if !r.stages.all (fun x => decide (x = (false, 0))) then c.s
      else
        let d := c.f.i 7 4 + 1
        let r' : Ring := { depth := d, np := c.f.i 13 8 + 1, nc := c.f.i 21 16 + 1, stages := List.replicate 16 (false, 0) }
        c.finish (c.s.setTeam { c.team with rings := c.team.rings.set n r' }) c.seq)

/-! ### Stream control (R208 to R210) -/

def execMadd (f : Fields) (s : State) : Host.Outcome State Fault Refusal :=
  issueS (.madd f) s (fun c => c.done (c.seq.setS (opNum c.f.d) (c.value c.f.a + c.value c.f.b)))

/-- A taken branch to the direct target, checked against TGT; a failing check is BRTGT with nothing done (R104, R105, R208). It waits in place while the line of the
target has still to be read. -/
def SCtx.branch (c : SCtx) (q : Seq) : State :=
  match branchTarget c.seq.pc c.f.imm with
  | none => c.trap causeBrtgt
  | some x =>
    match c.s.targetOk c.team.core c.ref.vf x with
    | (none, s) => s
    | (some false, s) => { c with s := s }.trap causeBrtgt
    | (some true, s) => c.finish s { q with pc := BitVec.ofNat 57 x } true

def execMloop (f : Fields) (s : State) : Host.Outcome State Fault Refusal :=
  issueS (.mloop f) s (fun c =>
    let d := (c.value c.f.d + 2 ^ 64 - 1) % 2 ^ 64
    let q := c.seq.setS (opNum c.f.d) d
    if d ≠ 0 then c.branch q else c.done q)

def execMbra (f : Fields) (s : State) : Host.Outcome State Fault Refusal :=
  issueS (.mbra f) s (fun c =>
    let taken : Bool := c.f.mod.toNat % 8 == 6 || relOf (c.f.mod.toNat % 8) (less64 false) (c.value c.f.a) (c.value c.f.b)
    if taken then c.branch c.seq else c.done c.seq)

/-- The fetch of the stream stops; what was issued completes. -/
def execMexit (f : Fields) (s : State) : Host.Outcome State Fault Refusal :=
  issueS (.mexit f) s (fun c => (c.put c.s { c.seq with exited := true, rep := none, pfx := none }).tryRetire c.ref)

def execMseed (f : Fields) (s : State) : Host.Outcome State Fault Refusal :=
  issueS (.mseed f) s (fun c =>
    let team := c.team.writeKey (BitVec.ofNat 64 (c.value c.f.a))
    c.finish (c.s.setTeam team) { c.seq with wrote := team.keyLog.length })

end Sys2Proof.Machine
end

