-- ==== Sys2Proof/Machine/System.lean ====
section
/-! DEFINITION. Fences, the group's side of barriers and rings, special registers, traps, code and diagnostics (R313, R341 to R354). -/
namespace Sys2Proof.Machine

/-! ### Ordering (R313, R341 to R343) -/

/-- Every earlier store of the group is visible at team scope, and every earlier load and atomic performed. -/
def GCtx.settled (g : GCtx) : Bool :=
  g.grp.storeQ.isEmpty && (g.team.opsOf g.grp).all (fun p => p.known && p.late.isEmpty)

/-- Loads are performed in order and stores leave their queue in order, so that order alone needs no wait; FULL waits, holding the slot, until
the queue is empty. -/
def execFence (f : Fields) (s : State) : Host.Outcome State Fault Refusal :=
  issueG (.fence f) s (fun g =>
    if g.f.m5 && !g.grp.storeQ.isEmpty then g.s
    else g.finish (if g.f.m 4 then g.escaping g.s else g.s))

/-- The group after it has passed a phase of a barrier (R173). -/
def GCtx.pass (g : GCtx) (n : Nat) (r : Group) : Group :=
  match g.team.barriers[n]? with
  | some b => r.passed b
  | none => r

/-- LP recorded and one arrival; with `.sync` the group then waits as `nbwait` does. -/
def execNbarr (f : Fields) (s : State) : Host.Outcome State Fault Refusal :=
  issueG (.nbarr f) s (fun g =>
    let n := g.f.i 3 0
    if !g.settled then g.s
    else g.agreed (fun g =>
      let ph := g.team.phase n
      let team := (g.team.setGroup { g.grp with lp := setLp g.grp.lp n ph }).arriveBy n g.grp.wrote
      let s := g.s.setTeam team
      if g.f.m5 then
        if team.phase n != ph then g.finish (g.updGroup s (GCtx.pass { g with team := team } n))
        else g.finish (s.park g.ref g.quad g.grp.place (.barrier n))
      else g.finish s))

/-- The group waits until the phase differs from LP. -/
def execNbwait (f : Fields) (s : State) : Host.Outcome State Fault Refusal :=
  issueG (.nbwait f) s (fun g =>
    let n := g.f.i 3 0
    if g.team.phase n != g.grp.lp.getLsbD n then g.done id (g.pass n) else g.park (.barrier n))

/-- The group waits until the stage is full, or empty. -/
def execRingw (f : Fields) (s : State) : Host.Outcome State Fault Refusal :=
  issueG (.ringw f) s (fun g =>
    let x := g.once g.f.a
    match x.2 with
    | some k => g.consumeTrap k g.lanes
    | none =>
      let full := g.f.i 3 3 == 1
      if g.team.ringFull (g.f.i 2 0) x.1 == full then g.done id else g.park (.ringStage (g.f.i 2 0) x.1 full))

/-- One producer or consumer signal, after the group's accesses. -/
def execRings (f : Fields) (s : State) : Host.Outcome State Fault Refusal :=
  issueG (.rings f) s (fun g =>
    let x := g.once g.f.a
    match x.2 with
    | some k => g.consumeTrap k g.lanes
    | none =>
      if !g.settled then g.s
      else g.agreed (fun g => g.finish (g.s.updTeam g.ref (fun t => t.ringSignal g.f.m5 (g.f.i 2 0) x.1))))

/-- The group waits on a barrier object; with `.arr` it arrives first, once (R344). -/
def execBarwait (f : Fields) (s : State) : Host.Outcome State Fault Refusal :=
  issueG (.barwait f) s (fun g =>
    let a := g.once g.f.a
    let b := g.once g.f.b
    match worst a.2 b.2 with
    | some k => g.consumeTrap k g.lanes
    | none =>
      let spad := match g.s.kd? g.ref with | some k => k.spad | none => 0
      if a.1 % 16 ≠ 0 ∨ spad < a.1 + 16 then g.consumeTrap .bounds g.lanes
      else if !g.team.present (a.1 / 128) then g.park (.absent g.ref.cteam [a.1 / 128])
      else
        let ph := b.1 % 2 == 1
        if g.f.m5 then
          g.agreed (fun g =>
            let team := g.team.barUpdate a.1 BarObj.arrive
            let s := g.s.setTeam team
            g.finish (if (team.barObj a.1).phase != ph then s else s.park g.ref g.quad g.grp.place (.barObject a.1 ph)))
        else if (g.team.barObj a.1).phase != ph then g.done id
        else g.park (.barObject a.1 ph))

/-! ### Special registers (R346, R347) -/

/-- A copy of a special register, once every earlier instruction of the group has completed. -/
def execSread (f : Fields) (s : State) : Host.Outcome State Fault Refusal :=
  issueG (.sread f) s (fun g =>
    match (g.team.opsOf g.grp).map (·.id) with
    | [] =>
      let n := opNum g.f.a
      match g.f.d with
      | .s d => g.done id (fun x => x.setS d.toNat { val := BitVec.ofNat 64 (g.specialOnce n), poison := none })
      | .v d => g.done (fun t => t.writeV g.f.m5 d.toNat (g.special t n) none)
      | _ => g.s
    | ops => g.waitPending ops)

/-- A write of `fstat` in each thread, of the team's `cairnkey`, or of `ringerr` by ones that clear. -/
def execSwrite (f : Fields) (s : State) : Host.Outcome State Fault Refusal :=
  issueG (.swrite f) s (fun g =>
    match worstLanes (g.lanes.map (fun t => (t, (g.raw t false g.f.a).2))) with
    | some (k, lanes) => g.consumeTrap k lanes
    | none =>
      let x := BitVec.ofNat 64 (g.once g.f.a).1
      match opNum g.f.d with
      | 16 => g.done (fun t => t.writeFstat (BitVec.ofNat 32 (g.raw t false g.f.a).1))
      | 17 =>
        let team := g.team.writeKey x
        g.finish (g.s.setTeam (team.setGroup (g.grp.wroteKey team.keyLog.length)))
      | _ => g.finish (g.s.setTeam { g.team with ringerr := g.team.ringerr &&& ~~~(BitVec.ofNat 8 x.toNat) }))

/-! ### Traps, code and breakpoints (R348 to R352, R360) -/

/-- The software trap: the group is TRAPPED with its program counters at the next instruction. -/
def execTrap (f : Fields) (s : State) : Host.Outcome State Fault Refusal :=
  issueG (.trap f) s (fun g =>
    if !g.s.quiet g.site then g.s
    else
    let next := nextSeq g.pc
    let s := (g.counted g.s).setTeam (g.mapLanes (fun t => { t with pc := next }))
    s.takeTrap g.site { g.trapInfo causeSoft g.lanes 0 0 (g.f.i 15 0) with pc := next, repIdx := 0 })

/-- The group's loop buffers empty, and its threads in LB wait for the broadcast stream. -/
def execIsync (f : Fields) (s : State) : Host.Outcome State Fault Refusal :=
  issueG (.isync f) s (fun g =>
    let mine (t : Thread) : Bool := (g.team.members g.grp).any (fun x => x.block == t.block && x.lane == t.lane)
    (g.finish g.s).updTeam g.ref (fun t => { t with threads := t.threads.map (fun x =>
      if mine x then { x with lbuf := [], st := if x.st = .lb then .wait else x.st } else x) }))

/-- The group parks until the covered caches have dropped the lines of its context. -/
def execIcinv (f : Fields) (s : State) : Host.Outcome State Fault Refusal :=
  issueG (.icinv f) s (fun g =>
    let a := g.once g.f.a
    let b := g.once g.f.b
    match worst a.2 b.2 with
    | some k => g.consumeTrap k g.lanes
    | none => g.finish (g.s.park g.ref g.quad g.grp.place (.icinv g.scopeCores (if g.f.i 0 0 = 1 then none else some (a.1, b.1)))))

/-- An instruction-cache line of a context overlaps a range of virtual bytes. -/
def overlaps (line : Nat) : Option (Nat × Nat) → Bool
  | none => true
  | some (a, n) => decide (0 < n) && decide (a < 64 * line + 64) && decide (64 * line < a + n)

/-- The caches that an `icinv` covers have dropped its lines, and its group is ready. -/
def execIcacheLinesDropped (quad place : Nat) (s : State) : Host.Outcome State Fault Refusal :=
  module s (fun s =>
    match (s.groupsOn quad).find? (fun x => x.2.place == place) with
    | none => s
    | some (t, g) =>
      match g.parked with
      | some (.icinv cores lines) =>
        let covered (core : Nat) : Bool := match cores with | some l => l.contains core | none => true
        let s := { s with icache := s.icache.map (fun (e : Nat × List ILine) =>
          if covered e.1 then (e.1, e.2.filter (fun l => !(l.ctx == t.ref.vf && overlaps l.line lines))) else e) }
        let g := { g with parked := none }
        let t := t.setGroup g
        let s := s.setTeam t
        if t.ready g then s.updQuad quad (fun x => { x with queue := x.queue ++ [(t.ref, place)] }) else s
      | _ => s)

/-- No effect while BRKEN is 0; otherwise the run ends and the group is halted after the instruction. -/
def execBrk (f : Fields) (s : State) : Host.Outcome State Fault Refusal :=
  issueG (.brk f) s (fun g =>
    if !(g.s.ctx g.ref.vf).brken then g.done id
    else { g with f := { g.f with er := true } }.done id (fun x => { x with brk := some (BitVec.ofNat 16 (g.f.i 15 0)) }))

/-! ### Diagnostics and injection (R353, R354) -/

/-- The quadrant that keeps a counter: the group's own, or the first of its core for the counters of the core. -/
def GCtx.diagAt (g : GCtx) (n : Nat) : Nat := if n = 4 ∨ n = 5 then 4 * g.team.core else g.quad

def execDiagrd (f : Fields) (s : State) : Host.Outcome State Fault Refusal :=
  issueG (.diagrd f) s (fun g =>
    if !(g.s.ctx g.ref.vf).diagen then g.trapAll causePriv
    else
      let n := g.f.i 31 0
      let x := ((g.s.quad (g.diagAt n)).diag.get g.ref.vf []).getD n 0
      g.done id (fun r => r.setS (opNum g.f.d) { val := x, poison := none }))

def execDiagwr (f : Fields) (s : State) : Host.Outcome State Fault Refusal :=
  issueG (.diagwr f) s (fun g =>
    if !(g.s.ctx g.ref.vf).diagen then g.trapAll causePriv
    else
      let x := g.once g.f.a
      match x.2 with
      | some k => g.consumeTrap k g.lanes
      | none => g.finish (g.s.diag (g.diagAt (g.f.i 31 0)) g.ref.vf (g.f.i 31 0) (fun _ => BitVec.ofNat 64 x.1)))

/-- The kind of an injection (R354). -/
def injectKind (n : Nat) : PoisonKind :=
  match n with | 0 => .uncorrectable | 1 => .protection | 2 => .pageFault | 3 => .bounds | _ => .format

def execErrinj (f : Fields) (s : State) : Host.Outcome State Fault Refusal :=
  issueG (.errinj f) s (fun g =>
    if !(g.s.ctx g.ref.vf).injen then g.trapAll causePriv
    else
      let x := g.once g.f.a
      match x.2 with
      | some k => g.consumeTrap k g.lanes
      | none => g.done id (fun r => { r with armed := if x.1 < 32 then some (injectKind (g.f.i 2 0), x.1) else none }))

end Sys2Proof.Machine
end

