-- ==== Sys2Proof/Machine/Interruption.lean ====
section
/-! DEFINITION. Halt-in-place pre-emption, run states, actions on held traps and on `brk`, verified execution's time limit, translation
invalidation and dirty harvest (R226, R227, R351, R352, R362, R370 to R381). -/
namespace Sys2Proof.Machine

/-! ### Quadrants of a VF (R89, R395) -/

/-- The quadrants of a VF's own partitions. -/
def State.ownQuads (s : State) (v : Nat) : List Nat := (s.vf v).parts.flatMap (fun p => s.parts.get p [])

/-- The quadrants another VF lends to it. -/
def State.borrowed (s : State) (v : Nat) : List Nat := (s.quads.filter (fun (e : Nat × Quad) => e.2.lentTo == some v)).map (·.1)

/-- The quadrants a VF may use now, in ascending order: its own that are not lent away, and those lent to it (R94, R395). -/
def State.usableQuads (s : State) (v : Nat) : List Nat :=
  sortBy (fun a b => decide (a < b)) ((s.ownQuads v).filter (fun q => (s.quad q).lentTo.isNone) ++ s.borrowed v)

/-- The resident teams of a VF that have a slot on a quadrant. -/
def State.teamsOn (s : State) (q v : Nat) : List Team :=
  s.clusters.flatMap (fun c => c.teams.filter (fun t => t.quads.contains q && t.ref.vf == v))

/-- The quadrants on which a VF has a team. -/
def State.heldQuads (s : State) (v : Nat) : List Nat :=
  distinct (s.clusters.flatMap (fun c => c.teams.flatMap (fun t => if t.ref.vf == v then t.quads else [])))

/-! ### Halting and restoring (R371 to R375) -/

/-- A context begins to halt on a quadrant where it has a team (R371); one that is being restored there, with nothing running yet, is HALTED again. -/
def State.halt (s : State) (v q : Nat) : State :=
  match ((s.quad q).out).find? (fun (e : Nat × Outgoing) => e.1 == v) with
  | some (_, o) => if o.st = .restoring then s.updQuad q (fun x => { x with out := x.out.set v { o with st := .halted } }) else s
  | none =>
    if (s.teamsOn q v).isEmpty then s
    else s.updQuad q (fun x => { x with out := x.out.set v { st := .halting, rows := [], banks := [], acc := false, bsramGone := false } })

/-- A quadrant is available to a context: it may use the quadrant and no PREEMPT or PAUSED holds it (R372). -/
def State.available (s : State) (v q : Nat) : Bool :=
  (s.usableQuads v).contains q && !(s.vf v).preempted && decide ((s.vf v).runstate ≠ .paused)

/-- A halted context whose quadrant is available begins to be restored (R372). -/
def State.restart (s : State) (v q : Nat) : State :=
  match ((s.quad q).out).find? (fun (e : Nat × Outgoing) => e.1 == v) with
  | some (_, o) =>
    if o.st = .halted && s.available v q then s.updQuad q (fun x => { x with out := x.out.set v { o with st := .restoring } }) else s
  | none => s

/-- Every quadrant a context is halted on begins to be restored where it is available. -/
def State.restartAll (s : State) (v : Nat) : State := (s.heldQuads v).foldl (fun (s : State) q => s.restart v q) s

/-- Writing PREEMPT (R371, R378). -/
def State.preempt (s : State) (v : Nat) : State :=
  let s := s.updVf v (fun f => { f with preempted := true })
  (s.heldQuads v).foldl (fun (s : State) q => s.halt v q) s

def execPreempt (vf : Nat) (s : State) : Host.Outcome State Fault Refusal := module s (fun s => s.preempt vf)

/-- A group of the VF is halted by PREEMPT: no cluster of the VF is placed meanwhile (R371). -/
def State.preemptHolds (s : State) (v : Nat) : Bool := (s.vf v).preempted && (s.heldQuads v).any (fun q => s.frozen q v)

/-- A slot of a team on a quadrant has come to rest: no run of its groups, no store on its way, no granule in progress (R371, R213). -/
def State.slotHalted (s : State) (q : Nat) (t : Team) : Bool :=
  let slot := t.slotOf q
  (match (s.quad q).holder with | some (r, _) => r != t.ref | none => true) &&
    t.groups.all (fun g => g.slot != slot || g.storeQ.isEmpty) &&
    t.seqs.all (fun x => x.slot != slot || (match x.job with | some j => decide (j.due ≤ s.cycle) | none => true))

/-- A team with its context halted on each of its quadrants: its 256-cycle clocks stop (R131). -/
def State.teamHalted (s : State) (t : Team) : Bool :=
  t.quads.all (fun q => match ((s.quad q).out).find? (fun (e : Nat × Outgoing) => e.1 == t.ref.vf) with
    | some (_, o) => decide (o.st ≠ .halting)
    | none => false)

/-- Loop buffers of a slot's threads are empty when they resume (R135, R375). -/
def Team.dropLoops (t : Team) (slot : Nat) : Team :=
  { t with threads := t.threads.map (fun x => if t.groups.any (fun g => g.slot == slot && g.owns x) then { x with lbuf := [] } else x) }

/-- Parts of a halted context claimed by another one are spilt: register blocks, banks, and its B-SRAM share, which is discarded while the
slot's log holds every `astage` accepted for it (R373). -/
def State.spill (s : State) (v q : Nat) (rows : List (TeamRef × Nat)) (banks : List (TeamRef × Nat)) (share : Bool) : State :=
  match ((s.quad q).out).find? (fun (e : Nat × Outgoing) => e.1 == v) with
  | none => s
  | some (_, o) =>
    let gone := (s.teamsOn q v).any (fun t => t.hasMatrix && decide (t.staged.get (t.slotOf q) 0 ≤ 64))
    let add (l m : List (TeamRef × Nat)) := l ++ m.filter (fun x => !l.contains x)
    let o' : Outgoing := { o with rows := add o.rows rows, banks := add o.banks banks, bsramGone := o.bsramGone || (share && gone) }
    s.updQuad q (fun x => { x with out := x.out.set v o' })

/-- The register blocks and banks a context has on a quadrant. -/
def State.rowsOf (s : State) (v q : Nat) : List (TeamRef × Nat) :=
  (s.teamsOn q v).flatMap (fun t => (distinct ((t.threads.filter (fun x => t.slotOfBlock x.block == t.slotOf q)).map (·.block))).map (fun b => (t.ref, b)))
def State.banksOf (s : State) (v q : Nat) : List (TeamRef × Nat) :=
  (s.teamsOn q v).flatMap (fun t => (t.banks.getD (t.slotOf q) []).map (fun b => (t.ref, b)))

/-- The core bank of a quadrant in which a team keeps its bank `j`: the (j div k)-th that slot j mod k took (R98). -/
def Team.coreBank (t : Team) (j : Nat) : Nat := (t.banks.getD (j % t.quads.length) []).getD (j / t.quads.length) 0

/-- A command writes a bank of a team: one of its lines lies there. -/
def State.writesBank (s : State) (k : Cmd) (r : TeamRef) (bank : Nat) : Bool :=
  k.accepted && k.team.vf == r.vf && k.team.launch == r.launch && k.team.cluster == r.cluster &&
    (match s.team? r, s.kd? r with
    | some t, some kd => k.lines.any (fun y => y.1 * 128 / 2 ^ 20 == r.cteam && t.coreBank (spadPlace (kd.spad / 4096) (y.1 * 128 % 2 ^ 20)).1 == bank)
    | _, _ => false)

/-- Blocks and banks can be spilt now: no load of a block is on its way, and no accepted command that writes a bank is unfinished (R373). -/
def State.spillable (s : State) (rows banks : List (TeamRef × Nat)) : Bool :=
  rows.all (fun x => match s.team? x.1 with
    | some t => t.pend.all (fun op => op.vals.all (fun y => match y with | .v b _ _ _ => b != x.2 | _ => true))
    | none => true) &&
    banks.all (fun x => s.cmds.all (fun (k : Cmd) => !s.writesBank k x.1 x.2))

/-- Every part of a context on a quadrant is spilt, once that can be done (R396). -/
def State.spillAll (s : State) (v q : Nat) : State :=
  let rows := s.rowsOf v q
  let banks := s.banksOf v q
  if s.spillable rows banks then s.spill v q rows banks true else s

/-- Every part of a context on a quadrant is spilt. -/
def State.allSpilt (s : State) (v q : Nat) : Bool :=
  match ((s.quad q).out).find? (fun (e : Nat × Outgoing) => e.1 == v) with
  | some (_, o) => decide (o.st = .halted) && (s.rowsOf v q).all o.rows.contains && (s.banksOf v q).all o.banks.contains
  | none => true


/-- A context is HALTED on a quadrant: accumulators and drain-port entries are spilt (R372, R373), a fused cluster's caches separated (R99). -/
def State.halted (s : State) (v q : Nat) (o : Outgoing) : State :=
  let s := s.updQuad q (fun x => { x with out := x.out.set v { o with st := .halted, acc := true } })
  let s := (s.teamsOn q v).foldl (fun (s : State) t =>
    let t := t.dropLoops (t.slotOf q)
    s.setTeam { t with haltedAt := if s.teamHalted t then some (t.haltedAt.getD s.cycle) else t.haltedAt }) s
  let s := (s.teamsOn q v).foldl (fun (s : State) t => match s.clusterOf t.ref with | some c => s.unfuse c | none => s) s
  s.restart v q

/-- What has come to rest on a quadrant is HALTED, and a borrower's parts are spilt where the quadrant has been reclaimed (R372, R396). -/
def execHaltComplete (quad : Nat) (s : State) : Host.Outcome State Fault Refusal :=
  module s (fun s => (s.quad quad).out.foldl (fun (s : State) (e : Nat × Outgoing) =>
    if e.2.st = .halting && (s.teamsOn quad e.1).all (s.slotHalted quad) then s.halted e.1 quad e.2
    else if e.2.st = .halted && !(s.usableQuads e.1).contains quad then s.spillAll e.1 quad
    else s) s)

/-- Writing RESUMEGO (R378). -/
def State.resumeGo (s : State) (v : Nat) : State := (s.updVf v (fun f => { f with preempted := false })).restartAll v

def execResumego (vf : Nat) (s : State) : Host.Outcome State Fault Refusal := module s (fun s => s.resumeGo vf)

/-- A command with nothing in it. -/
def Cmd.blank (core : Nat) (team : TeamRef) (op : Nat) : Cmd :=
  { id := 0, core := core, team := team, place := 0, slot := 0, hreg := none, op := op, a := 0, b := 0, c := 0, brec := BReg.null, mod := 0, imm := 0,
    acq := false, rel := false, scope := 0, after := [], accepted := false, acceptedAt := 0, shape := 0, pages := [], total := 0, next := 0, counted := 0,
    subbed := 0, stores := 0, signal := none, scanAt := [], granted := [], bar := none, lines := [], fault := none, idxFault := false, reject := none, cancel := false, sent := false, arrived := [], left := [],
    hutFault := none, busy := false, reported := [], pmask := 0, mmask := 0, partials := [], lists := [], scanned := [], result := none, finished := false,
    unverified := false, idxs := none, asked := none, prog := [], held := [], away := false, grid := none }

/-- The lines of global memory that a slot's staging log reads again. -/
def Team.replayLines (t : Team) (slot : Nat) : List Nat :=
  distinct ((t.stageLog.filter (fun r => r.slots.contains slot)).flatMap (fun r =>
    let c := { Cmd.blank t.core t.ref 4 with shape := r.shape, b := BitVec.ofNat 64 r.woff, c := BitVec.ofNat 64 r.col0, imm := BitVec.ofNat 32 (2 ^ slot) }
    ((List.range c.bytes).filterMap c.byteAt).filterMap (fun x => match x.1 with | .place (.glob a) => some (a / 128) | _ => none)))

/-- The replay of a slot's log reaches every line it reads, coherently with stores of any party, or waits for a walk or a home (R225, R322, R373). -/
def State.replayReach (s : State) (t : Team) (slot : Nat) : Reach :=
  let lines := t.replayLines slot
  match lines.filter (fun x => s.globalStuck t.core t.ref.vf (x * 128) .load) with
  | [] =>
    let (m, s) := s.mapLines t.core t.ref.vf .load lines
    s.reach (t.core / 32) t.ref.vf (distinct (m.flatMap (fun x => match x.2 with
      | .ok l => if l.space = .phys then [l.pa / 64, l.pa / 64 + 1] else []
      | .error _ => []))) []
  | stuck => .waits false (s.waitWalks t.core t.ref.vf (stuck.map (· * 128)))

/-- One logged staging command read again into a slot's B-SRAM; a byte that can no longer be read is a free value (R373, log 17). -/
def State.replay (s : State) (t : Team) (slot : Nat) (r : StageRec) : State :=
  let c := { Cmd.blank t.core t.ref 4 with shape := r.shape, b := BitVec.ofNat 64 r.woff, c := BitVec.ofNat 64 r.col0, imm := BitVec.ofNat 32 (2 ^ slot) }
  let plan := (List.range c.bytes).filterMap c.byteAt
  let vas := plan.filterMap (fun x => match x.1 with | .place (.glob a) => some a | _ => none)
  let (m, s) := s.mapLines t.core t.ref.vf .load (distinct (vas.map (· / 128)))
  let byteOf (x : Source) : Byte := match x with
    | .place (.glob va) => match globByte m c.rec'.tb va with
      | .ok (.phys, a, _) => if s.badAt a 1 then Config.freeByte (s.tick * 2 ^ 64 + va) else s.mem.read a
      | _ => Config.freeByte (s.tick * 2 ^ 64 + va)
    | _ => 0
  let cells := plan.filterMap (fun x => match x.2 with | .bsram _ col off => some (bsramKey col off, byteOf x.1) | _ => none)
  { s with tick := s.tick + 1 }.updTeam t.ref (fun t => { t with bsram := t.bsram.set slot ((t.bsram.get slot []).writeCells cells) })

/-- A discarded B-SRAM share rebuilt from the slot's staging log (R373). -/
def State.rebuildShare (s : State) (t : Team) (slot : Nat) : State :=
  let s := s.updTeam t.ref (fun t => { t with bsram := t.bsram.set slot [], badBsram := t.badBsram.set slot [] })
  (t.stageLog.filter (fun r => r.slots.contains slot)).foldl (fun (s : State) r => s.replay t slot r) s

/-- The 256-cycle clocks of a team run on from where they stopped (R131). -/
def Team.shiftClocks (t : Team) (by' : Nat) : Team :=
  { t with stack := t.stack.map (fun (e : CEntry) => { e with bins := e.bins.map (fun b => { b with at_ := b.at_ + by' }) })
           reorder := t.reorder.map (fun (e : Nat × List ReorderItem) => (e.1, e.2.map (fun x => { x with at_ := x.at_ + by' })))
           pool := t.pool.map (fun x => { x with at_ := x.at_ + by' })
           spawned := t.spawned.map (fun x => { x with at_ := x.at_ + by' })
           haltedAt := none }

/-- A context's parts are in place again on a quadrant, and its groups and sequencers run on (R372, R375). -/
def State.restored (s : State) (v q : Nat) (o : Outgoing) : State :=
  let s := (s.teamsOn q v).foldl (fun (s : State) t =>
    let s := if o.bsramGone && t.hasMatrix then s.rebuildShare t (t.slotOf q) else s
    let s := s.updTeam t.ref (fun t => { t with seqs := t.seqs.map (fun x =>
      if x.slot == t.slotOf q then { x with job := x.job.map (fun j => { j with due := max j.due s.cycle }) } else x) })
    s.updTeam t.ref (fun t => match t.haltedAt with | some h => t.shiftClocks (s.cycle - h) | none => t)) s
  let s := s.updQuad q (fun x => { x with out := x.out.del v })
  if s.available v q then s else s.halt v q

/-- No other context's running team stands on the quadrant where parts of this one are spilt. -/
def State.roomBack (s : State) (v q : Nat) (o : Outgoing) : Bool :=
  (o.rows.isEmpty && o.banks.isEmpty && !o.bsramGone) ||
    s.clusters.all (fun c => c.teams.all (fun t => t.ref.vf == v || !t.quads.contains q || s.frozen q t.ref.vf))

def execRestoreComplete (quad : Nat) (s : State) : Host.Outcome State Fault Refusal :=
  module s (fun s => (s.quad quad).out.foldl (fun (s : State) (e : Nat × Outgoing) =>
    if e.2.st = .restoring && s.roomBack e.1 quad e.2 then
      let share := if e.2.bsramGone then (s.teamsOn quad e.1).filter (·.hasMatrix) else []
      match share.foldl (fun (r : Reach) t => match r with | .go s => s.replayReach t (t.slotOf quad) | r => r) (.go s) with
      | .go s => s.restored e.1 quad e.2
      | .waits _ s => s
    else s) s)

/-! ### Run states and messages (R377, R378) -/

/-- Writing RUNNING: every pending message is sent, subject to the generation check, and a pause ends. -/
def State.run (s : State) (v : Nat) : State :=
  let f := s.vf v
  let pend := f.msixPend
  let s := s.setVf v { f with runstate := .running, msixPend := [] }
  (pend.foldl (fun (s : State) p => s.sendPending v p) s).restartAll v

def execRunstateRunning (vf : Nat) (s : State) : Host.Outcome State Fault Refusal := module s (fun s => s.run vf)

def execRunstateDesched (vf : Nat) (s : State) : Host.Outcome State Fault Refusal :=
  module s (fun s => s.updVf vf (fun f => { f with runstate := .desched }))

/-- Writing PAUSED, ignored while the VF holds an accepted launch; the VF halts (R371). -/
def State.pause (s : State) (v : Nat) : State :=
  if s.launches.any (fun (l : Launch) => l.vf == v) then s
  else
    let s := s.updVf v (fun f => { f with runstate := .paused })
    (s.heldQuads v).foldl (fun (s : State) q => s.halt v q) s

def execRunstatePaused (vf : Nat) (s : State) : Host.Outcome State Fault Refusal := module s (fun s => s.pause vf)

/-- Writing KICK with RUNNING: the event ring's message once. -/
def State.kick (s : State) (v : Nat) : State :=
  let s := s.run v
  s.message v (s.vf v).nwq (s.vf v).gen

def execKick (vf : Nat) (s : State) : Host.Outcome State Fault Refusal := module s (fun s => s.kick vf)

/-! ### Acting on a trap or a `brk` (R352, R362) -/

/-- An action on a valid trap record: under END it only clears VALID and PENDING, under HOLD it is taken (R362). -/
def State.act (s : State) (v : Nat) (go : TrapRec → State → State) : State :=
  let x := s.ctx v
  if !x.trap.valid then s
  else if !x.trap.hold then s.setCtx v { x with trap := { x.trap with valid := false, pending := 0 } }
  else go x.trap s

/-- RESUME: ignored where the cause may not be resumed. -/
def State.trapResume (s : State) (v : Nat) : State :=
  s.act v (fun t s => match t.resumable, t.site with
    | true, some w => (s.resumeIssuer w).nextTrap v
    | true, none => s.nextTrap v
    | false, _ => s)

/-- The team a record names; once that team has been killed, its cluster as the record's own fields name it. -/
def TrapRec.named (t : TrapRec) (v : Nat) : TeamRef := t.team.getD ⟨v, t.launchId.toNat, t.cluster.toNat, 0⟩

/-- RELAUNCH: the cluster rolls back, or the grid ends TRAPPED. -/
def State.trapRelaunch (s : State) (v : Nat) : State :=
  s.act v (fun t s => (s.relaunch (t.named v) t.cause.toNat).nextTrap v)

/-- END: the grid ends TRAPPED. -/
def State.trapEnd (s : State) (v : Nat) : State :=
  s.act v (fun t s => (s.endGrid (t.named v).vf (t.named v).launch statusTrapped t.cause.toNat).nextTrap v)

def execTrapResume (ctx : Nat) (s : State) : Host.Outcome State Fault Refusal := module s (fun s => s.trapResume ctx)
def execTrapRelaunch (ctx : Nat) (s : State) : Host.Outcome State Fault Refusal := module s (fun s => s.trapRelaunch ctx)
def execTrapEnd (ctx : Nat) (s : State) : Host.Outcome State Fault Refusal := module s (fun s => s.trapEnd ctx)

/-- The groups of a context halted at a `brk`, with their quadrants, in ascending quadrant and place. -/
def State.atBrk (s : State) (v : Nat) : List (TeamRef × Nat × Nat) :=
  let all := s.clusters.flatMap (fun c => c.teams.flatMap (fun t => if t.ref.vf != v then [] else
    (t.groups.filter (fun g => g.brk.isSome)).map (fun g => (t.ref, t.quads.getD g.slot 0, g.place))))
  sortBy (fun a b => decide (a.2.1 * 16 + a.2.2 < b.2.1 * 16 + b.2.2)) all

/-- Writing RESUME in the debug register: every group halted at a `brk` becomes ready, with empty loop buffers (R135, R351, R352). -/
def State.brkResume (s : State) (v : Nat) : State :=
  (s.atBrk v).foldl (fun (s : State) (x : TeamRef × Nat × Nat) =>
    match s.team? x.1 with
    | none => s
    | some t =>
      match t.group? (t.slotOf x.2.1) x.2.2 with
      | none => s
      | some g =>
        let g := { g with brk := none }
        let t := (t.setGroup g).emptyLoops g
        let s := s.setTeam t
        if t.ready g then s.updQuad x.2.1 (fun q => { q with queue := q.queue ++ [(x.1, x.2.2)] }) else s) s

def execBrkResume (ctx : Nat) (s : State) : Host.Outcome State Fault Refusal := module s (fun s => s.brkResume ctx)

/-- A held item of a verified group that its second has not matched within 2^16 cycles is a mismatch (R370). -/
def execVerifyTimeout (quad place : Nat) (s : State) : Host.Outcome State Fault Refusal :=
  module s (fun s =>
    match (s.groupsOn quad).find? (fun x => x.2.place == place) with
    | none => s
    | some (t, g) =>
      let late (since : Nat) : Bool := decide (since + 2 ^ 16 ≤ s.cycle)
      let held := g.storeQ.any (fun e => e.unverified && late e.since) ||
        s.cmds.any (fun (k : Cmd) => k.team == t.ref && k.place == g.key && k.unverified && late k.acceptedAt) ||
        (match g.heldAt with | some a => late a | none => false)
      if held then s.consume t.ref else s)

/-! ### Translation invalidation (R226, R227, R276) -/

/-- The first byte and size of the range an invalidation names; none for every entry. -/
def Ctx.irange (c : Ctx) : Option (Nat × Nat) :=
  if c.iall then none
  else
    let n := match c.isize with | 0 => 2 ^ 12 | 1 => 2 ^ 16 | 2 => 2 ^ 21 | _ => 2 ^ 30
    some (c.iva / n * n, n)

/-- A page overlaps the range. -/
def inRange (r : Option (Nat × Nat)) (base size : Nat) : Bool :=
  match r with
  | none => true
  | some (a, n) => decide (base < a + n) && decide (a < base + size)

/-- Writing GO: cached translations of the range leave, and BUSY is set; the hut and summit commands that translated an address in the
range are waited for. -/
def State.invalidate (s : State) (v : Nat) : State :=
  let c := s.ctx v
  if c.ibusy then s
  else
    let r := c.irange
    -- the range is the one named at GO: later writes of IVA, ISIZE and IALL name the next
    let cmds := s.cmds.filter (fun (k : Cmd) => k.team.vf == v && k.nearMemory && k.named.any (fun p => inRange r p.1 p.2))
    let s := { s with tlb := s.tlb.filter (fun (e : TlbEntry) => !(e.ctx == v && inRange r e.base e.size)) }
    s.setCtx v { c with ibusy := true, iwait := cmds.map (·.id), igo := r }

def execInvalidateGo (ctx : Nat) (s : State) : Host.Outcome State Fault Refusal := module s (fun s => s.invalidate ctx)

/-- Every access of a context begun by a cycle has been performed or discarded: its lodge entries and store-queue entries. -/
def State.accessesDone (s : State) (v since : Nat) : Bool :=
  s.quads.all (fun (e : Nat × Quad) => e.2.lodge.all (fun x => x.team.vf != v || decide (x.st = .filled) || decide (since < x.since))) &&
    s.clusters.all (fun c => c.vf != v || c.teams.all (fun t => t.groups.all (fun g => g.storeQ.all (fun x => decide (since < x.since)))))

def execInvalidateComplete (ctx : Nat) (s : State) : Host.Outcome State Fault Refusal :=
  module s (fun s =>
    let c := s.ctx ctx
    if !c.ibusy then s
    else
      -- entries that walks have cached since GO leave too, and what has used them is waited for (R226)
      let s := { s with tlb := s.tlb.filter (fun (e : TlbEntry) => !(e.ctx == ctx && inRange c.igo e.base e.size)) }
      let held (k : Cmd) : Bool := c.iwait.contains k.id || (k.team.vf == ctx && k.nearMemory && k.named.any (fun p => inRange c.igo p.1 p.2))
      if !s.cmds.any held && s.accessesDone ctx s.cycle then s.setCtx ctx { c with ibusy := false, iwait := [] } else s)

/-! ### Dirty harvest (R379 to R381) -/

/-- The leaf that maps a unit of 4 KiB: its address and its DT. -/
def State.leafOfUnit (s : State) (v unit : Nat) : Option (Nat × Bool) :=
  match walkFrom s (unit * 4096 % 2 ^ 57) 5 (s.ctx v).root false with
  | .leaf _ addr e => some (addr, pteBit e 9)
  | .poison _ => none

/-- DT cleared in leaves, each at its home by an atomic access of the module, and in every cached copy (R224, R380). -/
def State.clearDirty (s : State) (leaves : List Nat) : State :=
  leaves.foldl (fun (s : State) a =>
    let e := s.mem.nat a 8
    let s := if pteBit e 9 then ((s.recallAll (a / 64) true).rouse (a / 64)).exchange ioPort (s.portOf a) 1 1 else s
    { s with mem := if pteBit e 9 then s.mem.writeBytes a (bytesOfNat 8 (e - 512)) else s.mem
             tlb := s.tlb.map (fun (x : TlbEntry) => if x.leaf == a then { x with pte := x.pte &&& ~~~(512 : BitVec 64) } else x)
             cmds := s.cmds.map (fun (k : Cmd) => { k with pages := k.pages.map (fun p => if p.2.2 == a then (p.1, p.2.1 &&& ~~~(512 : BitVec 64), p.2.2) else p) }) }) s

/-- The blocks of tables that a harvest's walks read, and those of the leaves whose DT it clears. -/
def State.harvestBlocks (s : State) (v : Nat) : List Nat × List Nat :=
  let g := (s.ctx v).hgo
  let units := (List.range g.2.1).map (fun i => g.1 / 4096 + i)
  let reads := units.flatMap (fun u => (walkPath s (u * 4096 % 2 ^ 57) 5 (s.ctx v).root).map (·.1 / 64))
  let clears := units.filterMap (fun u => match s.leafOfUnit v u with | some (a, true) => some (a / 64) | _ => none)
  (distinct reads, distinct clears)

/-- The tables of a harvest are read, coherently, and DT of its leaves is read and cleared, each once, in the tree and in cached copies. -/
def State.harvestRead (s : State) (v : Nat) : State :=
  let g := (s.ctx v).hgo
  let b := s.harvestBlocks v
  match s.homeWait ioPort b.1 b.2 with
  | some (_, s) => s
  | none =>
    let s := b.1.foldl (fun (s : State) x => s.access ioPort false x) s
    let units := (List.range g.2.1).map (fun i => s.leafOfUnit v (g.1 / 4096 + i))
    let s := s.clearDirty (distinct (units.filterMap (fun u => u.map (·.1))))
    s.updCtx v (fun c => { c with hread := true, hsince := s.cycle
                                  hdirty := units.map (fun u => match u with | some (_, d) => d | none => false) })

/-- Writing GO: refused with HERR, or a harvest of the range then named begins. -/
def State.harvest (s : State) (v : Nat) : State :=
  let c := s.ctx v
  if c.hbusy then s
  else if c.hcount = 0 ∨ 2 ^ 24 < c.hcount ∨ Config.deviceBytes < c.hbmp + ceilDiv c.hcount 8 then s.setCtx v { c with herr := true }
  else
    (s.setCtx v { c with herr := false, hbusy := true, hsince := s.cycle, hread := false, hgo := (c.hva, c.hcount, c.hbmp), hdirty := [] }).harvestRead v

def execHarvestGo (ctx : Nat) (s : State) : Host.Outcome State Fault Refusal := module s (fun s => s.harvest ctx)

/-- The bitmap written over the bytes at HBMP: bit i mod 8 of byte i div 8. -/
def harvestBytes (s : State) (base : Nat) (bits : List Bool) : List Byte :=
  (List.range (ceilDiv bits.length 8)).map (fun k =>
    (List.range 8).foldl (fun (x : Byte) j => match bits[8 * k + j]? with
      | some true => x ||| BitVec.ofNat 8 (2 ^ j)
      | some false => x &&& ~~~(BitVec.ofNat 8 (2 ^ j))
      | none => x) (s.mem.read (base + k)))

def execHarvestComplete (ctx : Nat) (s : State) : Host.Outcome State Fault Refusal :=
  module s (fun s =>
    let c := s.ctx ctx
    if !c.hbusy then s
    else if !c.hread then s.harvestRead ctx
    else if !s.accessesDone ctx c.hsince then s
    else
      let bmp := c.hgo.2.2
      let blocks := blocksOf bmp (ceilDiv c.hdirty.length 8)
      match s.homeWait ioPort [] blocks with
      | some (_, s) => s
      | none =>
        let s := blocks.foldl (fun (s : State) b => s.access ioPort true b) s
        (s.poke bmp (harvestBytes s bmp c.hdirty)).setCtx ctx { c with hbusy := false, hread := false, hdirty := [] })

end Sys2Proof.Machine
end

