-- ==== Sys2Proof/Machine/FrontEnd.lean ====
section
/-! DEFINITION. Containers and the loader, feature negotiation, functions and their resets, queues and the queue front end: launches,
signals, and the administration requests (R26 to R33, R70 to R93, R377, R382, R385, R386, R398). -/
namespace Sys2Proof.Machine

/-! ### Bytes of requests -/

/-- A little-endian field of bytes; bytes that are not there read 0. -/
def fieldAt (bs : List Byte) (off n : Nat) : Nat := natOfBytes ((List.range n).map (fun i => bs.getD (off + i) 0))

/-- The bytes of a range are all 0. -/
def zeroAt (bs : List Byte) (off n : Nat) : Bool := (List.range n).all (fun i => bs.getD (off + i) 0 == 0)

/-! ### Containers and the loader (R26 to R30) -/

/-- A segment-table entry of a container (R27). -/
structure SegEntry where
  kind : Nat
  align : Nat
  flags : Nat
  off : Nat
  size : Nat
  memsize : Nat
  sigoff : Nat
  lmslen : Nat
  zeros : Bool
  raw : List Byte
  deriving DecidableEq, Repr

/-- Entry `k` of the segment table. -/
def segEntry (image : List Byte) (tab k : Nat) : SegEntry :=
  let b := (image.drop (tab + 64 * k)).take 64
  { kind := fieldAt b 0 1, align := fieldAt b 1 1, flags := fieldAt b 2 2, off := fieldAt b 8 8, size := fieldAt b 0x10 8, memsize := fieldAt b 0x18 8
    sigoff := fieldAt b 0x20 8, lmslen := fieldAt b 0x28 4, zeros := zeroAt b 4 4 && zeroAt b 0x2C 4, raw := b }

/-- The container header (R26). More than 255 segments, a table that is no multiple of 64 and reserved bytes that are not 0 are refused too, as fields outside the
limits the header's own table gives (DESIGN CHOICE, log 50). -/
def headerOk (image : List Byte) : Bool :=
  decide (64 ≤ image.length) && fieldAt image 0 4 == 0x434D5753 && fieldAt image 4 2 == 1 && decide (1 ≤ fieldAt image 6 2) &&
    decide (fieldAt image 6 2 ≤ 255) && decide (fieldAt image 8 8 % 64 = 0) && zeroAt image 0x20 32 &&
    decide (fieldAt image 8 8 + 64 * fieldAt image 6 2 ≤ image.length)

/-- An entry's own limits, and those of where the loader puts the segment (R27, R28). No rule has the loader refuse a NAME: its bytes are measured and otherwise
not looked at (DESIGN CHOICE, log 50). -/
def SegEntry.ok (e : SegEntry) (s : State) (image : List Byte) (place : Nat × Nat) : Bool :=
  let tb := e.flags.testBit 0
  let cc := e.flags.testBit 1
  decide (1 ≤ e.kind) && decide (e.kind ≤ 4) && decide (12 ≤ e.align) && decide (e.align ≤ 30) && decide (e.flags < 4) && e.zeros &&
    decide (e.size ≤ e.memsize) && decide (e.off + e.size ≤ image.length) && decide (e.sigoff + 96 + e.lmslen ≤ image.length) &&
    (!cc || (e.align == 21 && decide (e.memsize % 2 ^ 21 = 0) && decide (s.ccbase * 2 ^ 21 ≤ place.2) &&
      decide (place.2 + e.memsize ≤ (s.ccbase + s.ccframes) * 2 ^ 21))) &&
    !(tb && (e.kind == 1 || e.kind == 4)) && decide (place.1 % 2 ^ e.align = 0) && decide (place.2 % 2 ^ e.align = 0) &&
    decide (place.2 + e.memsize ≤ Config.deviceBytes) && decide (place.1 + e.memsize ≤ 2 ^ 57)

/-- The measurement of a segment (R29). -/
def SegEntry.measure (e : SegEntry) (image : List Byte) : BitVec 384 := sha384 (e.raw ++ (image.drop e.off).take e.size)

/-- Both signatures verify over the 48-byte measurement (R29). -/
def SegEntry.signed (e : SegEntry) (image : List Byte) : Bool :=
  bothSigned (e.measure image) ((image.drop e.sigoff).take 96) ((image.drop (e.sigoff + 96)).take e.lmslen)

/-- Segments handled in table order: the measurements extended before the first failure, and whether all passed (R30). -/
def loadSegs (s : State) (image : List Byte) : List (SegEntry × (Nat × Nat)) → List (BitVec 384) × Bool
  | [] => ([], true)
  | (e, pl) :: rest =>
    if e.ok s image pl && e.signed image then
      let (l, ok) := loadSegs s image rest
      (e.measure image :: l, ok)
    else ([], false)

/-- The leaf entry of a page of a segment (R28): code EX and no WT, read-only data RD, data RD and WT; TB and CC as the segment's flags say. -/
def segLeaf (kind flags pa : Nat) : Nat :=
  pa + 1 + 16 + (match kind with | 1 => 8 | 2 => 2 | _ => 6) + (if flags.testBit 0 then 64 else 0) + (if flags.testBit 1 then 128 else 0)

/-- One page mapped in a tree: the leaf written at its level, the tables missing on the way taken from `frames` and cleared. None where a larger page is in the
way, a table is not device memory, or no frame is left (DESIGN CHOICE, log 50). -/
def mapPage (va entry leafLevel : Nat) : Nat → Nat → List Nat → State → Option (List Nat × State)
  | 0, _, _, _ => none
  | level + 1, table, frames, s =>
    let idx := va / 2 ^ (12 + 9 * level) % 512
    let addr := table + 8 * idx
    let e := s.tableEntry table idx
    if !isDevice table then none
    else if level + 1 = leafLevel then some (frames, s.poke addr (bytesOfNat 8 entry))
    else if pteBit e 0 then (if pteBit e 4 then none else mapPage va entry leafLevel level (ptePa e) frames s)
    else match frames with
      | [] => none
      | f :: rest =>
        if f % 4096 ≠ 0 ∨ !isDevice f then none
        else mapPage va entry leafLevel level f rest ((s.poke f (List.replicate 4096 0)).poke addr (bytesOfNat 8 (f + 1)))

/-- The pages of a segment mapped in turn: 2 MiB leaves for a compute-capable one, 4 KiB leaves otherwise (R28, R30 step 5). -/
def mapSeg (root : Nat) (e : SegEntry) (pl : Nat × Nat) (frames : List Nat) (s : State) : Option (List Nat × State) :=
  let level := if e.flags.testBit 1 then 2 else 1
  (List.range (ceilDiv e.memsize (pageSize level))).foldlM (fun (x : List Nat × State) i =>
    mapPage (pl.1 + pageSize level * i) (segLeaf e.kind e.flags (pl.2 + pageSize level * i)) level 5 root x.1 x.2) (frames, s)

/-- A page of a kernel table is mapped into no kernel's address space: a leaf that maps it there is no longer valid (R28). -/
def State.unmapPage (s : State) (v va pa : Nat) : State :=
  match walkFrom s va 5 (s.ctx v).root false with
  | .leaf level addr e => if ptePa e + va % pageSize level = pa then s.poke addr (bytesOfNat 8 (e - 1)) else s
  | .poison _ => s

/-- A verified segment put into memory, bytes past SIZE as zero, and mapped (R27, R28, R30). -/
def State.placeSeg (v : Nat) (image : List Byte) (x : List Nat × State) (y : SegEntry × (Nat × Nat)) : Option (List Nat × State) :=
  let (e, pl) := y
  let s := x.2.poke pl.2 ((image.drop e.off).take e.size ++ List.replicate (e.memsize - e.size) 0)
  if e.kind = 4 then some (x.1, (List.range (ceilDiv e.memsize 4096)).foldl (fun (s : State) i => s.unmapPage v (pl.1 + 4096 * i) (pl.2 + 4096 * i)) s)
  else mapSeg (s.ctx v).root e pl x.1 s

/-- The segments of a container with their places, one for each entry of its table. -/
def containerSegs (image : List Byte) (places : List (Nat × Nat)) : List (SegEntry × Nat × Nat) :=
  (places.take (fieldAt image 6 2)).mapIdx (fun k pl => (segEntry image (fieldAt image 8 8) k, pl))

/-- The frames named after the segments. -/
def containerFrames (image : List Byte) (places : List (Nat × Nat)) : List Nat := (places.drop (fieldAt image 6 2)).map (·.2)

/-- The loader takes a container once the module is up: on any failure it is refused as a whole, and only extensions made before stay (R30). `places` says where
each segment goes, and after the segments which physical 4 KiB frames the loader may take for page tables. A container under an identifier that is already loaded
takes the place of the one before, whose segments stay mapped (DESIGN CHOICE, log 50). -/
def execContainerLoad (vf ctr : Nat) (image : List Byte) (places : List (Nat × Nat)) (s : State) : Host.Outcome State Fault Refusal :=
  module s (fun s =>
    if s.boot.stage ≠ 5 ∨ !headerOk image ∨ places.length < fieldAt image 6 2 then s
    else
      let segs := containerSegs image places
      let (ext, ok) := loadSegs s image segs
      let s := { s with boot := { s.boot with attest := s.boot.attest ++ ext } }
      if !ok then s
      else match segs.foldlM (State.placeSeg vf image) (containerFrames image places, s) with
        | none => s
        | some (_, s) =>
          let c : Container := { ctr := ctr, feat := BitVec.ofNat 128 (fieldAt image 0x10 16)
                                 segs := segs.map (fun x => (x.1.kind, x.1.flags, x.2.1, x.2.2, x.1.memsize)) }
          s.updVf vf (fun f => { f with containers := f.containers.filter (fun x => x.ctr != ctr) ++ [c] }))

/-! ### Functions and feature negotiation (R70 to R74) -/

/-- The PF a VF index belongs to, among the VFs of NumVFs (R70). -/
def pfOfVf (n0 n1 : Nat) (v : Nat) : Option (Fin 2) := if v < n0 then some 0 else if 128 - n1 ≤ v ∧ v < 128 then some 1 else none

/-- The indices of a PF's VFs (R70). -/
def vfsOf (pf : Fin 2) (n : Nat) : List Nat := (List.range n).map (fun k => if pf = 0 then k else 128 - n + k)

/-- The transport of a function. -/
def State.transport (s : State) : Fn → Transport
  | .pf i => (s.pf i).tr
  | .vf v => (s.vf v).tr

def State.setTransport (s : State) (fn : Fn) (t : Transport) : State :=
  match fn with
  | .pf i => s.setPf i { s.pf i with tr := t }
  | .vf v => s.updVf v (fun f => { f with tr := t })

/-- The function exists: a PF always, a VF while it is enabled (R70). -/
def State.present (s : State) : Fn → Bool
  | .pf _ => true
  | .vf v => (s.vf v).enabled.isSome

/-- READY of a function. -/
def State.ready (s : State) : Fn → Bool
  | .pf i => (s.pf i).ready
  | .vf v => (s.vf v).ready

/-- The feature word a function offers (R72, R92). -/
def State.offered (s : State) (fn : Fn) : BitVec 128 :=
  let bits := [0, 1, 2, 3, 6, 7, 28, 29, 32, 33, 36, 38, 40]
  let more := match fn with
    | .pf i => [37] ++ (if (s.pf i).cxl then [5] else [])
    | .vf v => (if (s.vf v).created && decide ((s.vf v).wclass ≤ 2) then [4] else []) ++
        (match (s.vf v).enabled with | some i => if (s.pf i).cxl then [5] else [] | none => [])
  (bits ++ more).foldl (fun (w : BitVec 128) b => w ||| BitVec.ofNat 128 (2 ^ b)) 0

/-- The bits a function must accept (R72). -/
def requiredBits (fn : Fn) : List Nat := match fn with | .pf _ => [32, 33, 36, 37] | .vf _ => [32, 33, 36]

/-- The driver sets FEATURES_OK with a word; on a fault the bit stays clear and the function is unusable until reset (R73). -/
def execFeaturesOk (fn : Fn) (accepted : BitVec 128) (s : State) : Host.Outcome State Fault Refusal :=
  module s (fun s =>
    let t := s.transport fn
    if t.featuresOk || t.unusable || !s.present fn then s
    else if accepted &&& ~~~(s.offered fn) ≠ 0 ∨ !(requiredBits fn).all (fun b => accepted.getLsbD b) then s.setTransport fn { t with unusable := true }
    else s.setTransport fn { t with features := accepted, featuresOk := true })

/-- The driver sets DRIVER_OK, which stays clear before READY and on an unusable function (R73, R74). -/
def execDriverOk (fn : Fn) (s : State) : Host.Outcome State Fault Refusal :=
  module s (fun s =>
    let t := s.transport fn
    if s.ready fn && !t.unusable && s.present fn then s.setTransport fn { t with driverOk := true } else s)

/-! ### Resets and destruction of a VF (R82, R382, R394, R398) -/

/-- A lent quadrant returns to its lender: the borrower halts on it (R371, R396). -/
def State.reclaim (s : State) (q : Nat) : State :=
  match (s.quad q).lentTo with
  | none => s
  | some b => (s.updQuad q (fun x => { x with lentTo := none })).halt b q

/-- The registers of a context that reset with its VF (R227, R351, R361, R379); a harvest in progress stops with HERR. -/
def Ctx.vfReset (c : Ctx) : Ctx :=
  { Ctx.reset with level := c.level, refill := c.refill, cap := c.cap, capRefill := c.capRefill, herr := c.hbusy }

/-- The banks of every stack leave self-refresh (R391, R396). -/
def State.leaveRest (s : State) : State :=
  { s with stackTab := s.stackTab.map (fun (e : Nat × Stack) => (e.1, { e.2 with selfRefresh := false })) }

/-- A reset of a VF (R82, R382): its grids end without relaunch and without records, requests not completed and held events are discarded, the
timelines return to 0, and GEN goes on. A collapsed one is woken: its lent quadrants are reclaimed, to be spilt as they halt, and the rest banks leave
self-refresh (R394, R398). A harvest in progress leaves its bitmap unspecified (free values, log 2). -/
def State.vfReset (s : State) (v : Nat) : State :=
  let ids := (s.launches.filter (fun (l : Launch) => l.vf == v)).map (·.id)
  let s := ids.foldl (fun (s : State) i => s.killGrid v i) s
  let s := { s with launches := s.launches.filter (fun (l : Launch) => l.vf != v) }
  let s := (s.ownQuads v).foldl (fun (s : State) q => s.reclaim q) s
  let s := if (s.vf v).bstate = .active then s else s.leaveRest
  let c := s.ctx v
  let s := if c.hbusy then { s with tick := s.tick + 1 }.homeWrite ioPort c.hgo.2.2 ((List.range (ceilDiv c.hgo.2.1 8)).map (fun i => Config.freeByte (s.tick * 2 ^ 64 + i))) else s
  let s := s.setCtx v c.vfReset
  s.updVf v (fun f =>
    { f with tr := Transport.reset, gen := f.gen + 1, timelines := List.replicate 8 0, queues := [], evBufs := [], held := []
             evDrop := satInc f.evDrop f.held.length, preempted := false, bstate := .active, holdoff := false, lendvf := 0xFF, timer := 0, wakeAt := none
             collapseStep := 0, told := [], refcnt := 0 })

def execDeviceStatusReset (vf : Nat) (s : State) : Host.Outcome State Fault Refusal :=
  module s (fun s => if s.present (.vf vf) then s.vfReset vf else s)

def execVfFunctionLevelReset (vf : Nat) (s : State) : Host.Outcome State Fault Refusal :=
  module s (fun s => if s.present (.vf vf) then s.vfReset vf else s)

/-- A Function Level Reset of a PF: each of its VFs is reset, then its administration queue; module-level registers stay (R382). -/
def State.pfReset (s : State) (i : Fin 2) : State :=
  let mine := (s.vfs.filter (fun (e : Nat × Vf) => e.2.enabled == some i)).map (·.1)
  let s := (sortBy (fun a b => decide (a < b)) mine).foldl (fun (s : State) v => s.vfReset v) s
  s.setPf i { s.pf i with tr := Transport.reset, adminQ := VQueue.reset }

def execPfFunctionLevelReset (pf : Fin 2) (s : State) : Host.Outcome State Fault Refusal := module s (fun s => s.pfReset pf)

/-- DESTROY_VF after its checks (R398): reset, borrowed quadrants returned, partitions and keep set released, registers back to their reset values;
GEN, RUNSTATE and the event counts are kept. -/
def State.destroyVf (s : State) (v : Nat) : State :=
  let s := s.vfReset v
  let s := (s.borrowed v).foldl (fun (s : State) q => s.updQuad q (fun x => { x with lentTo := none })) s
  s.updVf v (fun f => { Vf.reset with enabled := f.enabled, gen := f.gen, containers := f.containers, evDrop := f.evDrop, evLost := f.evLost
                                      runstate := f.runstate, msixPend := f.msixPend })

/-- A write to VF Enable (R70, R87, R374, R398). -/
def State.vfEnableWrite (s : State) (i : Fin 2) (on : Bool) : State :=
  let p := s.pf i
  if on then
    if p.vfEnable then s
    else
      let other := s.pf (1 - i)
      if 128 < p.numvfs + (if other.vfEnable then other.numvfs else 0) ∨ s.gbbase = 0 ∨ s.spillbase = 0 then s.setPf i { p with caperr := true, caperrAt := some s.cycle }
      else (vfsOf i p.numvfs).foldl (fun (s : State) v => s.updVf v (fun f => { f with enabled := some i })) (s.setPf i { p with vfEnable := true })
  else if !p.vfEnable then s
  else
    let s := (vfsOf i p.numvfs).foldl (fun (s : State) v =>
      (if (s.vf v).created then s.destroyVf v else s).updVf v (fun f => { f with enabled := none })) s
    s.setPf i { s.pf i with vfEnable := false }

def execVfEnable (pf : Fin 2) (on : Bool) (s : State) : Host.Outcome State Fault Refusal := module s (fun s => s.vfEnableWrite pf on)

/-- A write to NumVFs: ignored while VF Enable is set, and up to TotalVFs (R70); each created VF that leaves is destroyed, in ascending index (R398). -/
def execNumvfsWrite (pf : Fin 2) (n : Nat) (s : State) : Host.Outcome State Fault Refusal :=
  module s (fun s =>
    let p := s.pf pf
    if 128 < n || p.vfEnable then s
    else
      let stay := vfsOf pf n
      let s := ((vfsOf pf p.numvfs).filter (fun v => !stay.contains v)).foldl (fun (s : State) v =>
        if (s.vf v).created then (s.destroyVf v).updVf v (fun f => { f with enabled := none }) else s) s
      s.setPf pf { s.pf pf with numvfs := n })

/-! ### Queues (R71, R74, R76, R80, R84) -/

/-- A PF's message (R71, R72). -/
def State.sendPfMsix (s : State) (i : Fin 2) : State :=
  let x := (s.pf i).adminQ.vector
  if x = 0xFFFF ∨ !(s.pf i).adminQ.wants (s.pf i).tr.features then s else { s with out := { s.out with msix := s.out.msix ++ [(.pf i, x)] } }

/-- A request that is no launch completes with a record (R384 from step 2, R385). -/
def State.answer (s : State) (fn : Fn) (queue head status reason : Nat) (tag : DWord := 0) (slot : Nat := 0xFF) (rcode : Nat := 0) (raise : State → State := id) :
    State :=
  let gen := match fn with | .vf v => (s.vf v).gen | .pf _ => 0
  let rc : CompRec := { status := status, reason := reason, slot := slot, rcode := rcode, gen := gen, launchId := 0, tag := tag, rollbacks := 0 }
  let s := raise (s.pushUsed { fn := fn, queue := queue, head := head, len := 32, record := some rc, written := rc.bytes })
  match fn with
  | .vf v => s.sendMsix v queue gen
  | .pf i => s.sendPfMsix i

/-- A chain without a usable final buffer returns with length 0 (R76). -/
def State.bounce (s : State) (fn : Fn) (queue head : Nat) : State :=
  let s := s.pushUsed { fn := fn, queue := queue, head := head, len := 0, record := none, written := [] }
  match fn with
  | .vf v => s.sendMsix v queue (s.vf v).gen
  | .pf i => s.sendPfMsix i

/-- The final buffer can take a completion record. -/
def finalOk (c : Chain) : Bool := c.finalWritable && decide (32 ≤ c.finalLen)

/-- What collapse told the driver of a VF's queues is taken back (R394, R395 step 2). -/
def Vf.untell (f : Vf) : Vf :=
  { f with told := [], queues := f.told.foldl (fun (t : Tab VQueue) e => t.set e.1 { t.get e.1 VQueue.reset with availEvent := e.2.1, noNotify := e.2.2 }) f.queues }

/-- A wake write (R394): a collapsing VF undoes its steps and begins to wake, a collapsed one begins to wake and reclaims the quadrants it lent (R396);
a further one has no effect. -/
def State.wakeWrite (s : State) (v : Nat) : State :=
  let waking (s : State) : State := s.updVf v (fun f => { f with bstate := .waking, wakeAt := some s.cycle })
  match (s.vf v).bstate with
  | .collapsing => waking (s.updVf v Vf.untell)
  | .collapsed => (s.ownQuads v).foldl (fun (s : State) q => s.reclaim q) (waking s)
  | _ => s

/-- Held events written as buffers become available; one of an older generation is dropped and counted (R377). -/
def deliverHeld (v : Nat) : Nat → State → State
  | 0, s => s
  | fuel + 1, s =>
    let f := s.vf v
    match f.held with
    | [] => s
    | e :: rest =>
      if e.gen ≠ f.gen then deliverHeld v fuel (s.setVf v { f with held := rest, evDrop := satInc f.evDrop })
      else if f.evBufs.isEmpty then s
      else deliverHeld v fuel ((s.setVf v { f with held := rest }).writeEvent v e)

/-- EVENT_DELIVER: the held events that now have buffers (R377). -/
def execEventDeliver (vf : Nat) (s : State) : Host.Outcome State Fault Refusal := module s (fun s => deliverHeld vf ((s.vf vf).held.length) s)

/-- A notify write: new entries of the ring are there; before READY it is ignored. It is a wake write, returns the idle timer to 0, and lets
the front end read the ring; buffers of the event ring wait for events (R71, R74, R376, R392, R394). -/
def execNotify (fn : Fn) (queue : Nat) (posted : List Chain) (s : State) : Host.Outcome State Fault Refusal :=
  module s (fun s =>
    let live := s.ready fn && !(s.transport fn).unusable
    match fn with
    | .pf i =>
      if queue ≠ 0 then s
      else s.setPf i { s.pf i with adminQ := { (s.pf i).adminQ with avail := (s.pf i).adminQ.avail ++ posted, kicked := (s.pf i).adminQ.kicked || live } }
    | .vf v =>
      let f := s.vf v
      let q := f.queues.get queue VQueue.reset
      let s := s.setVf v { f with queues := f.queues.set queue { q with avail := q.avail ++ posted, kicked := q.kicked || live } }
      if !live then s
      else
        let s := (s.updVf v (fun f => { f with timer := 0 })).wakeWrite v
        if queue = f.nwq then
          let ready := (q.avail ++ posted).filter finalOk
          s.updVf v (fun f => { f with evBufs := f.evBufs ++ ready.map (·.head), queues := f.queues.set queue { q with avail := [], kicked := true, readIdx := q.readIdx + q.avail.length + posted.length } })
        else s)

/-- The launches a VF has accepted and not completed (R84). -/
def State.accepted (s : State) (v : Nat) : List Launch := s.launches.filter (fun (l : Launch) => l.vf == v)

/-- The entry the front end reads next from a work queue: the VF is ready and awake, the queue was notified, and fewer than 256
launches are held (R74, R84, R394). -/
def State.frontHead (s : State) (v queue : Nat) : Option (Chain × State) :=
  let f := s.vf v
  let q := f.queues.get queue VQueue.reset
  if !f.ready || f.tr.unusable || decide (f.bstate ≠ .active) || !q.kicked || !q.enabled || decide (f.nwq ≤ queue) || decide (256 ≤ (s.accepted v).length) then none
  else match q.avail with
    | [] => none
    | c :: rest => some (c, s.setVf v { f with queues := f.queues.set queue { q with avail := rest, readIdx := q.readIdx + 1 } })

/-- The kind of a request; an empty buffer has none (R76). -/
def kindOf (c : Chain) : Option Nat := c.req.head?.map (·.toNat)

/-- A reset of one work queue (R80): every request read from it and not completed completes CANCELLED, entries not read are discarded, and the queue
stays reset until it is enabled again. -/
def execQueueReset (vf queue : Nat) (s : State) : Host.Outcome State Fault Refusal :=
  module s (fun s =>
    let f := s.vf vf
    if f.nwq ≤ queue ∨ !f.feature 40 then s
    else
      let mine := (s.launches.filter (fun (l : Launch) => l.vf == vf && l.queue == queue)).map (·.id)
      let s := mine.foldl (fun (s : State) i => s.endGrid vf i statusCancelled 0) s
      s.updVf vf (fun f => { f with queues := f.queues.set queue { VQueue.reset with vector := (f.queues.get queue VQueue.reset).vector, enabled := false } }))

/-! ### Signals (R78, R79) -/

/-- A SIGNAL request read by the front end. -/
def State.signalRequest (s : State) (v queue : Nat) (c : Chain) : State :=
  if !finalOk c then s.bounce (.vf v) queue c.head
  else
    let tl := fieldAt c.req 1 1
    if kindOf c ≠ some 2 then s.answer (.vf v) queue c.head statusRefused 0x41
    else if c.req.length < 16 ∨ !zeroAt c.req 2 6 then s.answer (.vf v) queue c.head statusRefused 0x42
    else if 7 < tl ∨ !(s.vf v).feature 1 then s.answer (.vf v) queue c.head statusRefused 0x4C
    else (s.raiseTimeline v tl (fieldAt c.req 8 8)).answer (.vf v) queue c.head statusDone 0

def execSignal (vf queue : Nat) (s : State) : Host.Outcome State Fault Refusal :=
  module s (fun s =>
    match s.frontHead vf queue with
    | some (c, s') => if kindOf c = some 1 then s else s'.signalRequest vf queue c
    | none => s)

/-! ### Admission of a launch (R31, R33, R73, R77, R83 to R88, R93 to R95, R99) -/

/-- The launch packet of a request buffer (R77). -/
def packetOf (b : List Byte) : Packet :=
  { flags := fieldAt b 1 1, prio := fieldAt b 2 1, ctr := fieldAt b 4 4, kidx := fieldAt b 8 2, recmask := fieldAt b 0xA 2
    gx := fieldAt b 0x10 4, gy := fieldAt b 0x14 4, gz := fieldAt b 0x18 4, pvec := (List.range 8).map (fun c => fieldAt b (0x20 + 4 * c) 4)
    args := (List.range 4).map (fun k => BitVec.ofNat 64 (fieldAt b (0x40 + 8 * k) 8)), waittl := fieldAt b 0x60 1, sigtl := fieldAt b 0x61 1
    waitval := fieldAt b 0x68 8, sigval := fieldAt b 0x70 8, tag := BitVec.ofNat 64 (fieldAt b 0x78 8)
    zeros := decide (fieldAt b 1 1 < 8) && zeroAt b 3 1 && zeroAt b 0xC 4 && zeroAt b 0x1C 4 && zeroAt b 0x62 6 }

/-- The kernel descriptor in 128 bytes (R31). -/
def kdescOf (b : List Byte) : KDesc :=
  { entry := fieldAt b 0 8, pentry := fieldAt b 8 8, mentry := fieldAt b 0x10 8, tx := fieldAt b 0x18 2, ty := fieldAt b 0x1A 2, tz := fieldAt b 0x1C 2
    cw := fieldAt b 0x1E 1, ch := fieldAt b 0x1F 1, regs := fieldAt b 0x20 2, porters := fieldAt b 0x22 1, rings := fieldAt b 0x23 1
    spad := fieldAt b 0x24 4, bsram := fieldAt b 0x28 4, spawn := fieldAt b 0x2C 2, flags := fieldAt b 0x2E 2, decl := fieldAt b 0x30 8
    codeSeg := fieldAt b 0x38 2, zeros := zeroAt b 0x3A 6 && zeroAt b 0x60 32 }

/-- The bytes of a container's kernel table (R28, R31): the first in table order, where an image that no assembler makes has two (DESIGN CHOICE, log 50). -/
def Container.ktab (c : Container) : Nat × Nat :=
  match c.segs.find? (fun g => g.1 == 4) with
  | some (_, _, _, pa, n) => (pa, n)
  | none => (0, 0)

/-- The descriptor of a kernel index, if the table has it. -/
def State.kernelAt (s : State) (c : Container) (k : Nat) : Option KDesc :=
  let (pa, n) := c.ktab
  if n / 128 ≤ k then none else some (kdescOf (s.mem.bytes (pa + 128 * k) 128))

/-- The code segment of a descriptor: its virtual and physical address and its size. -/
def Container.code (c : Container) (k : KDesc) : Option (Nat × Nat × Nat) :=
  match c.segs[k.codeSeg]? with
  | some (1, _, va, pa, n) => some (va, pa, n)
  | _ => none

/-- A legal entry: a slot's offset within the code segment, with its TGT bit set (R31, R103, R105). -/
def State.entryOk (s : State) (code : Nat × Nat × Nat) (off : Nat) : Bool :=
  let slot := off % 64 / 12
  decide (off % 64 % 12 = 0) && decide (slot < 5) && decide (off < code.2.2) && (s.mem.nat (code.2.1 + off / 64 * 64 + 60) 4).testBit (27 + slot)

/-- The declaration of a slot (R33). -/
def KDesc.nib (k : KDesc) (slot : Nat) : Nat := k.decl / 16 ^ slot % 16

/-- All ones in 64 bits. -/
def allOnes : Nat := 2 ^ 64 - 1

/-- A descriptor keeps the limits of R31 and R33, its team fits four quadrants (R93), and FUSE was negotiated (R99). NAME is no limit: it is not looked at (DESIGN
CHOICE, log 50). -/
def State.kernelOk (s : State) (v : Nat) (c : Container) (k : KDesc) (verify : Bool) : Bool :=
  match c.code k with
  | none => false
  | some code =>
    let n := k.tx * k.ty * k.tz
    let dim (x : Nat) : Bool := decide (1 ≤ x) && decide (x ≤ 2048)
    let mtx := k.mentry != allOnes
    s.entryOk code k.entry && (if k.porters = 0 then k.pentry == allOnes else s.entryOk code k.pentry) && (!mtx || s.entryOk code k.mentry) &&
      dim k.tx && dim k.ty && dim k.tz && decide (n % 32 = 0) && decide (32 ≤ n) && decide (n ≤ 2048) &&
      decide (1 ≤ k.cw) && decide (k.cw ≤ 8) && decide (1 ≤ k.ch) && decide (k.ch ≤ 4) && decide (k.cw * k.ch ≤ 12) &&
      decide (8 ≤ k.regs) && decide (k.regs ≤ 256) && decide (k.regs % 8 = 0) && decide (k.porters ≤ 15) && decide (k.porters < n / 32) &&
      decide (k.rings ≤ 8) && (mtx || k.rings == 0) && decide (k.spad % 4096 = 0) && decide (k.spad ≤ 524288) &&
      decide (k.bsram % 8192 = 0) && decide (k.bsram ≤ 524288) && (mtx || k.bsram == 0) && decide (k.spawn ≤ 1024) && decide (k.flags < 2) &&
      (List.range 16).all (fun i => decide (k.nib i < 8) && (k.nib i % 2 == 1 || k.nib i == 0)) && k.zeros &&
      decide (k.footprint verify ≤ 4) && (!k.flags.testBit 0 || (s.vf v).feature 7)

/-- The declared slots of a descriptor, ascending. -/
def KDesc.declared (k : KDesc) : List Nat := (List.range 16).filter (fun i => k.nib i % 2 == 1)

/-- The record of each declared slot, from the bytes that follow the packet (R77). -/
def recordsOf (k : KDesc) (bs : List Byte) : Tab (BitVec 256) :=
  k.declared.mapIdx (fun i slot => (slot, BitVec.ofNat 256 (fieldAt bs (32 * i) 32)))

/-- The lowest slot whose record fails R37 or breaks R33, with its R40 code. -/
def badRecord (k : KDesc) (recs : Tab (BitVec 256)) : Option (Nat × Nat) :=
  recs.findSome? (fun (e : Nat × BitVec 256) =>
    let r := BufRec.of e.2
    let why := bufReason e.2
    if why ≠ 0 ∨ (r.wr = true ∧ !(k.nib e.1).testBit 1) ∨ r.tb ≠ (k.nib e.1).testBit 2 then some (e.1, why) else none)

/-- The quadrants of a VF's own partitions that are in service (R75, R100). R100 does not name Q_c and the ownership test of R85: those out of service are left
out there too (DEDUCED, log 59). -/
def State.countedQuads (s : State) (v : Nat) : List Nat := (s.ownQuads v).filter (fun q => !(s.quad q).dead)

/-- The clusters each chiplet receives (R85); none when the partition vector breaks a condition. -/
def State.split (s : State) (v : Nat) (p : Packet) (per : Nat) : Option (List Nat) :=
  let n := p.gx * p.gy * p.gz
  let q (c : Nat) : Nat := ((s.countedQuads v).filter (fun x => x / 128 == c)).length
  if p.pvec.all (· == 0) then
    let total := (s.countedQuads v).length
    let base := (List.range 8).map (fun c => n / per * q c / total)
    let owners := (List.range 8).filter (fun c => decide (0 < q c))
    let left := n / per - sumOf base
    some (base.mapIdx (fun c x => if (owners.take left).contains c then x + 1 else x))
  else if p.pvec.all (fun x => decide (x % per = 0)) && (List.range 8).all (fun c => p.pvec.getD c 0 == 0 || decide (0 < q c)) && sumOf p.pvec == n then
    some (p.pvec.map (· / per))
  else none

/-- What a slot of a team takes of its quadrant: groups and banks (R93). -/
def KDesc.slotNeeds (k : KDesc) (verify : Bool) (i : Nat) : Nat × Nat :=
  let slots := k.footprint verify
  let count (n : Nat) : Nat := ((List.range n).filter (fun g => g % slots == i)).length
  (count (k.tx * k.ty * k.tz / 32), count (k.spad / 4096))

/-- Whether a quadrant can take each slot is asked of a test; the first set of quadrants of a core that holds a team (R95): sets in ascending order of
their lowest member, then of the second lowest, and so on. -/
def firstSet (fits : Nat → Nat → Bool) : Nat → Nat → List Nat → Option (List Nat)
  | 0, _, _ => some []
  | _ + 1, _, [] => none
  | n + 1, i, q :: rest =>
    match (if fits i q then (firstSet fits n (i + 1) rest).map (q :: ·) else none) with
    | some l => some l
    | none => firstSet fits (n + 1) i rest

/-- The quadrants of each core of a rectangle, in team order, at the first origin that fits (R95). -/
def findRect (w h : Nat) (coreSet : Nat → Option (List Nat)) : Option (Nat × Nat × List (List Nat)) :=
  ((List.range 32).filter (fun o => decide (o % 8 + w ≤ 8) && decide (o / 8 + h ≤ 4))).findSome? (fun o =>
    let sets := (List.range (w * h)).map (fun i => coreSet (o % 8 + i % w + 8 * (o / 8 + i / w)))
    (allSome sets).map (fun l => (o % 8, o / 8, l)))

/-- Some origin of a chiplet could hold a cluster if every quadrant of the VF were free (R83 FIT, R96, R100); quadrants lent to the VF do not count (R395). -/
def State.fits (s : State) (v : Nat) (k : KDesc) (verify : Bool) (chiplet : Nat) : Bool :=
  let mine := s.countedQuads v
  let slots := k.footprint verify
  let ok (i q : Nat) : Bool :=
    let need := k.slotNeeds verify i
    mine.contains q && decide (need.1 * (if verify then 2 else 1) ≤ 16) && decide (need.1 * k.regs * (if verify then 2 else 1) ≤ 2048) && decide (need.2 ≤ 32)
  (findRect k.cw k.ch (fun core =>
    let qs := (List.range 4).map (fun i => 128 * chiplet + 4 * core + i)
    if k.flags.testBit 0 && !qs.all mine.contains then none else firstSet ok slots 0 qs)).isSome

/-- What admission decides: a refusal with reason, slot and R40 code, or the launch's parts. -/
inductive Admit where
  | refused (reason slot rcode : Nat)
  | ok (k : KDesc) (code : Nat) (recs : Tab (BitVec 256)) (shares : List Nat)
  deriving DecidableEq, Repr

/-- The admission table (R83): the first check that fails gives the reason. -/
def State.admitLaunch (s : State) (v : Nat) (c : Chain) : Admit :=
  let f := s.vf v
  let p := packetOf c.req
  let verify := p.flags % 2 == 1
  let no (r : Nat) : Admit := .refused r 0xFF 0
  let word : BitVec 128 := if f.tr.featuresOk then f.tr.features else 0
  if kindOf c ≠ some 1 then no 0x41
  else if c.req.length < 128 ∨ !p.zeros ∨ (verify = true ∧ !f.feature 0) then no 0x42
  else match f.containers.find? (fun x => x.ctr == p.ctr) with
  | none => no 0x43
  | some ct =>
    if ct.feat &&& ~~~word ≠ 0 then no 0x44
    else match s.kernelAt ct p.kidx with
    | none => no 0x45
    | some k =>
      if !s.kernelOk v ct k verify then no 0x45
      else if p.recmask ≠ sumOf (k.declared.map (fun i => 2 ^ i)) ∨ c.rest.length < 32 * k.declared.length then no 0x46
      else
        let recs := recordsOf k c.rest
        match badRecord k recs with
        | some (slot, why) => .refused 0x47 slot why
        | none =>
          let n := p.gx * p.gy * p.gz
          let per := k.cw * k.ch
          if n = 0 ∨ 2 ^ 32 - 1 < n ∨ n % per ≠ 0 then no 0x48
          else match s.split v p per with
          | none => no 0x49
          | some shares =>
            let tl (x : Nat) : Bool := x == 0xFF || decide (x ≤ 7)
            if !(List.range 8).any (fun ch => decide (0 < shares.getD ch 0) && s.fits v k verify ch) then no 0x4A
            else if f.priocap < p.prio then no 0x4B
            else if !tl p.waittl ∨ !tl p.sigtl ∨ (!f.feature 1 ∧ (p.waittl ≠ 0xFF ∨ p.sigtl ≠ 0xFF)) then no 0x4C
            else .ok k (match ct.code k with | some x => x.1 | none => 0) recs shares

/-- The launch copies of a VF that are free; the choice among them is a free value (R87, log 16). -/
def State.freeCopies (s : State) (v : Nat) : List Nat :=
  (List.range 256).filter (fun j => (s.accepted v).all (fun l => l.copy != j))

/-- A LAUNCH request read by the front end: refused at once, or accepted with its number and its copy in the guest book (R83, R87, R88). -/
def State.launchRequest (s : State) (v queue : Nat) (c : Chain) : State :=
  if !finalOk c then s.bounce (.vf v) queue c.head
  else
    let p := packetOf c.req
    let f := s.vf v
    match s.admitLaunch v c with
    | .refused r slot why =>
      let own := kindOf c = some 1
      let raise (s : State) : State :=
        if own ∧ 128 ≤ c.req.length ∧ p.flags / 4 % 2 = 1 ∧ p.sigtl ≤ 7 ∧ f.feature 1 then s.raiseTimeline v p.sigtl p.sigval else s
      s.answer (.vf v) queue c.head statusRefused r (if own then p.tag else 0) slot why raise
    | .ok k code recs shares =>
      let free := s.freeCopies v
      let (x, s) := s.freeNat
      let copy := free.getD (x % free.length) 0
      let id := f.launchNo + 1
      let after := if p.flags / 2 % 2 = 1 then ((s.accepted v).filter (fun l => l.queue == queue)).map (fun l => (l.queue, l.head)) else []
      let l : Launch :=
        { vf := v, id := id, queue := queue, head := c.head, gen := f.gen, order := s.cycle, pkt := p, kd := k, codeBase := code, recs := recs, copy := copy
          after := after, ready := none, prio := p.prio, shares := shares, nextCl := (List.range 8).map (fun ch => sumOf (shares.take ch)), requeue := []
          retired := 0, ended := none, rollbacks := 0 }
      let s := s.homeWrite ioPort (s.gbbase + 2 ^ 20 + (256 * v + copy) * 1024) (c.req.take 128 ++ c.rest.take (32 * k.declared.length))
      ({ s with launches := s.launches ++ [l] }.updVf v (fun f => { f with launchNo := id })).refreshReady

def execLaunch (vf queue : Nat) (s : State) : Host.Outcome State Fault Refusal :=
  module s (fun s =>
    match s.frontHead vf queue with
    | some (c, s') => if kindOf c = some 2 then s else s'.launchRequest vf queue c
    | none => s)

/-! ### Administration requests (R76, R89 to R92, R398) -/

/-- The request an administration queue's front end reads next. -/
def State.adminHead (s : State) (i : Fin 2) : Option (Chain × State) :=
  let p := s.pf i
  if !p.ready || p.tr.unusable || !p.adminQ.kicked then none
  else match p.adminQ.avail with
    | [] => none
    | c :: rest => some (c, s.setPf i { p with adminQ := { p.adminQ with avail := rest, readIdx := p.adminQ.readIdx + 1 } })

/-- One request of an administration queue: the event of its kind takes it; one of no kind is refused by whichever reads it (R76). -/
def State.admin (s : State) (i : Fin 2) (kind size : Nat) (go : State → Chain → State) : State :=
  match s.adminHead i with
  | none => s
  | some (c, s') =>
    let others := [0x10, 0x11, 0x12].filter (· != kind)
    if (match kindOf c with | some k => others.contains k | none => false) then s
    else if !finalOk c then s'.bounce (.pf i) 0 c.head
    else if kindOf c ≠ some kind then s'.answer (.pf i) 0 c.head statusRefused 0x41
    else if c.req.length < size then s'.answer (.pf i) 0 c.head statusRefused 0x42
    else go s' c

/-- A partition of its quadrants; the mask's bytes follow the request (R89). -/
def execCreatePart (pf : Fin 2) (s : State) : Host.Outcome State Fault Refusal :=
  module s (fun s => s.admin pf 0x12 16 (fun s c =>
    let idx := fieldAt c.req 1 1
    let mask := fieldAt c.rest 0 128
    let quads := (List.range 1024).filter (fun q => mask.testBit q)
    let no (r : Nat) : State := s.answer (.pf pf) 0 c.head statusRefused r
    if 63 < idx ∨ !zeroAt c.req 2 14 ∨ c.rest.length < 128 then no 0x42
    else if s.parts.has idx then no 0x50
    else if quads.isEmpty then no 0x51
    else if quads.any (fun q => s.parts.any (fun (e : Nat × List Nat) => e.2.contains q)) then no 0x52
    else { s with parts := s.parts.set idx quads }.answer (.pf pf) 0 c.head statusDone 0))

/-- A keep page lies wholly in the rest range (R391). -/
def State.pageRests (s : State) (a : Nat) : Bool := s.inRest a && s.inRest (a + 2 ^ 21 - 1)

/-- The wake class can be guaranteed with the new VF counted (R92, R391). -/
def State.classOk (s : State) (v cls : Nat) (keep : List Nat) : Bool :=
  let others := s.vfs.filter (fun (e : Nat × Vf) => e.1 != v && e.2.created && decide (e.2.wclass ≤ 2))
  let pages := others.flatMap (fun e => e.2.keep)
  decide (2 < cls) ||
    ((pages ++ keep).all s.pageRests && keep.all (fun a => !pages.contains a) && (cls == 0 || decide (0 < s.restsz)))

/-- The keep list in memory: KEEPN physical addresses of pages (R90). -/
def State.keepList (s : State) (a n : Nat) : List Nat := (List.range n).map (fun i => s.mem.nat (a + 8 * i) 8)

/-- A CREATE_VF request (R90 to R92); the power manager sets REFILL and CAP of the new context, which are free values, and fills LEVEL (R212, log 2). -/
def execCreateVf (pf : Fin 2) (s : State) : Host.Outcome State Fault Refusal :=
  module s (fun s => s.admin pf 0x10 64 (fun s c =>
    let r (o n : Nat) : Nat := fieldAt c.req o n
    let cls := r 1 1
    let v := r 2 1
    let idle := r 8 8
    let kl := r 0x10 8
    let kn := r 0x18 4
    let parts := (List.range 64).filter (fun i => (r 0x28 8).testBit i)
    let keep := s.keepList kl kn
    let no (x : Nat) : State := s.answer (.pf pf) 0 c.head statusRefused x
    let f := s.vf v
    let idleOk := if cls = 3 then idle == 0 else decide (1 ≤ idle) && decide (idle < 2 ^ 32)
    if 3 < cls ∨ 127 < v ∨ r 3 1 < 1 ∨ 16 < r 3 1 ∨ 3 < r 4 1 ∨ !zeroAt c.req 5 3 ∨ !idleOk ∨ kl % 8 ≠ 0 ∨ 8192 < kn ∨ (cls = 3 ∧ kn ≠ 0) ∨
        !zeroAt c.req 0x1C 4 ∨ 8 ≤ r 0x20 8 ∨ parts = [] ∨ !zeroAt c.req 0x30 16 then no 0x42
    else if f.enabled ≠ some pf ∨ f.created then no 0x53
    else if parts.any (fun i => !s.parts.has i || s.vfs.any (fun (e : Nat × Vf) => e.2.created && e.2.parts.contains i)) then no 0x54
    else if (decide (0 < kn) && !(implemented kl && implemented (kl + 8 * kn - 1))) || keep.any (fun a => decide (a % 2 ^ 21 ≠ 0) || !isDevice a) ||
        decide ((distinct keep).length ≠ keep.length) then no 0x55
    else if !s.classOk v cls keep then no 0x56
    else
      let pol := r 0x20 8
      let (cap, s) := s.freeNat
      let (rate, s) := s.freeNat
      let s := s.updCtx v (fun c =>
        let base := rate % 65536
        { c with cap := cap % 65536, capRefill := base, refill := if s.boot.throt then base / 2 else base, level := ((cap % 65536 * 1024 : Nat) : Int) })
      let s := s.setVf v { f with created := true, ready := true, wclass := cls, nwq := r 3 1, priocap := r 4 1, idle := idle, keep := keep, parts := parts
                                  devOk := pol.testBit 0, sysOk := pol.testBit 1, act := pol.testBit 2, launchNo := 0, timer := 0 }
      s.answer (.pf pf) 0 c.head statusDone 0))

/-- A DESTROY_VF request (R398). -/
def execDestroyVf (pf : Fin 2) (s : State) : Host.Outcome State Fault Refusal :=
  module s (fun s => s.admin pf 0x11 16 (fun s c =>
    let v := fieldAt c.req 1 1
    let f := s.vf v
    if !zeroAt c.req 2 14 then s.answer (.pf pf) 0 c.head statusRefused 0x42
    else if f.enabled ≠ some pf ∨ !f.created then s.answer (.pf pf) 0 c.head statusRefused 0x53
    else (s.destroyVf v).answer (.pf pf) 0 c.head statusDone 0))

end Sys2Proof.Machine
end

