-- ==== Sys2Proof/Machine/Placement.lean ====
section
/-! DEFINITION. The dispatcher: the order of launches, the resources of quadrants, placing a cluster on a rectangle and starting its teams;
lane failures, steering and quadrants out of service (R86, R88, R93 to R101, R366, R372, R373). -/
namespace Sys2Proof.Machine

/-! ### The order of launches on a chiplet (R86) -/

/-- Whole milliseconds a launch has waited since it became dispatchable. -/
def State.waited (s : State) (l : Launch) : Nat := match l.ready with | some t => (s.cycle - t) / (1000 * Config.cyclesPerUs) | none => 0

/-- A launch with the priority it has now: each whole millisecond of waiting raises it by 1, up to 3. -/
def State.aged (s : State) (l : Launch) : Launch := if l.ready.isSome then { l with prio := min 3 (l.pkt.prio + s.waited l) } else l

def execPriorityAging (s : State) : Host.Outcome State Fault Refusal :=
  module s (fun s => { s with launches := s.launches.map s.aged })

/-- The end of a chiplet's range of clusters (R85). -/
def Launch.rangeEnd (l : Launch) (chiplet : Nat) : Nat := sumOf (l.shares.take (chiplet + 1))

/-- The cluster a launch places next on a chiplet, with the retries it carries: a rolled-back one first, the lowest index among several (R86, R366). -/
def Launch.nextOn (l : Launch) (chiplet : Nat) : Option (Nat × Nat) :=
  match (sortBy (fun (a b : Nat × Nat) => decide (a.1 < b.1)) (l.requeue.filter (fun x => l.chipletOf x.1 == chiplet))).head? with
  | some x => some x
  | none =>
    let j := l.nextCl.getD chiplet 0
    if j < l.rangeEnd chiplet then some (j, 0) else none

/-- A launch stands before another: higher priority, accepted earlier, lower queue, and, where R86 decides no more, lower number, then the order of the list
(DESIGN CHOICE, log 37). -/
def Launch.before (a b : Launch) : Bool :=
  decide (b.prio < a.prio) || (a.prio == b.prio && (decide (a.order < b.order) || (a.order == b.order &&
    (decide (a.queue < b.queue) || (a.queue == b.queue && decide (a.id < b.id))))))

/-- The first launch in order, by the priorities of this cycle, that still has a cluster to place on a chiplet. -/
def State.firstLaunch (s : State) (chiplet : Nat) : Option Launch :=
  (sortBy Launch.before ((s.launches.map s.aged).filter (fun (l : Launch) => l.ready.isSome && l.ended.isNone && (l.nextOn chiplet).isSome))).head?

/-! ### Resources of a quadrant (R93, R94, R372, R373) -/

/-- Teams that hold resources of a quadrant, each with its slot. -/
def State.slotsOn (s : State) (q : Nat) : List (Team × Nat) :=
  s.clusters.flatMap (fun c => (c.teams.filter (fun t => t.quads.contains q)).map (fun t => (t, t.slotOf q)))

/-- A team's context is HALTED on a quadrant, so that another context may claim its parts there. -/
def State.yields (s : State) (q v : Nat) (t : Team) : Bool :=
  t.ref.vf != v && (match ((s.quad q).out).find? (fun (e : Nat × Outgoing) => e.1 == t.ref.vf) with
    | some (_, o) => decide (o.st = .halted)
    | none => false)

/-- The register rows of one block of a team. -/
def State.blockRows (s : State) (t : Team) : Nat := match s.kd? t.ref with | some k => k.regs | none => 0

/-- Register rows that a slot of a team holds: its groups' blocks, and those of their seconds (R93, R368). -/
def State.slotRows (s : State) (t : Team) (slot : Nat) : Nat :=
  s.blockRows t * ((t.places.getD slot []).length + (t.seconds.getD slot []).length)

/-- Parts of a team that have been spilt from a quadrant (R373). -/
def State.spiltOf (s : State) (q : Nat) (t : Team) : Outgoing :=
  (((s.quad q).out.find? (fun (e : Nat × Outgoing) => e.1 == t.ref.vf)).map (·.2)).getD { st := .halting, rows := [], banks := [], acc := false, bsramGone := false }

/-- Register rows of a quadrant that one block of a team takes: with a second, twice its own (R93, R368). -/
def State.rowsPer (s : State) (t : Team) (slot : Nat) : Nat := if (t.seconds.getD slot []).isEmpty then s.blockRows t else 2 * s.blockRows t

/-- Register rows that a halted slot still holds: those of its blocks that have not been spilt. -/
def State.unspiltRows (s : State) (q : Nat) (t : Team) (slot : Nat) : Nat :=
  s.slotRows t slot - s.rowsPer t slot * ((s.spiltOf q t).rows.filter (fun x => x.1 == t.ref)).length

/-- Banks that a halted slot still holds. -/
def State.unspiltBanks (s : State) (q : Nat) (t : Team) (slot : Nat) : List Nat :=
  (t.banks.getD slot []).filter (fun b => !(s.spiltOf q t).banks.contains (t.ref, b))

/-- What is free on a quadrant for a context, counting or not counting what it may claim of a halted one. -/
structure FreeOn where
  places : List Nat
  rows : Nat
  banks : List Nat
  matrix : Bool
  deriving DecidableEq, Repr

def State.freeOn (s : State) (q v : Nat) (claim : Bool) : FreeOn :=
  let all := s.slotsOn q
  let here := all.filter (fun x => !s.yields q v x.1)
  let away := if claim then [] else all.filter (fun x => s.yields q v x.1)
  let busy := here.flatMap (fun x => x.1.places.getD x.2 [] ++ x.1.seconds.getD x.2 [])
  let taken := here.flatMap (fun x => x.1.banks.getD x.2 []) ++ away.flatMap (fun x => s.unspiltBanks q x.1 x.2)
  { places := (List.range 16).filter (fun p => !busy.contains p)
    rows := 2048 - sumOf (here.map (fun x => s.slotRows x.1 x.2)) - sumOf (away.map (fun x => s.unspiltRows q x.1 x.2))
    banks := ((List.range 32).map (fun b => 32 * (q % 4) + b)).filter (fun b => !taken.contains b)
    matrix := here.all (fun x => !x.1.hasMatrix) }

/-- A fused cluster stands on a core: until its last team has retired, or all of it is HALTED with its caches separated (R99). -/
def State.fusedCore (s : State) (core : Nat) : Bool :=
  s.clusters.any (fun c => c.teams.any (fun t => t.core == core && (match s.kd? t.ref with | some k => k.flags.testBit 0 | none => false)) &&
    !c.teams.all (fun t => t.quads.all (fun q => match ((s.quad q).out).find? (fun (e : Nat × Outgoing) => e.1 == t.ref.vf) with
      | some (_, o) => decide (o.st = .halted)
      | none => false)))

/-- Any team of any cluster stands on a core. -/
def State.usedCore (s : State) (core : Nat) : Bool := s.clusters.any (fun c => c.teams.any (fun t => t.core == core && !t.quads.isEmpty))

/-- A quadrant can take slot `i` of a team now (R94, R372). -/
def State.takes (s : State) (v : Nat) (k : KDesc) (verify : Bool) (i q : Nat) : Bool :=
  let need := k.slotNeeds verify i
  let two := if verify then 2 else 1
  let f := s.freeOn q v true
  (s.usableQuads v).contains q && !(s.quad q).dead && decide (need.1 * two ≤ f.places.length) && decide (need.1 * two * k.regs ≤ f.rows) &&
    decide (need.2 ≤ f.banks.length) && (k.mentry == allOnes || f.matrix)

/-- The rectangle a cluster takes on a chiplet now (R95, R99). A quadrant out of service still belongs to its partition, so its core may hold a fused cluster
(log 59). -/
def State.findPlace (s : State) (v : Nat) (k : KDesc) (verify : Bool) (chiplet : Nat) : Option (Nat × Nat × List (List Nat)) :=
  findRect k.cw k.ch (fun core =>
    let no := 32 * chiplet + core
    let qs := (List.range 4).map (fun i => 4 * no + i)
    if s.fusedCore no || (k.flags.testBit 0 && (s.usedCore no || !qs.all (fun q => (s.ownQuads v).contains q && (s.quad q).lentTo.isNone))) then none
    else firstSet (s.takes v k verify) (k.footprint verify) 0 qs)

/-! ### Claiming (R96, R98, R372, R373) -/

/-- Some of a list's members, each chosen by a free value (R96 does not say which places; log 16). -/
def pickFree (tick : Nat) : Nat → List Nat → List Nat
  | 0, _ => []
  | n + 1, l =>
    let x := l.getD (Config.freeNat tick % l.length) 0
    x :: pickFree (tick + 1) n (l.filter (· != x))

/-- Blocks of halted teams whose rows are claimed to make up for rows that are not free. -/
def claimRows (s : State) (q : Nat) : Nat → List (TeamRef × Nat) → List (TeamRef × Nat)
  | _, [] => []
  | need, (r, b) :: rest =>
    if need = 0 then []
    else
      let n := match s.team? r with | some t => s.rowsPer t (t.slotOf q) | none => 0
      (r, b) :: claimRows s q (need - n) rest

/-- What a slot claims of a halted context on its quadrant: blocks, banks, and the B-SRAM share. -/
structure Claim where
  quad : Nat
  owner : Nat
  rows : List (TeamRef × Nat)
  banks : List (TeamRef × Nat)
  share : Bool
  deriving DecidableEq, Repr

/-- The banks slot `i` takes on a quadrant: the lowest-numbered free ones, then the lowest of those it claims (R98, R375). -/
def State.slotBanks (s : State) (v q n : Nat) : List Nat :=
  let free := (s.freeOn q v false).banks
  let more := (s.freeOn q v true).banks.filter (fun b => !free.contains b)
  (free ++ more).take n

/-- The claims a new slot makes on the halted context of a quadrant, beyond what is free (R372, R373). -/
def State.claims (s : State) (v : Nat) (k : KDesc) (verify : Bool) (i q : Nat) : List Claim :=
  let need := k.slotNeeds verify i
  let rows := need.1 * (if verify then 2 else 1) * k.regs
  let free := s.freeOn q v false
  let halted := (s.quad q).out.filter (fun (e : Nat × Outgoing) => e.1 != v && decide (e.2.st = .halted))
  let blocks := claimRows s q (rows - free.rows) (halted.flatMap (fun e => (s.rowsOf e.1 q).filter (fun x => !e.2.rows.contains x)))
  let banks := s.slotBanks v q need.2
  halted.map (fun e =>
    { quad := q, owner := e.1, rows := blocks.filter (fun x => x.1.vf == e.1)
      banks := (s.banksOf e.1 q).filter (fun x => banks.contains x.2 && !e.2.banks.contains x), share := k.mentry != allOnes })

/-! ### Starting a cluster (R32, R97, R182, R186, R201, R203) -/

/-- A team at its start: threads, groups, sequencers, barriers and rings. -/
def Team.start (l : Launch) (j i core : Nat) (quads : List Nat) (places seconds banks : List (List Nat)) : Team :=
  let k := l.kd
  let n := k.tx * k.ty * k.tz / 32
  let slots := quads.length
  let pcAt (off : Nat) : Pc := BitVec.ofNat 57 (l.codeBase + off)
  let porter (g : Nat) : Bool := decide (g < k.porters)
  let regs := l.startRegs
  let mtx := k.mentry != allOnes
  { ref := { vf := l.vf, launch := l.id, cluster := j, cteam := i }, teamId := j * (k.cw * k.ch) + i, core := core, quads := quads, places := places
    seconds := seconds, banks := banks
    threads := (List.range n).flatMap (fun g => (List.range 32).map (fun lane =>
      let u := 32 * g + lane
      Thread.start g lane k.regs (porter g) (pcAt (if porter g then k.pentry else k.entry)) (u % k.tx) (u / k.tx % k.ty) (u / (k.tx * k.ty))))
    groups := (List.range n).map (fun g =>
      Group.start ((places.getD (g % slots) []).getD (g / slots) 0) (g % slots) (porter g) (List.replicate 32 (some g)) regs)
    stack := [], nextEntry := 0, waiting := [], reorder := [], pool := [], spawned := [], spad := [], absent := [], objs := [], arrived := [], badLines := [], bsram := [], badBsram := []
    acc := [], ports := [], seqs := if mtx then (List.range slots).map (fun q => Seq.start q (pcAt k.mentry) l.pkt.args) else []
    barriers := List.replicate 16 (Barrier.start (n + (if mtx then slots else 0))), rings := List.replicate k.rings Ring.start, ringerr := 0, cairnkey := 0
    keyLog := [], pend := [], stageLog := [], staged := [], haltedAt := none, retired := false }

/-- The groups of a new team join the queues of their quadrants in ascending place (R127). -/
def State.startTeam (s : State) (t : Team) : State :=
  (sortBy (fun (a b : Group) => decide (a.place < b.place)) t.groups).foldl (fun (s : State) g =>
    s.updQuad (t.quads.getD g.slot 0) (fun q => { q with queue := q.queue ++ [(t.ref, g.place)] })) s

/-- The teams of a cluster on the quadrants found for it; each slot's places are picked from the free ones. -/
def State.buildTeams (s : State) (l : Launch) (j : Nat) : Nat → List (List Nat) → State × List Team
  | _, [] => (s, [])
  | i, quads :: rest =>
    let v := l.vf
    let need (n : Nat) : Nat × Nat := l.kd.slotNeeds l.verify n
    let picked := quads.mapIdx (fun n q =>
      pickFree (s.tick + 32 * n) ((need n).1 * (if l.verify then 2 else 1)) (s.freeOn q v true).places)
    let places := picked.mapIdx (fun n ps => ps.take (need n).1)
    let seconds := picked.mapIdx (fun n ps => ps.drop (need n).1)
    let banks := quads.mapIdx (fun n q => s.slotBanks v q (need n).2)
    let t := Team.start l j i (quads.headD 0 / 4) quads places seconds banks
    let (s, ts) := { s with tick := s.tick + 128 }.buildTeams l j (i + 1) rest
    (s, t :: ts)

/-- The slot of a rolled-back cluster that has been placed elsewhere becomes FREE, unless another cluster has taken it (R366). -/
def State.freeOldEntry (s : State) (c : Cluster) (now : Nat) : State :=
  if c.gbQuad = now || !s.ownsEntry c then s else s.writeEntry { c with st := .free }

/-- A cluster is placed: parts of halted contexts are spilt, every resource is claimed, its entry is written, and its groups start (R88, R96, R366). -/
def State.placeCluster (s : State) (l : Launch) (chiplet j retries : Nat) (x0 y0 : Nat) (sets : List (List Nat)) : State :=
  let claims := sets.flatMap (fun quads => (quads.mapIdx (fun i q => s.claims l.vf l.kd l.verify i q)).flatten)
  if !claims.all (fun c => s.spillable c.rows c.banks) then s
  else
    let (s1, teams) := s.buildTeams l j 0 sets
    let s := claims.foldl (fun (s : State) c => s.spill c.owner c.quad c.rows c.banks c.share) s1
    let low := sets.foldl (fun m quads => quads.foldl min m) 1023
    let s := match s.cluster? l.vf l.id j with | some old => (s.freeOldEntry old low).delCluster old | none => s
    let c : Cluster :=
      { vf := l.vf, gen := l.gen, launch := l.id, idx := j, kidx := l.pkt.kidx, ctr := l.pkt.ctr, firstTeam := j * (l.kd.cw * l.kd.ch), chiplet := chiplet
        x0 := x0, y0 := y0, copy := l.copy, gbQuad := low, escaped := false, verify := l.verify, retries := retries, st := .placed, teams := teams }
    let again := l.requeue.any (fun x => x.1 == j)
    let l' := if again then { l with requeue := l.requeue.filter (fun x => x.1 != j) } else { l with nextCl := l.nextCl.set chiplet (j + 1) }
    let s := ({ s with clusters := s.clusters ++ [c] }.setLaunch l').writeEntry c
    -- what the cores of a fused cluster still hold for others leaves them, so that each line is held only in its own core (R99)
    let s := s.unfuse c
    teams.foldl (fun (s : State) t => s.startTeam t) s

/-- Accepted launches of a VF that no longer fit on a chiplet where they still have a cluster to place complete REFUSED with FIT once their placed
clusters have retired (R100). One with no cluster left to place there goes on (DEDUCED, log 37). -/
def State.refit (s : State) (v chiplet : Nat) : State :=
  if !(s.ownQuads v).any (fun q => q / 128 == chiplet && (s.quad q).dead) then s
  else
    ((s.accepted v).filter (fun l => l.ended.isNone && (l.nextOn chiplet).isSome && !s.fits v l.kd l.verify chiplet)).foldl (fun (s : State) l =>
      let s := s.setLaunch { l with ended := some (statusRefused, 0x4A), requeue := [] }
      let gone := s.clusters.filter (fun c => c.vf == v && c.launch == l.id && decide (c.st = .rollback))
      let s := gone.foldl (fun (s : State) c => (if s.ownsEntry c then s.writeEntry { c with st := .killed } else s).delCluster c) s
      s.finishLaunch v l.id) s

/-- The dispatcher of a chiplet places the next cluster of the first launch in order, if it fits; a VF that is PAUSED starts none (R86, R95, R96, R371; log 39). -/
def execClusterPlace (chiplet : Nat) (s : State) : Host.Outcome State Fault Refusal :=
  module s (fun s =>
    let s := (distinct (s.launches.map (·.vf))).foldl (fun (s : State) v => s.refit v chiplet) s
    match s.firstLaunch chiplet with
    | none => s
    | some l =>
      if s.preemptHolds l.vf || decide ((s.vf l.vf).runstate = .paused) then s
      else match l.nextOn chiplet, s.findPlace l.vf l.kd l.verify chiplet with
        | some (j, retries), some (x0, y0, sets) => s.placeCluster l chiplet j retries x0 y0 sets
        | _, _ => s)

/-! ### The spare lane (R100, R101) -/

/-- A quadrant's register shows the failure of a lane, or its steering is under way. -/
def Quad.knows (x : Quad) (lane : Nat) : Bool := (x.steered && x.flane == lane) || x.steering == some lane || (x.sparebad && lane == 32)

/-- A quadrant out of service: its clusters act as if they had consumed an uncorrectable error, and launches that no longer fit end (R100, R363). -/
def State.outOfService (s : State) (q : Nat) : State :=
  let s := s.updQuad q (fun x => { x with dead := true, steering := none })
  let refs := (s.slotsOn q).map (fun x => x.1.ref)
  let s := refs.foldl (fun (s : State) r => s.consume r) s
  (distinct (s.launches.map (·.vf))).foldl (fun (s : State) v => s.refit v (q / 128)) s

/-- A physical lane fails: it is recorded and counted, also in the repair record; a first failure of lanes 0 to 31 is steered around, a second failure takes the
quadrant out of service (R100, R101). A report about a quadrant that is DEAD already is neither counted nor recorded (DESIGN CHOICE, log 38). -/
def State.laneFails (s : State) (q lane : Nat) : State :=
  let x := s.quad q
  if x.dead || x.knows lane || 32 < lane then s
  else
    let second := x.steered || x.steering.isSome || x.sparebad
    let s := if s.boot.repair.contains (q, lane) then s else { s with boot := { s.boot with repair := s.boot.repair ++ [(q, lane)] } }
    let s := s.setQuad q { x with failcnt := min 255 (x.failcnt + 1), sparebad := x.sparebad || lane == 32
                                  steering := if second || lane == 32 then x.steering else some lane }
    if second then s.outOfService q else s

def execLaneFailure (quad lane : Nat) (s : State) : Host.Outcome State Fault Refusal := module s (fun s => s.laneFails quad lane)

/-- The multiplexers switch once no run is in progress, and the groups resume (R100). -/
def execLaneSteer (quad : Nat) (s : State) : Host.Outcome State Fault Refusal :=
  module s (fun s =>
    let x := s.quad quad
    match x.steering with
    | some f => if x.holder.isSome then s else s.setQuad quad { x with steering := none, steered := true, flane := f }
    | none => s)

/-- Writing GO in a lane register: the named lane is retired as if it had failed, unless the quadrant holds a group or is DEAD (R101). -/
def State.laneGo (s : State) (q lane : Nat) : State :=
  if (s.quad q).dead || (s.slotsOn q).any (fun x => x.1.groups.any (fun g => g.slot == x.2)) then s else s.laneFails q lane

def execLaneGo (_pf : Fin 2) (quad lane : Nat) (s : State) : Host.Outcome State Fault Refusal :=
  module s (fun s => if lane < 32 then s.laneGo quad lane else s)

end Sys2Proof.Machine
end

