-- ==== Sys2Proof/Machine/Fabric.lean ====
section
/-! DEFINITION. The fabric: lanes of each direction of a pair, marginal lanes and their training, lost colours and relayed traffic, dark planes
(R238 to R241, R388, R400, R405). -/
namespace Sys2Proof.Machine

/-- The port pairs (R241). -/
def allPairs : List (Nat × Nat) := (List.range 25).flatMap (fun i => ((List.range 25).filter (fun j => decide (i < j))).map (fun j => (i, j)))

/-- Lanes in DRAIN or TRAIN that count toward the limit of two: not those in TRAIN because their plane went dark, until they leave it (R239, R400). -/
def FDir.training (d : FDir) : Nat := (d.lanes.filter (fun l => (decide (l.st = .drain) || decide (l.st = .train)) && !l.exempt)).length

/-- A marginal lane goes to DRAIN while fewer than two lanes train; otherwise it stays ACTIVE until one leaves TRAIN (R239). -/
def FDir.mark (d : FDir) (n : Nat) : FDir :=
  if d.st n ≠ .active then d
  else { d with lanes := updAt d.lanes n (fun l => if d.training < 2 then { l with st := .drain, marginal := false } else { l with marginal := true }) }

/-- Marginal lanes that waited go to DRAIN, lowest first, as far as the limit allows (R239). -/
def FDir.promote (d : FDir) : FDir :=
  (List.range 8).foldl (fun (d : FDir) n => if (match d.lanes[n]? with | some l => l.marginal | none => false) then d.mark n else d) d

/-- A window ends: its corrected bits are sampled, and more than 4,096 make the lane marginal (R239, R388). -/
def execFecWindowEnd (lane : LaneRef) (corrected : Nat) (s : State) : Host.Outcome State Fault Refusal :=
  module s (fun s =>
    let d := lane.dir
    let s := s.sampleLane (pairKey d.src d.dst) lane.lane (decide (d.dst < d.src)) corrected
    if 4096 < corrected then s.updDir d (fun x => x.mark lane.lane) else s)

/-- The lane charged most often, the lowest among ties. -/
def mostCharged (l : List Nat) : Nat :=
  (List.range 8).foldl (fun best n => if (l.filter (· == best)).length < (l.filter (· == n)).length then n else best) 0

/-- A flit is resent: it travels again, is counted and is charged to the lanes reported, or to every lane that carried a beat; at 8 resends of one flit the lane charged
most is marginal. Whether it is the flit of the resend before is a free value (log 2): the spec's steps do not say when a flit ends. -/
def execResend (dir : DirRef) (charged : List Nat) (s : State) : Host.Outcome State Fault Refusal :=
  module s (fun s =>
    if dir.src = dir.dst ∨ 25 ≤ dir.src ∨ 25 ≤ dir.dst then s
    else
      let (same, s) := s.freeBool
      let k := pairKey dir.src dir.dst
      let s := s.setPair k { s.pair k with resends := satInc (s.pair k).resends }
      let s := s.sendOver dir.src dir.dst 1
      s.updDir dir (fun d =>
        let old : List Nat := if same then d.charges else []
        let n := (if same then d.flitResends else 0) + 1
        let l := old ++ (if charged.isEmpty then d.carrying else charged)
        if 8 ≤ n then { d with charges := [], flitResends := 0 }.mark (mostCharged l) else { d with charges := l, flitResends := n }))

/-- At the flit boundary a draining lane leaves the active set. -/
def execLaneDrainEnd (lane : LaneRef) (s : State) : Host.Outcome State Fault Refusal :=
  module s (fun s => s.updDir lane.dir (fun d =>
    if d.st lane.lane = .drain then { d.setLane lane.lane (fun l => { l with st := .train, fails := 0 }) with charges := [], flitResends := 0 } else d))

/-- A lane trains: in TRAIN, and not waiting for its plane. -/
def FDir.trains (d : FDir) (n : Nat) : Bool := match d.lanes[n]? with | some l => decide (l.st = .train) && !l.darkWait | none => false

def execLaneTrainPass (lane : LaneRef) (s : State) : Host.Outcome State Fault Refusal :=
  module s (fun s => s.updDir lane.dir (fun d =>
    if d.trains lane.lane then { d with lanes := updAt d.lanes lane.lane (fun l => { l with st := .ready, exempt := false }) }.promote else d))

/-- A training attempt fails; the third makes the lane DEAD. -/
def execLaneTrainFail (lane : LaneRef) (s : State) : Host.Outcome State Fault Refusal :=
  module s (fun s => (s.updDir lane.dir (fun d =>
    if d.trains lane.lane then
      { d with lanes := updAt d.lanes lane.lane (fun l => if 2 ≤ l.fails then { l with st := .dead, fails := 3, exempt := false } else { l with fails := l.fails + 1 }) }.promote
    else d)).route)

/-- At a flit boundary a READY lane rejoins the active set, and RETRAINS increments (R239, R241). -/
def execLaneHandback (lane : LaneRef) (s : State) : Host.Outcome State Fault Refusal :=
  module s (fun s =>
    let d := lane.dir
    if d.src = d.dst ∨ 25 ≤ d.src ∨ 25 ≤ d.dst ∨ (s.dirOf d.src d.dst).st lane.lane ≠ .ready then s
    else
      let k := pairKey d.src d.dst
      let s := s.setPair k { s.pair k with retrains := satInc (s.pair k).retrains }
      (s.updDir d (fun x => { (x.setLane lane.lane (fun l => { l with st := .active, fails := 0 })).backIn with charges := [], flitResends := 0 })).route)

/-- Lock is lost on the four lanes of a colour: those that are not DEAD are LOST, and the pair halves or belays (R239, R240). -/
def execColourLost (dir : DirRef) (colour : Fin 2) (s : State) : Host.Outcome State Fault Refusal :=
  module s (fun s => (s.updDir dir (fun d =>
    let d := { d with rot := 0, out := if d.out.contains colour.val then d.out else d.out ++ [colour.val]
                      lanes := d.lanes.mapIdx (fun n (l : FLane) => if n % 2 = colour.val ∧ l.st ≠ LaneState.dead then { l with st := .lost, marginal := false, darkWait := false, exempt := false } else l) }
    d.promote)).route)

/-- Lock returns on the colour's lanes, which each train; a lane of a dark plane waits until it is lit (R239, R240, R400). -/
def execColourRegained (dir : DirRef) (colour : Fin 2) (s : State) : Host.Outcome State Fault Refusal :=
  module s (fun s => (s.updDir dir (fun d =>
    { d with lanes := d.lanes.mapIdx (fun n (l : FLane) =>
        if n % 2 = colour.val ∧ l.st = LaneState.lost then { l with st := .train, fails := 0, darkWait := s.boot.planedark.getLsbD (n / 2), exempt := s.boot.planedark.getLsbD (n / 2) } else l) })).route)

/-- The written MODE and RELAY take effect in one direction (R241). -/
def execRoutingApply (dir : DirRef) (s : State) : Host.Outcome State Fault Refusal :=
  module s (fun s =>
    let p := s.pair (pairKey dir.src dir.dst)
    (s.updDir dir (fun d => { d with mode := p.mode, relay := p.relay, charges := [], flitResends := 0 })).route)

/-- Both directions of every pair changed. -/
def State.everyDir (s : State) (h : FDir → FDir) : State :=
  allPairs.foldl (fun (s : State) x => s.setPair (pairKey x.1 x.2) { s.pair (pairKey x.1 x.2) with a := h (s.pair (pairKey x.1 x.2)).a, b := h (s.pair (pairKey x.1 x.2)).b }) s

/-- A plane goes dark: its lanes leave every active set and wait in TRAIN (R400). -/
def execPlaneDark (plane : Fin 4) (s : State) : Host.Outcome State Fault Refusal :=
  module s (fun s =>
    let s := { s with boot := { s.boot with planedark := s.boot.planedark ||| BitVec.ofNat 4 (2 ^ plane.val) } }
    (s.everyDir (fun d => { d with rot := 0, lanes := d.lanes.mapIdx (fun n (l : FLane) =>
      if n / 2 = plane.val ∧ l.st ≠ LaneState.dead ∧ l.st ≠ LaneState.lost then { l with st := .train, fails := 0, darkWait := true, exempt := true, marginal := false } else l) }.promote)).route)

/-- A dark plane is lit again: its waiting lanes train (R400). -/
def execPlaneLit (plane : Fin 4) (s : State) : Host.Outcome State Fault Refusal :=
  module s (fun s =>
    let s := { s with boot := { s.boot with planedark := s.boot.planedark &&& ~~~(BitVec.ofNat 4 (2 ^ plane.val)) } }
    s.everyDir (fun d => { d with lanes := d.lanes.mapIdx (fun n (l : FLane) => if n / 2 = plane.val then { l with darkWait := false } else l) }))

/-- Boot stage FABRIC: every lane is trained, or boot fails with FAILCODE 3 (R405, R406). -/
def execFabricTrain (ok : Bool) (s : State) : Host.Outcome State Fault Refusal :=
  module s (fun s =>
    if s.boot.stage ≠ 3 then s
    else if !ok then { s with boot := { s.boot with stage := 15, failcode := 3 } }
    else
      let s := s.everyDir (fun d => { d with rot := 0, out := [], lanes := d.lanes.mapIdx (fun n (_ : FLane) =>
        let dark := s.boot.planedark.getLsbD (n / 2)
        { st := if dark then .train else .active, fails := 0, darkWait := dark, exempt := dark, marginal := false }) })
      { s with boot := { s.boot with stage := 4 } }.route)

end Sys2Proof.Machine
end

