-- ==== Sys2Proof/Machine/Rest.lean ====
section
/-! DEFINITION. Microsecond boundaries with their energy refill and idle timers, bivouac, the rest banks, and the clearing of monitors
(R211, R212, R387 to R397, R399, R403). -/
namespace Sys2Proof.Machine

/-- One microsecond boundary: the power manager sets every REFILL, halved while THROT is set and lower, by a free value, while the module draws more than
its limit (log 26), and refills every LEVEL up to CAP × 1,024 (R24, R211, R399, R403); the idle timer of each idle VF goes on by 1 and every other
one returns to 0 (R392). The input power measured next is a free value (log 2), within the limit when the one before has been above it for 1 ms (R403). -/
def execEnergyRefill (s : State) : Host.Outcome State Fault Refusal :=
  module s (fun s =>
    if s.usec ≤ s.refilled then s
    else
      let (x, s) := s.freeNat
      let (watts, s) := s.freeNat
      let rate (c : Ctx) : Nat :=
        let base := if s.boot.throt then c.capRefill / 2 else c.capRefill
        if s.boot.pwrlim < s.boot.pwrnow then min (x % base) base else base
      let since := if s.boot.pwrlim < s.boot.pwrnow then some (s.boot.overSince.getD s.refilled) else none
      let now := if (match since with | some t => decide (t + 1000 ≤ s.refilled + 1) | none => false) then min (watts % 4096) s.boot.pwrlim else watts % 4096
      { s with refilled := s.refilled + 1
               boot := { s.boot with pwrnow := now, overSince := since }
               ctxs := s.ctxs.map (fun (e : Nat × Ctx) =>
                 let c := e.2;
                 (e.1, { c with refill := rate c, level := min ((c.cap * 1024 : Nat) : Int) (c.level + ((rate c : Nat) : Int)) }))
               vfs := s.vfs.map (fun (e : Nat × Vf) =>
                 (e.1, { e.2 with timer := if s.idle e.1 && decide (e.2.bstate = .active) then e.2.timer + 1 else 0 })) })

/-! ### Bivouac (R394 to R397) -/

/-- The idle timer has reached IDLE: collapse begins, and every new entry of a work queue will bring a notify (R394, R395). The COLLAPSED event is
written when the steps complete, as R426 gives it (DEDUCED, log 67). -/
def execCollapseBegin (vf : Nat) (s : State) : Host.Outcome State Fault Refusal :=
  module s (fun s =>
    let f := s.vf vf
    if !s.idle vf || decide (f.bstate ≠ .active) || decide (f.timer < f.idle) then s
    else
      let told (q : VQueue) : VQueue := { q with availEvent := (q.readIdx + q.avail.length) % 65536, noNotify := false }
      s.setVf vf { f with bstate := .collapsing, collapses := satInc f.collapses, timer := 0, collapseStep := 2
                          told := (List.range f.nwq).map (fun q => (q, (f.queues.get q VQueue.reset).availEvent, (f.queues.get q VQueue.reset).noNotify))
                          queues := (List.range f.nwq).foldl (fun (t : Tab VQueue) q => t.set q (told (t.get q VQueue.reset))) f.queues })

/-- A context's blocks leave every chiplet cache and the L1s below it, as far as the notice buffers take them (R323, R395 step 3). -/
def State.flushContext (s : State) (v : Nat) : State :=
  (s.coh.l2.filter (fun (e : L2Entry) => e.ctx == v)).foldl (fun (s : State) e =>
    if isDevice (64 * e.block) && decide (1024 ≤ (s.coh.notices.filter (fun (n : Notice) => n.chiplet == e.chiplet)).length) then s
    else s.evict e.chiplet e.block v) s

/-- A collapsed W2 VF lends its quadrants to the VF that LENDVF names, when that one is created and not collapsed; a quadrant that holds another
context's spilt state only to that context (R374, R395 step 5). -/
def State.lend (s : State) (v : Nat) : State :=
  let f := s.vf v
  let b := f.lendvf.toNat
  if f.wclass ≠ 2 ∨ b = v ∨ 128 ≤ b ∨ !(s.vf b).created ∨ (s.vf b).bstate = .collapsed then s
  else (s.ownQuads v).foldl (fun (s : State) q =>
    if (s.quad q).out.all (fun (e : Nat × Outgoing) => e.1 == b) then (s.updQuad q (fun x => { x with lentTo := some b })).restart b q else s) s

/-- The collapse steps are done: caches and TLBs hold nothing of the context, quadrants are lent, and the VF is COLLAPSED with its event (R394, R395,
R426). -/
def execCollapseComplete (vf : Nat) (s : State) : Host.Outcome State Fault Refusal :=
  module s (fun s =>
    if (s.vf vf).bstate ≠ .collapsing then s
    else
      let s := { s with icache := s.icache.map (fun (e : Nat × List ILine) => (e.1, e.2.filter (fun l => l.ctx != vf)))
                        tlb := s.tlb.filter (fun (e : TlbEntry) => e.ctx != vf) }
      let s := s.flushContext vf
      if s.coh.l2.any (fun (e : L2Entry) => e.ctx == vf) then s
      else
        let f := s.vf vf
        let s := (s.updVf vf (fun f => { f with bstate := .collapsed, collapseStep := 5 })).lend vf
        s.raiseEvent vf { kind := 3, cause := f.wclass, gen := f.gen, cluster := 0, launchId := 0, retries := 0 })

/-- Another context is not yet HALTED on a quadrant. -/
def Quad.othersHalting (q : Quad) (v : Nat) : Bool := q.out.any (fun (e : Nat × Outgoing) => e.1 != v && decide (e.2.st ≠ .halted))

/-- The wake steps: lent quadrants are reclaimed and spilt, the rest banks leave self-refresh, and the VF is ACTIVE with its WOKEN event; the front
end reads its queues (R394, R396, R397). -/
def execWakeComplete (vf : Nat) (s : State) : Host.Outcome State Fault Refusal :=
  module s (fun s =>
    let f := s.vf vf
    if f.bstate ≠ .waking then s
    else
      let mine := s.ownQuads vf
      let s := mine.foldl (fun (s : State) q => s.reclaim q) s
      if mine.any (fun q => (s.quad q).othersHalting vf) then s
      else
        let s := mine.foldl (fun (s : State) q => ((s.quad q).out.filter (fun (e : Nat × Outgoing) => e.1 != vf)).foldl (fun (s : State) e => s.spillAll e.1 q) s) s
        if !mine.all (fun q => (s.quad q).out.all (fun (e : Nat × Outgoing) => e.1 == vf || s.allSpilt e.1 q)) then s
        else
          let us := ceilDiv (s.cycle - f.wakeAt.getD s.cycle) Config.cyclesPerUs
          let kick (q : VQueue) : VQueue := { q with kicked := true }
          let s := s.leaveRest.updVf vf (fun f =>
            { f with bstate := .active, wakeAt := none, collapseStep := 0, told := [], timer := 0, lastwake := BitVec.ofNat 32 (min us (2 ^ 32 - 1))
                     queues := (List.range f.nwq).foldl (fun (t : Tab VQueue) q => t.set q (kick (t.get q VQueue.reset))) f.queues })
          (s.sample 4 vf us).raiseEvent vf { kind := 4, cause := f.wclass, gen := f.gen, cluster := us, launchId := 0, retries := 0 })

/-! ### Rest banks and monitors (R387, R391) -/

/-- A request for a block of the rest range waits at a stack's home: in its queue, behind a host's answer, from a peer, from a page walk, or from the module
itself (R321, R391). -/
def State.restWaits (s : State) (stack : Nat) : Bool :=
  let here (b : Nat) : Bool := isDevice (64 * b) && s.inRest (64 * b) && decide (s.homeStack (64 * b) = stack)
  (s.coh.homes.get stack []).any (fun r => s.inRest (64 * r.block)) || s.coh.backInv.any (fun x => here x.2.1) ||
    s.peerReqs.any (fun x => (blocksOf x.2.1 (peerSize x.2.2.1)).any here) || s.coh.owed.any (fun w => (blocksOf w.2.1 w.2.2.length).any here) ||
    s.walkWait.any (fun x => (s.walkReads x.1 x.2.1 (x.2.2.1 * 4096) ++ s.walkSets x.2.1 (x.2.2.1 * 4096)).any here)

/-- The rest banks of a stack may enter self-refresh. -/
def State.mayRest (s : State) (stack : Nat) : Bool :=
  decide (0 < s.restsz) &&
    s.vfs.all (fun (e : Nat × Vf) => !e.2.created || !e.2.keep.any s.pageRests || (decide (e.2.bstate = .collapsed) && (e.2.wclass == 1 || e.2.wclass == 2))) &&
    !s.restWaits stack

def execSelfRefreshEntry (stack : Nat) (s : State) : Host.Outcome State Fault Refusal :=
  module s (fun s => if stack < 16 && s.mayRest stack then s.setStack stack { s.stack stack with selfRefresh := true } else s)

/-- MIN, MAX, COUNT and every bucket return to their reset values (R387); the samples of this cycle count after that (R389). -/
def Monitor.clear (m : Monitor) (now : Nat) : Monitor :=
  let kept := if m.sampledAt = now then m.samples else []
  let zero : Monitor := { m with en := true, min := Monitor.reset.min, max := Monitor.reset.max, count := 0, buckets := [], samples := [] }
  { kept.foldl (fun (x : Monitor) v => x.sample now v 1) zero with en := m.en }

/-- Writing CLR (R387). -/
def State.clearMonitor (s : State) (m : Nat) : State :=
  { s with monitors := s.monitors.map (fun (e : Nat × Monitor) => if e.1 = m then (e.1, e.2.clear s.cycle) else e) }

def execMonitorClr (monitor : Nat) (s : State) : Host.Outcome State Fault Refusal := module s (fun s => s.clearMonitor monitor)

end Sys2Proof.Machine
end

