-- ==== Sys2Proof/Machine/Boot.lean ====
section
/-! DEFINITION. Module reset, the boot stages, the links of the ports, and the thermal responses (R74, R101, R399, R404 to R407). -/
namespace Sys2Proof.Machine

/-! ### Module reset (R404) -/

/-- Addresses from here on are not device memory (R215): what module reset says of memory does not touch them. -/
def hostStart : Nat := Config.deviceBytes

/-- Memory after a module reset in a run: host memory as it was, device memory with unspecified contents (R404; free values, log 19). -/
def State.resetMemory (s : State) : Memory :=
  Memory.writeCells (s.mem.filter (fun (c : Host.Cell) => decide (hostStart ≤ c.1)))
    ((Config.freeCells s.tick).filter (fun (c : Nat × Byte) => decide (c.1 < hostStart)))

/-- Module reset: every register at its Reset value, no container, no VF; what lies outside the registers stays: memory of hosts, the repair record,
the firmware image slots, the rails and what the module has sent (R404). Whether a device block stays uncorrectable is a free value (log 19); a
plane that is still dark is reported again by its shelf (log 21). -/
def State.moduleReset (s : State) : State :=
  { State.reset with
    badBlocks := s.badBlocks.filter (fun b => decide (hostStart ≤ 64 * b) || Config.freeBool (s.tick * 2 ^ 64 + b))
    agenda := s.agenda, tick := s.tick + 1, nextId := s.nextId, mem := s.resetMemory, out := s.out
    boot := { Boot.reset with repair := s.boot.repair, repairOld := s.boot.repair.length, images := s.boot.images, railsOff := s.boot.railsOff
                              tripped := s.boot.tripped } }

/-- Input power arrives; after a thermal trip FAILCODE reads 4 (R399, R404). -/
def execPowerOn (s : State) : Host.Outcome State Fault Refusal :=
  module s (fun s =>
    let s' := s.moduleReset
    { s' with boot := { s'.boot with failcode := if s.boot.tripped then 4 else 0, railsOff := false, tripped := false } })

/-- The management controller's out-of-band reset, which its own rail lets it give with the others off (R402); those stay off (log 20). -/
def execOobReset (s : State) : Host.Outcome State Fault Refusal := module s State.moduleReset

/-- PERST# on one port: its link goes down and its PF takes a Function Level Reset (R382, R404). -/
def execPerst (port : Fin 2) (s : State) : Host.Outcome State Fault Refusal :=
  module s (fun s => (s.setPf port { s.pf port with linkUp := false, cxl := false, speed := 0, width := 0, l0p := 0 }).pfReset port)

/-- The speeds in units of 0.1 GT/s and the widths a link may train to (R69). -/
def linkSpeeds : List Nat := [640, 320, 160, 80, 50, 25]
def linkWidths : List Nat := [16, 8, 4, 2, 1]

/-- A port's link finishes training, as CXL or not, at a speed and width that are free values among those of R69 (log 2): the PF sends its Function Readiness
Status message (R74). -/
def execLinkUp (pf : Fin 2) (cxl : Bool) (s : State) : Host.Outcome State Fault Refusal :=
  module s (fun s =>
    let p := s.pf pf
    if p.linkUp then s
    else
      let (x, s) := s.freeNat
      let w := linkWidths.getD (x / 6 % 5) 16
      s.setPf pf { p with linkUp := true, cxl := cxl, frs := p.frs + 1, speed := linkSpeeds.getD (x % 6) 640, width := w, l0p := w })

/-! ### The stages (R405, R406) -/

/-- The boot register changed. -/
def State.setStage (s : State) (n : Nat) : State := { s with boot := { s.boot with stage := n } }

/-- Boot stops with a FAILCODE. -/
def State.bootFails (s : State) (code : Nat) : State := { s with boot := { s.boot with stage := 15, failcode := code } }

def execBootRom (s : State) : Host.Outcome State Fault Refusal :=
  module s (fun s => if s.boot.stage = 0 && !s.boot.romDone then { s with boot := { s.boot with stage := 1, romDone := true } } else s)

/-- An image passes its checks: both signatures over its measurement, and its version (R29, R406). -/
def FwImage.passes (f : FwImage) : Bool :=
  bothSigned (sha384 f.bytes) f.ecdsa f.lms && decide (Config.minVersion ≤ f.version)

/-- The first image of slot A, then slot B, that passes, with its slot number. -/
def firstPassing (l : List FwImage) : Option (Nat × FwImage) :=
  (l.take 2).mapIdx (fun n f => (n, f)) |>.find? (fun x => x.2.passes)

/-- Slot A, then slot B; the measurement of the first that passes is extended as the first entry, and with none boot fails with FAILCODE 1 (R406). -/
def execFwverify (s : State) : Host.Outcome State Fault Refusal :=
  module s (fun s =>
    if s.boot.stage ≠ 1 then s
    else match firstPassing s.boot.images with
      | some (n, f) =>
        { s with boot := { s.boot with stage := 2, slot := n == 1, ecdsaOk := true, lmsOk := true, attest := s.boot.attest ++ [sha384 f.bytes] } }
      | none => s.bootFails 1)

/-- The stacks are trained and tested, homes and directories initialised; or boot fails with FAILCODE 2. -/
def execMeminit (ok : Bool) (s : State) : Host.Outcome State Fault Refusal :=
  module s (fun s => if s.boot.stage ≠ 2 then s else if ok then s.setStage 3 else s.bootFails 2)

/-- A recorded lane failure put back into its quadrant's register (R101): a first one of lanes 0 to 31 is steered past, lane 32 is SPAREBAD, and one of a second lane
leaves the quadrant out of service (R100). A lane that the register shows, or that is being steered around, is the same failure seen again (log 38). -/
def Quad.reapply (x : Quad) (lane : Nat) : Quad :=
  if x.knows lane then x
  else
    let second := x.steered || x.steering.isSome || x.sparebad
    { x with failcnt := min 255 (x.failcnt + 1), sparebad := x.sparebad || lane == 32, dead := x.dead || second
             steering := if second then none else x.steering, steered := x.steered || (lane < 32 && !second)
             flane := if lane < 32 && !second then lane else x.flane }

/-- The repair record as it stood at module reset is reapplied, the loader is ready, and each PF sets READY (R74, R101, R405). What was recorded since
has acted already. -/
def execRepair (s : State) : Host.Outcome State Fault Refusal :=
  module s (fun s =>
    if s.boot.stage ≠ 4 then s
    else
      let s := (s.boot.repair.take s.boot.repairOld).foldl (fun (s : State) (x : Nat × Nat) => s.updQuad x.1 (fun q => q.reapply x.2)) s
      { s with pf0 := { s.pf0 with ready := true }, pf1 := { s.pf1 with ready := true } }.setStage 5)

/-! ### Thermal responses (R399) -/

/-- The REFILL in force of every context changed. -/
def State.setRefills (s : State) (h : Nat → Nat) : State :=
  { s with ctxs := s.ctxs.map (fun (e : Nat × Ctx) => (e.1, { e.2 with refill := h e.2.refill })) }

/-- The junction reaches 100 °C: THROT, and the REFILL in force halved; further readings in that range change nothing. -/
def execJunctionThrottle (s : State) : Host.Outcome State Fault Refusal :=
  module s (fun s => if s.boot.throt then s else { s with boot := { s.boot with throt := true } }.setRefills (fun n => n / 2))

/-- The junction falls below 95 °C: THROT is clear, and the power manager sets REFILL anew at the next microsecond boundary (R403, log 26). -/
def execJunctionRecover (s : State) : Host.Outcome State Fault Refusal :=
  module s (fun s => { s with boot := { s.boot with throt := false } })

/-- The junction reaches 115 °C: every rail is off until power arrives again. -/
def execThermalTrip (s : State) : Host.Outcome State Fault Refusal :=
  module s (fun s => { s with boot := { s.boot with railsOff := true, tripped := true } })

end Sys2Proof.Machine
end

