-- ==== Sys2Proof/Machine/Control.lean ====
section
/-! DEFINITION. The control instructions (R144 to R153) and the repeat prefix (R154, R155). -/
namespace Sys2Proof.Machine

/-- `next_seq` as a number (R103). -/
def nextNat (pc : Pc) : Nat := if pc.toNat % 64 = 48 then pc.toNat + 16 else pc.toNat + 12

/-- The context after a state change made while the instruction was being decided, such as a translation. -/
def GCtx.with (g : GCtx) (s : State) : GCtx := { g with s := s }

/-- The instruction is over and has moved the program counters itself; where lanes would fall through past the last slot, it raises BRTGT there for them
instead, without effect (R103, R360). -/
def GCtx.moved (g : GCtx) (s : State) (falls : List Thread) : State :=
  if lastSlot g.pc && !falls.isEmpty then g.trap causeBrtgt falls else g.finish s true

/-- The executing threads take their targets; a thread whose target is none moves on in sequence. -/
def GCtx.go (g : GCtx) (target : Thread → Option Nat) (onLane : Thread → Thread) (onGroup : Group → Group) : State :=
  let step (t : Thread) : Thread :=
    match target t with
    | some x => { onLane t with pc := BitVec.ofNat 57 x }
    | none => { t with pc := nextSeq t.pc }
  g.moved (g.s.setTeam ((g.mapLanes step).setGroup (onGroup g.grp))) (g.lanes.filter (fun t => (target t).isNone))

/-- Transfers of R145: the taking lanes `T` with their target values; every check comes before any effect, and the transfer waits in place while the line of a
target has still to be read for its TGT bit. -/
def GCtx.transfer (g : GCtx) (taking : List Thread) (value : Thread → Option Nat × Option PoisonKind) (checkTgt link : Bool) : State :=
  match worstLanes (taking.map (fun t => (t, (value t).2))) with
  | some (k, lanes) => g.consumeTrap k lanes
  | none =>
    let values := distinct (taking.filterMap (fun t => (value t).1))
    match if checkTgt then g.s.targetsOk g.team.core g.ref.vf values else (some (values.filter (fun x => !legalPc x)), g.s) with
    | (none, s) => s
    | (some bad, s) =>
      let g := g.with s
      let isBad (t : Thread) : Bool := match (value t).1 with | some x => bad.contains x | none => true
      match taking.filter isBad with
      | [] =>
        let next := nextNat g.pc
        let takes (t : Thread) : Bool := taking.any (fun x => x.lane == t.lane)
        let writeLink (t : Thread) : Thread := if link then (match g.f.d with | .v n => t.writeV true n.toNat next none | _ => t) else t
        let onGroup (r : Group) : Group :=
          if link && !taking.isEmpty then (match g.f.d with | .s n => r.setS n.toNat { val := BitVec.ofNat 64 next, poison := none } | _ => r) else r
        g.go (fun t => if takes t then (value t).1 else none) writeLink onGroup
      | lanes => g.trap causeBrtgt lanes

/-- The direct target, the same for every lane (R104). -/
def GCtx.direct (g : GCtx) : Thread → Option Nat × Option PoisonKind := fun _ => (branchTarget g.pc g.f.imm, none)

/-- The value of A in a lane, as a 64-bit target (R144, R145). -/
def GCtx.indirect (g : GCtx) : Thread → Option Nat × Option PoisonKind := fun t => let (x, p) := g.raw t true g.f.a; (some x, p)

/-- No effect; the run continues, or ends as ER says (R118). -/
def execNop (f : Fields) (s : State) : Host.Outcome State Fault Refusal :=
  issueG (.nop f) s (fun g => g.done id)

def execBra (f : Fields) (s : State) : Host.Outcome State Fault Refusal :=
  issueG (.bra f) s (fun g => g.transfer g.actives g.direct true false)

def execBrai (f : Fields) (s : State) : Host.Outcome State Fault Refusal :=
  issueG (.brai f) s (fun g => g.transfer g.actives g.indirect true false)

def execCall (f : Fields) (s : State) : Host.Outcome State Fault Refusal :=
  issueG (.call f) s (fun g => g.transfer g.actives g.direct true true)

def execCallr (f : Fields) (s : State) : Host.Outcome State Fault Refusal :=
  issueG (.callr f) s (fun g => g.transfer g.actives g.indirect true true)

/-- Every SUB thread transfers; the target is not checked against TGT (R146). -/
def execRet (f : Fields) (s : State) : Host.Outcome State Fault Refusal :=
  issueG (.ret f) s (fun g => g.transfer g.lanes g.indirect false false)

/-- The predicate p(A) of a lane, negated by N. -/
def GCtx.predA (g : GCtx) (t : Thread) : Bool := t.pred (opPreg g.f.a) != g.f.m 0

/-- One decision for all SUB threads (R147). -/
def execBany (f : Fields) (s : State) : Host.Outcome State Fault Refusal :=
  issueG (.bany f) s (fun g => g.transfer (if g.lanes.any g.predA then g.lanes else []) g.direct true false)

def execBall (f : Fields) (s : State) : Host.Outcome State Fault Refusal :=
  issueG (.ball f) s (fun g => g.transfer (if g.lanes.all g.predA then g.lanes else []) g.direct true false)

/-! ### Leaving the group (R130, R148, R149, R307) -/

/-- Before threads leave their group: its handles have completed, its stores have left the queue, and nothing is on its way to
the registers that travel with them (R130, R133, R148, R307). -/
def GCtx.whenQuiet (g : GCtx) (leaving : Bool) (withV : Bool) (body : Unit → State) : State :=
  if g.grp.h.any (fun h => decide (h.st = .pending)) then g.park .allHandles
  else if leaving && !g.grp.storeQ.isEmpty then g.park .stores
  else
    let hit (x : PendVal) : Bool := match x with
      | .s p _ _ => p == g.grp.key
      | .b p _ _ => p == g.grp.key
      | .v blk lane _ _ => withV && g.lanes.any (fun t => t.block == blk && t.lane == lane)
    match (g.team.pend.filter (fun op => op.vals.any hit)).map (·.id) with
    | [] => body ()
    | ops => if leaving then g.waitPending ops else body ()

/-- The registers that travel with the threads of this group. -/
def GCtx.travel (g : GCtx) : GroupRegs := { s := g.grp.s, b := g.grp.b, lp := g.grp.lp, keyFrom := g.grp.keyFrom, wrote := g.grp.wrote }

/-- Threads have left the group or exited: the run may be over, the group may dissolve, and the units emit what is due. -/
def GCtx.settle (g : GCtx) (s : State) : State := (s.tryDissolve g.ref g.quad g.grp.place).settleTeam g.ref

/-- The check of one direct target for the lanes that would take it: nothing is read where there is none (R105). -/
def GCtx.goalOk (g : GCtx) (goal : Option Nat) (taking : List Thread) : Option (List Nat) × State :=
  match goal with
  | some x => if taking.isEmpty then (some [], g.s) else g.s.targetsOk g.team.core g.ref.vf [x]
  | none => (some [0], g.s)

/-- A divergent branch (R148): the SUB threads enter the unit, each with its target. -/
def execBdiv (f : Fields) (s : State) : Host.Outcome State Fault Refusal :=
  issueG (.bdiv f) s (fun g =>
    let taking := g.lanes.filter g.predA
    if 16 ≤ g.team.stack.length then g.whenQuiet false false (fun _ => g.transfer taking g.direct true false)
    else
      g.whenQuiet true false (fun _ =>
        let goal := branchTarget g.pc g.f.imm
        match g.goalOk goal taking with
        | (none, s) => s
        | (some bad, s) =>
          let g := g.with s
          if !taking.isEmpty && !bad.isEmpty then g.trap causeBrtgt taking
          else if lastSlot g.pc && taking.length < g.lanes.length then g.trap causeBrtgt (g.lanes.filter (fun t => !g.predA t))
          else
            let order := g.team.nextEntry
            let enter (t : Team) (x : Thread) : Team :=
              t.arriveSite x g.pc (if g.predA x then BitVec.ofNat 57 (goal.getD 0) else nextSeq g.pc) g.travel order s.cycle
            let t := g.lanes.foldl enter { g.team with nextEntry := order + 1 }
            g.settle (g.finish (g.s.setTeam t) true)))

/-- Threads under an entry are handed to the unit; the others advance (R148). -/
def execJoin (f : Fields) (s : State) : Host.Outcome State Fault Refusal :=
  issueG (.join f) s (fun g =>
    let under := g.lanes.filter (fun t => t.entry.isSome)
    if under.isEmpty then g.whenQuiet false false (fun _ => g.done id)
    else
      g.whenQuiet true false (fun _ =>
        if lastSlot g.pc then g.trap causeBrtgt g.lanes
        else
          let order := g.team.nextEntry
          let leave (t : Team) (x : Thread) : Team :=
            match x.entry with
            | some e => t.arriveJoin x e (nextSeq g.pc) g.travel order g.s.cycle
            | none => t.setThread { x with pc := nextSeq g.pc }
          let t := g.lanes.foldl leave { g.team with nextEntry := order + 1 }
          g.settle (g.finish (g.s.setTeam t) true)))

/-- The run ends after this instruction (R151). -/
def execPause (f : Fields) (s : State) : Host.Outcome State Fault Refusal :=
  issueG (.pause f) s (fun g => { g with f := { g.f with er := true } }.done id)

/-- The active lanes' threads exit; without a thread left in SUB or LB the run ends, and a group with no live thread dissolves (R126, R152). -/
def execExit (f : Fields) (s : State) : Host.Outcome State Fault Refusal :=
  issueG (.exit f) s (fun g =>
    let gone := g.actives
    let out (t : Thread) : Bool := gone.any (fun x => x.lane == t.lane)
    let step (t : Thread) : Thread :=
      if out t then { t with st := .done, lbuf := [], entry := none } else { t with pc := nextSeq t.pc }
    let t := gone.foldl (fun (t : Team) x => t.leaveEntries x.pos) (g.mapLanes step)
    let stay := g.lanes.filter (fun t => !out t)
    let s := g.moved (g.s.setTeam t) stay
    if lastSlot g.pc && !stay.isEmpty then s
    else
    let busy := match s.team? g.ref with
      | some t => (t.members g.grp).any (fun x => decide (x.st = .sub) || decide (x.st = .lb))
      | none => true
    let s := if !busy && (s.quad g.quad).holder == some (g.ref, g.grp.place) then s.endRun g.ref g.quad g.grp.place else s
    g.settle s)

/-- The SUB threads enter the reorder unit with their keys and the register mask (R133, R149). -/
def execReorder (f : Fields) (s : State) : Host.Outcome State Fault Refusal :=
  issueG (.reorder f) s (fun g =>
    let m := g.once g.f.b
    match m.2 with
    | some k => g.consumeTrap k g.lanes
    | none =>
      g.whenQuiet true true (fun _ =>
        if lastSlot g.pc then g.trap causeBrtgt g.lanes
        else
          let item (x : Thread) : ReorderItem :=
            let r := x.vreg (opNum g.f.a)
            { block := x.block, lane := x.lane, key := if r.poison.isSome then 0xFFFFFFFF else r.val.toNat, mask := BitVec.ofNat 32 m.1
              regs := g.travel, at_ := g.s.cycle }
          let enter (t : Team) (x : Thread) : Team :=
            let slot := t.slotOfBlock x.block
            { t with reorder := t.reorder.set slot (t.reorder.get slot [] ++ [item x]) }.hold x (nextSeq g.pc) x.entry
          g.settle (g.finish (g.s.setTeam (g.lanes.foldl enter g.team)) true)))

/-- Entries added to the team's pool, as far as it has room. Those of one cycle stand in ascending group place, so a group that comes later in the cycle takes the
room of higher places; what no longer fits leaves again, and its thread's predicate is false (R150). -/
def execSpawn (f : Fields) (s : State) : Host.Outcome State Fault Refusal :=
  issueG (.spawn f) s (fun g =>
    let want (t : Thread) : Bool := t.pred (opPreg g.f.b)
    let wanting := g.lanes.filter want
    let goal := branchTarget g.pc g.f.imm
    match g.goalOk goal wanting with
    | (none, s) => s
    | (some bad, s) =>
      let g := g.with s
      if !wanting.isEmpty && !bad.isEmpty then g.trap causeBrtgt wanting
      else
        let size := match g.s.kd? g.ref with | some k => k.spawn | none => 0
        let place := 1024 * g.grp.place + g.quad
        let later (e : SpawnItem) : Bool := decide (e.at_ = g.s.cycle) && decide (place < e.place)
        let before := g.team.pool.filter (fun e => !later e)
        let added := wanting.take (size - before.length)
        let room := size - before.length - added.length
        let out := (g.team.pool.filter later).drop room
        let entry (t : Thread) : SpawnItem :=
          { place := place, block := t.block, lane := t.lane, preg := opPreg g.f.d, pc := BitVec.ofNat 57 (goal.getD 0), arg := t.vreg (opNum g.f.a), tidX := t.tidX, tidY := t.tidY, tidZ := t.tidZ, at_ := g.s.cycle }
        let team := g.mapLanes (fun t => t.setPred (opPreg g.f.d) (added.any (fun x => x.lane == t.lane)))
        let lost (t : Thread) : Thread := match out.find? (fun e => e.block == t.block && e.lane == t.lane) with
          | some e => t.setPred e.preg false
          | none => t
        g.finish (g.s.setTeam { team with threads := team.threads.map lost, pool := before ++ added.map entry ++ (g.team.pool.filter later).take room }))

/-! ### The repeat prefix -/

/-- The repetition a prefix announces (R154). -/
def repOf (f : Fields) (pc : Pc) : Rep :=
  { pc := pc, count := f.imm.toNat % 64 + 1, idx := 0, step := BitVec.ofNat 4 (f.mod.toNat % 16), stride := 2 ^ (f.mod.toNat / 16) }

/-- The prefix waits for the instruction that follows it; it counts in its run and never ends it (R111, R154, R155). -/
def execRep (f : Fields) (s : State) : Host.Outcome State Fault Refusal :=
  issue (.rep f) s
    (fun g =>
      if lastSlot g.pc then g.trapAll causeBrtgt
      else
        let word := g.s.curWord
        let pc := g.pc
        let own := g.s.ownsBuffers g.quad g.ref g.grp.place
        let r := repOf g.f (nextSeq pc)
        let t := { g.team with threads := g.team.threads.map (fun x =>
          let y := g.refill own x
          if g.runs x then { y.capture pc word with pc := nextSeq pc } else y) }
        (g.counted g.s).setTeam (t.setGroup
          { g.grp with reps := g.grp.reps.filter (fun x => x.pc != r.pc) ++ [r], runLen := g.grp.runLen + 1, lbCycles := 0, lbAt := none }))
    (fun c =>
      if lastSlot c.seq.pc then c.trap causeBrtgt
      else c.put c.s { c.seq with pfx := some (repOf c.f (nextSeq c.seq.pc)), pc := nextSeq c.seq.pc })

end Sys2Proof.Machine
end

