-- ==== Sys2Proof/Machine/Lanes.lean ====
section
/-! DEFINITION. The cross-lane vector instructions (R180, R181). -/
namespace Sys2Proof.Machine

/-- The value at virtual lane `j` among the participants, or the lane's own (R180). -/
def shuffled (g : GCtx) (t : Thread) (j : Option Nat) : Thread :=
  let src := match j with
    | some j => if j < 32 then (g.lanes.find? (fun x => g.virt x == j)).getD t else t
    | none => t
  let x := g.typed src g.f.type g.f.a
  g.put g.f.wide t (x.1, 0) x.2

/-- A shuffle: the source lane from the executing lane and U(b), an unsigned 32-bit integer whatever the type. A poisoned B poisons
the result, which depends on it (R158). -/
def shuffle (h : Nat → Nat → Option Nat) (g : GCtx) (t : Thread) : Thread :=
  let b := g.typed t 4 g.f.b
  let t' := shuffled g t (h (g.virt t) b.1)
  match b.2 with
  | none => t'
  | some _ =>
    let n := opNum g.f.d
    let mark (x : Thread) (m : Nat) : Thread := x.setV m { (x.vreg m) with poison := worst (x.vreg m).poison b.2 }
    if g.f.wide then mark (mark t' n) (n + 1) else mark t' n

def execVshfl (f : Fields) (s : State) : Host.Outcome State Fault Refusal :=
  issueV (.vshfl f) s (shuffle (fun _ b => some b))

def execVshfup (f : Fields) (s : State) : Host.Outcome State Fault Refusal :=
  issueV (.vshfup f) s (shuffle (fun k b => if b ≤ k then some (k - b) else none))

def execVshfdn (f : Fields) (s : State) : Host.Outcome State Fault Refusal :=
  issueV (.vshfdn f) s (shuffle (fun k b => some (k + b)))

def execVshfx (f : Fields) (s : State) : Host.Outcome State Fault Refusal :=
  issueV (.vshfx f) s (shuffle (fun k b => some (k ^^^ b)))

/-- p(A) of a lane, negated by MOD[0]. -/
def ballotOf (g : GCtx) (t : Thread) : Bool := t.pred (opPreg g.f.a) != g.f.m 0

/-- The mask of virtual lanes of some threads. -/
def maskOf (g : GCtx) (l : List Thread) : Nat := (laneMask (l.map g.virt)).toNat

def execVballot (f : Fields) (s : State) : Host.Outcome State Fault Refusal :=
  issueV (.vballot f) s (fun g t => g.put false t (maskOf g (g.actives.filter (ballotOf g)), 0) none)

/-- The poll of the active lanes into p(D). -/
def execVpoll (f : Fields) (s : State) : Host.Outcome State Fault Refusal :=
  issueV (.vpoll f) s (fun g t =>
    let yes := g.actives.any (ballotOf g)
    let all := g.actives.all (ballotOf g)
    t.setPred (opPreg g.f.d) (match g.f.mod.toNat % 8 / 2 with
      | 0 => yes
      | 1 => all
      | 2 => all || !yes
      | _ => !yes))

/-- One element of each lane of a set, reduced: a float sum rounded once, or an exact integer sum (R165, R181). -/
def sumElem (ty : Nat) (mode : RMode) (sat : Bool) (l : List Nat) : Nat × FFlags :=
  if l.isEmpty then (0, 0)
  else if isFloat ty then (fmtOf ty).fsum mode (l.map (fmtOf ty).unpack)
  else (iput ty sat (l.foldl (fun a x => a + ival ty x) 0), 0)

/-- Minimum or maximum of one element of each lane (R164, R181). -/
def bestElem (wantMax : Bool) (ty : Nat) (l : List Nat) : Nat × FFlags :=
  match l with
  | [] => (0, 0)
  | x :: rest => rest.foldl (fun a y => let r := pick wantMax ty a.1 y; (r.1, a.2 ||| r.2)) (pick wantMax ty x x)

/-- A reduction over some lanes: halves of packed types apart, poison from any term. -/
def reduce (h : Nat → List Nat → Nat × FFlags) (g : GCtx) (set : List Thread) (t : Thread) : Thread :=
  let ty := g.f.type
  let vals := set.map (fun x => g.typed x ty g.f.a)
  let l := vals.map (·.1)
  let r := if isPacked ty then
      let lo := h ty (l.map (· % 65536))
      let hi := h ty (l.map (· / 65536))
      (lo.1 + 65536 * hi.1, lo.2 ||| hi.2)
    else h ty l
  g.put g.f.wide t r (worstOf (vals.map (·.2)))

def execVredadd (f : Fields) (s : State) : Host.Outcome State Fault Refusal :=
  issueV (.vredadd f) s (fun g t => reduce (fun ty => sumElem ty (t.mode g.f.rnd) (g.f.m 0)) g g.actives t)

def execVredmin (f : Fields) (s : State) : Host.Outcome State Fault Refusal :=
  issueV (.vredmin f) s (fun g t => reduce (bestElem false) g g.actives t)

def execVredmax (f : Fields) (s : State) : Host.Outcome State Fault Refusal :=
  issueV (.vredmax f) s (fun g t => reduce (bestElem true) g g.actives t)

/-- Sums over the active lanes up to this one, or before it with `.excl` (R180, R181). -/
def execVscan (f : Fields) (s : State) : Host.Outcome State Fault Refusal :=
  issueV (.vscan f) s (fun g t =>
    let upto := if g.f.imm.getLsbD 0 then g.virt t else g.virt t + 1
    reduce (fun ty => sumElem ty (t.mode g.f.rnd) (g.f.m 0)) g (g.actives.filter (fun x => decide (g.virt x < upto))) t)

/-- The mask of active lanes whose value is the same, poisoned lanes in no mask (R181). -/
def execVmatch (f : Fields) (s : State) : Host.Outcome State Fault Refusal :=
  issueV (.vmatch f) s (fun g t =>
    let val (x : Thread) := g.typed x g.f.type g.f.a
    let mine := val t
    let same := g.actives.filter (fun x => (val x).2.isNone && (val x).1 == mine.1)
    g.put g.f.wide t (maskOf g same, 0) mine.2)

end Sys2Proof.Machine
end

