-- ==== Sys2Proof/Machine/Registers.lean ====
section
/-! DEFINITION. The register maps: what a write to a register does and what a read of it gives (R7, R75, R101, R227, R228, R241, R274, R278, R316,
R351, R361, R374, R378, R379, R387, R390, R393, R403, R407). Every register is written and read as 64 bits at a multiple of 8. -/
namespace Sys2Proof.Machine

/-- Bits [lo + n − 1 : lo] of a value written. -/
def bitsAt (x : BitVec 64) (lo n : Nat) : Nat := x.toNat / 2 ^ lo % 2 ^ n

/-- A table of equal blocks from an offset on: the block an offset lies in, and its place there. -/
def blockOf (off base size count : Nat) : Option (Nat × Nat) :=
  if base ≤ off ∧ off < base + size * count then some ((off - base) / size, (off - base) % size) else none

/-! ### Writes -/

/-- CAPERR is cleared by writing 1, unless hardware has set it in this very cycle (R7, R75). -/
def State.writeFnState (s : State) (i : Fin 2) (x : BitVec 64) : State :=
  if x.getLsbD 2 && (s.pf i).caperrAt != some s.cycle then s.setPf i { s.pf i with caperr := false } else s

/-- The window of a VF is reached through its own PF only (R69, R75); a VF that is not enabled belongs to neither. -/
def State.reaches (s : State) (i : Fin 2) (v : Nat) : Bool := decide ((s.vf v).enabled ≠ some (1 - i))

/-- GBBASE, a multiple of 2 MiB: lower bits are not kept (DEDUCED, log 22); ignored while any VF Enable is set (R75). -/
def State.writeGbbase (s : State) (x : BitVec 64) : State :=
  if s.anyEnable then s else { s with gbbase := x.toNat / 2 ^ 21 * 2 ^ 21 }

/-- The registers of a context (R227). -/
def State.writeCtxReg (s : State) (v at' : Nat) (x : BitVec 64) : State :=
  match at' with
  | 0x00 => s.updCtx v (fun c => { c with en := x.getLsbD 0, root := bitsAt x 12 40 * 4096 })
  | 0x08 => s.updCtx v (fun c => { c with iva := bitsAt x 0 57 })
  | 0x10 =>
    let s := s.updCtx v (fun c => { c with isize := bitsAt x 0 2, iall := x.getLsbD 2 })
    if x.getLsbD 3 then s.invalidate v else s
  | 0x18 => s.updCtx v (fun c => { c with occlim := bitsAt x 0 16 })
  | _ => s

/-- A pair's routing register: a reserved MODE leaves that field unchanged (R241). -/
def State.writeRoute (s : State) (k : Nat) (x : BitVec 64) : State :=
  let p := s.pair k
  s.setPair k { p with mode := if bitsAt x 0 2 < 2 then bitsAt x 0 2 else p.mode, relay := bitsAt x 2 5 }

/-- A stack's weights and hut enable (R278). -/
def State.writeStackReg (s : State) (k at' : Nat) (x : BitVec 64) : State :=
  if at' = 0 ∧ k < 16 then s.setStack k { s.stack k with wnorm := bitsAt x 0 4, whut := bitsAt x 4 4, huten := x.getLsbD 8 } else s

/-- The scope policy; the value before stays allowed for 1 µs (R316, R317). -/
def State.writePolicy (s : State) (v : Nat) (x : BitVec 64) : State :=
  s.updVf v (fun f => { f with devOk := x.getLsbD 0, sysOk := x.getLsbD 1, act := x.getLsbD 2, policyOld := some (f.devOk, f.sysOk, f.act, s.cycle) })

/-- The debug register (R351). -/
def State.writeDebug (s : State) (v : Nat) (x : BitVec 64) : State :=
  let s := s.updCtx v (fun c => { c with brken := x.getLsbD 0, diagen := x.getLsbD 1, injen := x.getLsbD 2 })
  if x.getLsbD 4 then s.brkResume v else s

/-- ACTION and TRAPMODE of a trap record (R361, R362). -/
def State.writeTrapReg (s : State) (v at' : Nat) (x : BitVec 64) : State :=
  match at' with
  | 0x30 => match bitsAt x 0 2 with
    | 1 => s.trapResume v
    | 2 => s.trapRelaunch v
    | 3 => s.trapEnd v
    | _ => s
  | 0x38 => s.updCtx v (fun c => { c with trap := { c.trap with hold := x.getLsbD 0 } })
  | _ => s

/-- The control register of a VF (R378). -/
def State.writeControl (s : State) (v at' : Nat) (x : BitVec 64) : State :=
  if at' ≠ 0 then s
  else
    let s := match bitsAt x 0 2 with
      | 0 => if x.getLsbD 6 then s.kick v else s.run v
      | 1 => s.updVf v (fun f => { f with runstate := .desched })
      | 2 => s.pause v
      | _ => s
    let s := if x.getLsbD 3 then s.preempt v else s
    if x.getLsbD 5 then s.resumeGo v else s

/-- The harvest register (R379). -/
def State.writeHarvest (s : State) (v at' : Nat) (x : BitVec 64) : State :=
  match at' with
  | 0x00 => s.updCtx v (fun c => { c with hva := bitsAt x 12 45 * 4096 })
  | 0x08 => s.updCtx v (fun c => { c with hcount := bitsAt x 0 25 })
  | 0x10 => s.updCtx v (fun c => { c with hbmp := bitsAt x 3 49 * 8 })
  | 0x18 => if x.getLsbD 0 then s.harvest v else s
  | _ => s

/-- SPILLBASE (R374). -/
def State.writeSpill (s : State) (x : BitVec 64) : State :=
  let b := bitsAt x 30 22 * 2 ^ 30
  if s.anyEnable ∨ Config.deviceBytes < b + 2 ^ 31 then s else { s with spillbase := b }

/-- The rest region (R390). -/
def State.writeRest (s : State) (x : BitVec 64) : State :=
  let n := bitsAt x 0 5
  let b := bitsAt x 30 22 * 2 ^ 30
  if s.anyEnable ∨ 16 < n ∨ Config.deviceBytes < b + 16 * n * 2 ^ 30 then s else { s with restsz := n, restbase := b }

/-- The bivouac register (R393). -/
def State.writeBivouac (s : State) (v at' : Nat) (x : BitVec 64) : State :=
  if at' = 0 then s.updVf v (fun f => { f with holdoff := x.getLsbD 2, lendvf := BitVec.ofNat 8 (bitsAt x 4 8) }) else s

/-- The power limit (R403). -/
def State.writePower (s : State) (x : BitVec 64) : State :=
  let w := bitsAt x 0 12
  if 1200 ≤ w ∧ w ≤ 2800 then { s with boot := { s.boot with pwrlim := w } } else s

/-- The lane register: GO retires a lane (R101). -/
def State.writeLane (s : State) (q : Nat) (x : BitVec 64) : State :=
  if x.getLsbD 21 then s.laneGo q (bitsAt x 16 5) else s

/-- A monitor's control register: a reserved SRC leaves that field unchanged (R387, R388). -/
def State.writeMonitor (s : State) (m at' : Nat) (x : BitVec 64) : State :=
  if at' ≠ 0 then s
  else
    let old := s.monitors.get m Monitor.reset
    let src := if bitsAt x 0 8 ≤ 4 then bitsAt x 0 8 else old.src
    let new : Monitor := { old with src := src, target := bitsAt x 8 12, lane := bitsAt x 20 3, dir := x.getLsbD 23, en := x.getLsbD 24 }
    let s := { s with monitors := s.monitors.set m new }
    if x.getLsbD 25 then s.clearMonitor m else s

/-- A write at a device-specific offset of a PF; an offset that names no writable register, and any that is no multiple of 8, is ignored. -/
def State.writePfReg (s : State) (i : Fin 2) (off : Nat) (x : BitVec 64) : State :=
  if off % 8 ≠ 0 then s
  else if off = 0x00 then s.writeFnState i x
  else if off = 0x10 then s.writeGbbase x
  else match blockOf off 0x1000 0x100 128 with
  | some (v, at') => if at' = 0x10 ∧ s.reaches i v then s.writeGbbase x else s
  | none => match blockOf off 0xB000 8 128 with
  | some (d, _) => if d = 0 then s else { s with peers := s.peers.set d (bitsAt x 0 3, x.getLsbD 3) }
  | none => match blockOf off 0xC000 8 625 with
  | some (k, _) => if k / 25 < k % 25 then s.writeRoute k x else s
  | none => match blockOf off 0x10000 128 128 with
  | some (v, at') => s.writeCtxReg v at' x
  | none => match blockOf off 0x20000 0x100 16 with
  | some (k, at') => s.writeStackReg k at' x
  | none =>
  if off = 0x21000 then (if s.anyEnable then s else { s with ccbase := bitsAt x 21 19 })
  else if off = 0x21008 then (if s.anyEnable then s else { s with ccframes := bitsAt x 0 19 })
  else match blockOf off 0x22000 8 128 with
  | some (v, _) => s.writePolicy v x
  | none => match blockOf off 0x23000 8 128 with
  | some (v, _) => s.writeDebug v x
  | none => match blockOf off 0x24000 64 128 with
  | some (v, at') => s.writeTrapReg v at' x
  | none => match blockOf off 0x26000 16 128 with
  | some (v, at') => s.writeControl v at' x
  | none => match blockOf off 0x27000 32 128 with
  | some (v, at') => s.writeHarvest v at' x
  | none =>
  if off = 0x28000 then s.writeSpill x
  else if off = 0x2A000 then s.writeRest x
  else match blockOf off 0x2B000 16 128 with
  | some (v, at') => s.writeBivouac v at' x
  | none =>
  if off = 0x2C008 then s.writePower x
  else match blockOf off 0x30000 8 1024 with
  | some (q, _) => s.writeLane q x
  | none => match blockOf off 0x40000 256 64 with
  | some (m, at') => s.writeMonitor m at' x
  | none => s

/-- A queue size a driver may write: a power of two from 16 to 4,096 (R71). -/
def queueSizeOk (n : Nat) : Bool := (List.range 9).any (fun k => n == 2 ^ (k + 4))

/-- The virtio configuration of a queue (R71, R72, R80): its MSI-X vector, its size with used_event and VIRTQ_AVAIL_F_NO_INTERRUPT of its available ring, and
enabling it. A size that R71 does not allow leaves that field unchanged (DESIGN CHOICE, log 18). -/
def VQueue.configure (q : VQueue) (at' : Nat) (x : BitVec 64) : VQueue :=
  match at' with
  | 0 => { q with vector := bitsAt x 0 16 }
  | 8 => if x.getLsbD 0 then { q with enabled := true } else q
  | 16 => { q with size := if queueSizeOk (bitsAt x 0 16) then bitsAt x 0 16 else q.size }
  | 24 => { q with usedEvent := bitsAt x 0 16, noInterrupt := x.getLsbD 16 }
  | _ => q

/-- Offsets from here on stand for the virtio configuration of queues, 32 bytes each; from `deviceConfig` on for that of the function, and from `headerConfig` on
for its configuration space (DESIGN CHOICE, log 18: the numbers are the model's names). -/
def commonConfig : Nat := 2 ^ 32
def deviceConfig : Nat := 2 ^ 33
def headerConfig : Nat := 2 ^ 34

/-- What a driver writes of a function beside its queues: the selects of the feature windows, config_msix_vector, ACKNOWLEDGE, DRIVER and FAILED of device_status,
whose bits only a reset clears, and offset and length of the PCI configuration access capability (R71, R72, R74; PRESUMED from virtio 1.2, log 70). -/
def Transport.configure (t : Transport) (at' : Nat) (x : BitVec 64) : Transport :=
  match at' with
  | 0 => { t with devSel := bitsAt x 0 32 }
  | 16 => { t with drvSel := bitsAt x 0 32 }
  | 32 => { t with cfgVector := BitVec.ofNat 16 (bitsAt x 0 16) }
  | 48 => { t with acks := t.acks ||| (BitVec.ofNat 8 (bitsAt x 0 8) &&& 0x83) }
  | 56 => { t with winOff := bitsAt x 0 40 }
  | 64 => { t with winLen := bitsAt x 0 32 }
  | _ => t

/-- device_status as the driver reads it: its own bits, FEATURES_OK and DRIVER_OK (R73, R74). -/
def Transport.deviceStatus (t : Transport) : Nat :=
  (t.acks ||| (if t.driverOk then 4 else 0) ||| (if t.featuresOk then 8 else 0)).toNat

/-- The configuration space of a PF that software writes: ACS control, AER status cleared by ones, the width L0p leaves active, and base and size of each HDM
decoder, bit 0 of the base committing it (R69; PRESUMED from the standards R69 cites, logs 18 and 70). -/
def Pf.configure (p : Pf) (at' : Nat) (x : BitVec 64) : Pf :=
  if at' = 24 then { p with acs := BitVec.ofNat 32 (bitsAt x 0 32) }
  else if at' = 32 then { p with aer := p.aer &&& ~~~(BitVec.ofNat 32 (bitsAt x 0 32)) }
  else if at' = 48 then (if linkWidths.contains (bitsAt x 0 8) && decide (bitsAt x 0 8 ≤ p.width) then { p with l0p := bitsAt x 0 8 } else p)
  else match blockOf at' 64 16 4 with
    | some (d, 0) => { p with hdm := updAt p.hdm d (fun h => { h with base := bitsAt x 28 36 * 2 ^ 28, committed := x.getLsbD 0 }) }
    | some (d, 8) => { p with hdm := updAt p.hdm d (fun h => { h with size := bitsAt x 28 36 * 2 ^ 28 }) }
    | _ => p

/-- The reset that writing 0 to device_status is (R74, R82). -/
def State.statusReset (s : State) (fn : Fn) : State :=
  match fn with
  | .pf i => s.setPf i { s.pf i with tr := Transport.reset, adminQ := VQueue.reset }
  | .vf v => s.vfReset v

/-- A write to a register of a function at its own offset. Through a VF itself device-specific registers ignore writes (R75). -/
def State.writeAt (s : State) (fn : Fn) (off : Nat) (x : BitVec 64) : State :=
  if off < commonConfig then (match fn with | .pf i => s.writePfReg i off x | .vf _ => s)
  else if headerConfig ≤ off then (match fn with | .pf i => s.setPf i ((s.pf i).configure (off - headerConfig) x) | .vf _ => s)
  else if deviceConfig ≤ off then
    if !s.present fn then s
    else if off = deviceConfig + 48 ∧ bitsAt x 0 8 = 0 then s.statusReset fn
    else s.setTransport fn ((s.transport fn).configure (off - deviceConfig) x)
  else
    let q := (off - commonConfig) / 32
    let at' := (off - commonConfig) % 32
    match fn with
    | .pf i => if q = 0 then s.setPf i { s.pf i with adminQ := (s.pf i).adminQ.configure at' x } else s
    | .vf v =>
      if (s.vf v).enabled.isNone then s
      else s.updVf v (fun f => { f with queues := f.queues.set q ((f.queues.get q VQueue.reset).configure at' x) })

/-- The data window of the PCI configuration access capability: an access to it is one to the register its offset names (R71; PRESUMED from virtio 1.2,
log 70). -/
def windowData : Nat := deviceConfig + 72

/-- A write to a register with no event of its own, directly or through the window. -/
def State.writeReg (s : State) (fn : Fn) (off : Nat) (x : BitVec 64) : State :=
  if off = windowData then (if s.present fn && decide ((s.transport fn).winLen ≠ 0) then s.writeAt fn (s.transport fn).winOff x else s) else s.writeAt fn off x

def execRegisterWrite (fn : Fn) (off : Nat) (value : BitVec 64) (s : State) : Host.Outcome State Fault Refusal :=
  module s (fun s => s.writeReg fn off value)

/-! ### Reads -/

def bit (b : Bool) : Nat := if b then 1 else 0

/-- The function registers (R75). -/
def State.readFn (s : State) (fn : Fn) (at' : Nat) : Nat :=
  match at', fn with
  | 0x00, .pf i => bit (s.pf i).ready + 4 * bit (s.pf i).caperr
  | 0x00, .vf v =>
    let f := s.vf v
    bit f.ready + 2 * bit (f.bstate == .collapsed || (f.bstate == .waking && f.collapseStep == 5)) + 16 * f.wclass + 2 ^ 32 * f.gen.toNat
  | 0x08, .vf v => (s.vf v).nwq + 2 ^ 8 * (s.vf v).priocap + 2 ^ 32 * (s.countedQuads v).length
  | 0x10, _ => s.gbbase
  | a, .vf v => if 0x40 ≤ a ∧ a < 0x80 ∧ a % 8 = 0 then ((s.vf v).timelines.getD ((a - 0x40) / 8) 0).toNat else 0
  | _, _ => 0

def State.readCtxReg (s : State) (v at' : Nat) : Nat :=
  let c := s.ctx v
  match at' with
  | 0x00 => bit c.en + c.root
  | 0x08 => c.iva
  | 0x10 => c.isize + 4 * bit c.iall + 16 * bit c.ibusy
  | 0x18 => c.occlim
  | 0x40 => c.drophint.toNat + 2 ^ 32 * c.lodgeto.toNat
  | a => if 0x20 ≤ a ∧ a < 0x40 ∧ a % 8 = 0 then s.coh.occ v ((a - 0x20) / 4) + 2 ^ 32 * s.coh.occ v ((a - 0x20) / 4 + 1) else 0

/-- The mask of lanes in the active set of a direction; a draining lane is in it until the flit boundary (R239). -/
def FDir.activeMask (d : FDir) : Nat :=
  sumOf ((List.range 8).map (fun n => if d.st n = .active ∨ d.st n = .drain then 2 ^ n else 0))

def Pair.lanesIn (p : Pair) (h : LaneState → Bool) : Bool := (p.a.lanes ++ p.b.lanes).any (fun (l : FLane) => h l.st)

def State.readRoute (s : State) (k : Nat) : Nat :=
  let p := s.pair k
  p.mode + 4 * p.relay + 2 ^ 8 * p.a.activeMask + 2 ^ 16 * p.b.activeMask + 2 ^ 24 * bit p.hasLost + 2 ^ 25 * bit (p.a.belay || p.b.belay) +
    2 ^ 26 * bit (p.lanesIn (fun l => l == .drain || l == .train || l == .ready)) + 2 ^ 27 * bit (p.lanesIn (fun l => l == .dead)) +
    2 ^ 32 * p.retrains.toNat + 2 ^ 48 * p.resends.toNat

/-- Local hut j of stack k is hut 16j + k (R274). -/
def State.runningMask (s : State) (k i : Nat) : Nat :=
  sumOf ((List.range 64).map (fun b => if (s.hut (16 * (64 * i + b) + k)).running.isSome then 2 ^ b else 0))

def State.readStackReg (s : State) (k at' : Nat) : Nat :=
  let x := s.stack k
  match at' with
  | 0x00 => x.wnorm + 16 * x.whut + 256 * bit x.huten
  | 0x08 => x.latedrop.toNat + 2 ^ 32 * x.busyref.toNat
  | 0x10 => x.hutcmd.toNat + 2 ^ 32 * x.sumcmd.toNat
  | 0x18 => s.runningMask k 0
  | 0x20 => s.runningMask k 1
  | _ => 0

def State.readDebug (s : State) (v : Nat) : Nat :=
  let c := s.ctx v
  bit c.brken + 2 * bit c.diagen + 4 * bit c.injen + 8 * bit (!(s.atBrk v).isEmpty)

def State.readTrapReg (s : State) (v at' : Nat) : Nat :=
  let t := (s.ctx v).trap
  match at' with
  | 0x00 => bit t.valid + 2 * bit t.resumable + 4 * bit t.seq + 2 ^ 8 * t.cause.toNat + 2 ^ 16 * t.reason.toNat + 2 ^ 24 * t.repIdx.toNat +
      2 ^ 32 * t.code.toNat + 2 ^ 48 * t.quad.toNat + 2 ^ 58 * t.gplace.toNat
  | 0x08 => t.pc.toNat
  | 0x10 => t.lanes.toNat + 2 ^ 32 * t.pending.toNat
  | 0x18 => t.addr.toNat
  | 0x20 => t.launchId.toNat
  | 0x28 => t.cluster.toNat
  | 0x38 => bit t.hold
  | _ => 0

/-- HALTED: every group and sequencer of the VF is halted, its store queues are empty and its accepted commands have completed; a VF that holds
nothing reads 1 only while it is kept from running, for the field is 0 at reset (R378, DEDUCED, log 15). -/
def State.vfHalted (s : State) (v : Nat) : Bool :=
  ((s.vf v).preempted || decide ((s.vf v).runstate ≠ .running) || !(s.heldQuads v).isEmpty) &&
  (s.heldQuads v).all (fun q => match ((s.quad q).out).find? (fun (e : Nat × Outgoing) => e.1 == v) with
    | some (_, o) => decide (o.st = .halted)
    | none => false) &&
  s.clusters.all (fun c => c.vf != v || c.teams.all (fun t => t.groups.all (fun g => g.storeQ.isEmpty))) &&
  s.cmds.all (fun (k : Cmd) => k.team.vf != v || !k.accepted)

def State.readControl (s : State) (v at' : Nat) : Nat :=
  let f := s.vf v
  match at' with
  | 0x00 => (match f.runstate with | .running => 0 | .desched => 1 | .paused => 2) + 4 * bit (!f.msixPend.isEmpty) + 16 * bit (s.vfHalted v)
  | 0x08 => f.evDrop.toNat + 2 ^ 32 * f.held.length + 2 ^ 48 * f.evLost.toNat
  | _ => 0

def State.readHarvest (s : State) (v at' : Nat) : Nat :=
  let c := s.ctx v
  match at' with
  | 0x00 => c.hva
  | 0x08 => c.hcount
  | 0x10 => c.hbmp
  | 0x18 => 2 * bit c.hbusy + 4 * bit c.herr
  | _ => 0

def BState.code : BState → Nat
  | .active => 0 | .collapsing => 1 | .collapsed => 2 | .waking => 3

def State.readBivouac (s : State) (v at' : Nat) : Nat :=
  let f := s.vf v
  match at' with
  | 0x00 => f.bstate.code + 4 * bit f.holdoff + 16 * f.lendvf.toNat
  | 0x08 => f.collapses.toNat + 2 ^ 32 * f.lastwake.toNat
  | _ => 0

def State.readBoot (s : State) : Nat :=
  let b := s.boot
  b.stage + 2 ^ 4 * bit b.slot + 2 ^ 5 * bit b.ecdsaOk + 2 ^ 6 * bit b.lmsOk + 2 ^ 8 * b.failcode + 2 ^ 12 * b.planedark.toNat + 2 ^ 16 * bit b.throt

def State.readLane (s : State) (q : Nat) : Nat :=
  let x := s.quad q
  bit x.steered + 2 * x.flane + 2 ^ 6 * bit x.sparebad + 2 ^ 7 * bit x.dead + 2 ^ 8 * x.failcnt

def State.readMonitor (s : State) (m at' : Nat) : Nat :=
  let x := s.monitors.get m Monitor.reset
  let bucket (b : Nat) : Nat := (x.buckets.get b 0).toNat
  match at' with
  | 0x00 => x.src + 2 ^ 8 * x.target + 2 ^ 20 * x.lane + 2 ^ 23 * bit x.dir + 2 ^ 24 * bit x.en
  | 0x08 => x.min.toNat + 2 ^ 32 * x.max.toNat
  | 0x10 => x.count.toNat
  | a => if 0x20 ≤ a ∧ a < 0xA0 ∧ a % 8 = 0 then bucket ((a - 0x20) / 4) + 2 ^ 32 * bucket ((a - 0x20) / 4 + 1) else 0

/-- The capability structures of a function, by the number its standard gives each (R69, R71; PRESUMED, log 70): PCI Express, MSI-X and AER; on a PF also ACS,
SR-IOV and, on a port trained as CXL, the CXL vendor-specific one; on a VF, and on a PF for its VFs, ARI; and the five of virtio as vendor-specific ones, each
with its type: common, notification, ISR, device-specific and PCI configuration access. MSI, ATS, PRI, PASID and DPC have none. The numbers of extended
capabilities have bit 16 set. -/
def State.capabilities (s : State) (fn : Fn) : List Nat :=
  let ext (n : Nat) : Nat := 2 ^ 16 + n
  let virtio : List Nat := [1, 2, 3, 4, 5].map (fun t => 0x09 + 2 ^ 8 * t)
  [0x10, 0x11, ext 0x0001, ext 0x000E] ++ (match fn with
    | .pf i => [ext 0x000D, ext 0x0010] ++ (if (s.pf i).cxl then [ext 0x0023] else [])
    | .vf _ => []) ++ virtio

/-- The configuration of a function as it reads (R69 to R74): the queues' own fields, the windows of the feature words, device_status, the ISR status, which stays 0
because MSI-X is the only interrupt and no configuration change is signalled (log 70), and the header with the Vendor ID, which the spec does not give
(log 18), the Device ID, TotalVFs, the link, notify_off_multiplier and the capability structures. -/
def State.readConfig (s : State) (fn : Fn) (off : Nat) : Nat :=
  let t := s.transport fn
  let window (w : BitVec 128) (sel : Nat) : Nat := if sel < 4 then w.toNat / 2 ^ (32 * sel) % 2 ^ 32 else 0
  if headerConfig ≤ off then
    match off - headerConfig, fn with
    | 0, .pf _ => Config.vendorId % 65536 + 0x9640 * 65536
    | 0, .vf _ => Config.vendorId % 65536 + 0x9641 * 65536
    | 8, .pf i => 128 + 2 ^ 16 * (s.pf i).numvfs + 2 ^ 32 * bit (s.pf i).vfEnable
    | 16, .pf i => (s.pf i).speed + 2 ^ 8 * (s.pf i).width + 2 ^ 16 * bit (s.pf i).linkUp + 2 ^ 17 * bit (s.pf i).cxl
    | 24, .pf i => (s.pf i).acs.toNat
    | 32, .pf i => (s.pf i).aer.toNat
    | 40, _ => 4096
    | 48, .pf i => (s.pf i).l0p
    | a, _ => if 256 ≤ a ∧ a % 8 = 0 then (s.capabilities fn).getD ((a - 256) / 8) 0 else match fn with
      | .vf _ => 0
      | .pf i => (match blockOf a 64 16 4 with
      | some (d, 0) => (match (s.pf i).hdm[d]? with | some h => h.base + bit h.committed | none => 0)
      | some (d, 8) => (match (s.pf i).hdm[d]? with | some h => h.size | none => 0)
      | _ => 0)
  else if deviceConfig ≤ off then
    match off - deviceConfig with
    | 0 => t.devSel
    | 8 => window (s.offered fn) t.devSel
    | 16 => t.drvSel
    | 24 => window t.features t.drvSel
    | 32 => t.cfgVector.toNat
    | 48 => t.deviceStatus
    | 56 => t.winOff
    | 64 => t.winLen
    | _ => 0
  else
    let q := (off - commonConfig) / 32
    let x := match fn with | .pf i => (if q = 0 then (s.pf i).adminQ else VQueue.reset) | .vf v => (s.vf v).queues.get q VQueue.reset
    match (off - commonConfig) % 32 with
    | 0 => x.vector
    | 8 => bit x.enabled
    | 16 => x.size
    | 24 => x.usedEvent + 65536 * bit x.noInterrupt
    | _ => 0

/-- What a read of 64 bits at a multiple of 8 gives; reserved offsets read 0. -/
def State.readWord (s : State) (fn : Fn) (off : Nat) : Nat :=
  if commonConfig ≤ off then s.readConfig fn off
  else match fn with
  | .vf v => s.readFn (.vf v) off
  | .pf i =>
    if off < 0x1000 then s.readFn (.pf i) off
    else match blockOf off 0x1000 0x100 128 with
    | some (v, at') => if s.reaches i v then s.readFn (.vf v) at' else 0
    | none => match blockOf off 0xB000 8 128 with
    | some (d, _) => let p := s.peers.get d (0, false); p.1 + 8 * bit p.2
    | none => match blockOf off 0xC000 8 625 with
    | some (k, _) => if k / 25 < k % 25 then s.readRoute k else 0
    | none => match blockOf off 0x10000 128 128 with
    | some (v, at') => s.readCtxReg v at'
    | none => match blockOf off 0x20000 0x100 16 with
    | some (k, at') => s.readStackReg k at'
    | none =>
    if off = 0x21000 then s.ccbase * 2 ^ 21
    else if off = 0x21008 then s.ccframes
    else match blockOf off 0x22000 8 128 with
    | some (v, _) => let f := s.vf v; bit f.devOk + 2 * bit f.sysOk + 4 * bit f.act + 2 ^ 32 * f.refcnt.toNat
    | none => match blockOf off 0x23000 8 128 with
    | some (v, _) => s.readDebug v
    | none => match blockOf off 0x24000 64 128 with
    | some (v, at') => s.readTrapReg v at'
    | none => match blockOf off 0x26000 16 128 with
    | some (v, at') => s.readControl v at'
    | none => match blockOf off 0x27000 32 128 with
    | some (v, at') => s.readHarvest v at'
    | none =>
    if off = 0x28000 then s.spillbase
    else if off = 0x2A000 then s.restsz + s.restbase
    else match blockOf off 0x2B000 16 128 with
    | some (v, at') => s.readBivouac v at'
    | none =>
    if off = 0x2C000 then s.readBoot
    else if off = 0x2C008 then s.boot.pwrlim + 2 ^ 32 * s.boot.pwrnow
    else match blockOf off 0x30000 8 1024 with
    | some (q, _) => s.readLane q
    | none => match blockOf off 0x40000 256 64 with
    | some (m, at') => s.readMonitor m at'
    | none => 0

/-- What a read at an offset gives: 64 bits at a multiple of 8. The maps also name registers of 32 bits in an upper half, GEN and QUADS among them: a read 4
past a multiple of 8 gives the upper half of the 64 bits it lies in, of a register of 64 bits as well, and any other offset reads 0 (DESIGN CHOICE, log 46). -/
def State.readReg (s : State) (fn : Fn) (off : Nat) : BitVec 64 :=
  let off := if off = windowData then (if (s.transport fn).winLen = 0 then 2 ^ 32 + 7 else (s.transport fn).winOff) else off
  BitVec.ofNat 64 (if off % 8 = 0 then s.readWord fn off else if off % 8 = 4 then s.readWord fn (off - 4) / 2 ^ 32 % 2 ^ 32 else 0)

end Sys2Proof.Machine
end

