-- ==== Sys2Proof/Machine/Dispatch.lean ====
section
/-! DEFINITION. Which meaning each instruction has. -/
namespace Sys2Proof.Machine

/-- The effect of one instruction. -/
def exec (i : Instr) (s : State) : Host.Outcome State Fault Refusal :=
  match i with
  | .vadd f => Sys2Proof.Machine.execVadd f s
  | .vsub f => Sys2Proof.Machine.execVsub f s
  | .vmul f => Sys2Proof.Machine.execVmul f s
  | .vmulhi f => Sys2Proof.Machine.execVmulhi f s
  | .vmad f => Sys2Proof.Machine.execVmad f s
  | .vfma f => Sys2Proof.Machine.execVfma f s
  | .vfms f => Sys2Proof.Machine.execVfms f s
  | .vfnma f => Sys2Proof.Machine.execVfnma f s
  | .vdiv f => Sys2Proof.Machine.execVdiv f s
  | .vrem f => Sys2Proof.Machine.execVrem f s
  | .vmin f => Sys2Proof.Machine.execVmin f s
  | .vmax f => Sys2Proof.Machine.execVmax f s
  | .vabs f => Sys2Proof.Machine.execVabs f s
  | .vneg f => Sys2Proof.Machine.execVneg f s
  | .vclamp f => Sys2Proof.Machine.execVclamp f s
  | .vavg f => Sys2Proof.Machine.execVavg f s
  | .vsad f => Sys2Proof.Machine.execVsad f s
  | .vdot4 f => Sys2Proof.Machine.execVdot4 f s
  | .vdot2 f => Sys2Proof.Machine.execVdot2 f s
  | .vsetp f => Sys2Proof.Machine.execVsetp f s
  | .vsel f => Sys2Proof.Machine.execVsel f s
  | .vmov f => Sys2Proof.Machine.execVmov f s
  | .vand f => Sys2Proof.Machine.execVand f s
  | .vor f => Sys2Proof.Machine.execVor f s
  | .vxor f => Sys2Proof.Machine.execVxor f s
  | .vnot f => Sys2Proof.Machine.execVnot f s
  | .vlut3 f => Sys2Proof.Machine.execVlut3 f s
  | .vshl f => Sys2Proof.Machine.execVshl f s
  | .vshr f => Sys2Proof.Machine.execVshr f s
  | .vsra f => Sys2Proof.Machine.execVsra f s
  | .vrotl f => Sys2Proof.Machine.execVrotl f s
  | .vfsh f => Sys2Proof.Machine.execVfsh f s
  | .vpopc f => Sys2Proof.Machine.execVpopc f s
  | .vclz f => Sys2Proof.Machine.execVclz f s
  | .vbrev f => Sys2Proof.Machine.execVbrev f s
  | .vbfe f => Sys2Proof.Machine.execVbfe f s
  | .vbfi f => Sys2Proof.Machine.execVbfi f s
  | .vbytesel f => Sys2Proof.Machine.execVbytesel f s
  | .vrcp f => Sys2Proof.Machine.execVrcp f s
  | .vrsqrt f => Sys2Proof.Machine.execVrsqrt f s
  | .vsqrt f => Sys2Proof.Machine.execVsqrt f s
  | .vexp2 f => Sys2Proof.Machine.execVexp2 f s
  | .vlog2 f => Sys2Proof.Machine.execVlog2 f s
  | .vsin f => Sys2Proof.Machine.execVsin f s
  | .vcos f => Sys2Proof.Machine.execVcos f s
  | .vtanh f => Sys2Proof.Machine.execVtanh f s
  | .vrint f => Sys2Proof.Machine.execVrint f s
  | .vfrac f => Sys2Proof.Machine.execVfrac f s
  | .vldexp f => Sys2Proof.Machine.execVldexp f s
  | .vgetexp f => Sys2Proof.Machine.execVgetexp f s
  | .vclass f => Sys2Proof.Machine.execVclass f s
  | .vcpsgn f => Sys2Proof.Machine.execVcpsgn f s
  | .vcvt f => Sys2Proof.Machine.execVcvt f s
  | .vcvtp f => Sys2Proof.Machine.execVcvtp f s
  | .vqn8 f => Sys2Proof.Machine.execVqn8 f s
  | .vqn4 f => Sys2Proof.Machine.execVqn4 f s
  | .vbpack f => Sys2Proof.Machine.execVbpack f s
  | .vbunpack f => Sys2Proof.Machine.execVbunpack f s
  | .vbscale f => Sys2Proof.Machine.execVbscale f s
  | .vbfmt f => Sys2Proof.Machine.execVbfmt f s
  | .vbzero f => Sys2Proof.Machine.execVbzero f s
  | .vcairn f => Sys2Proof.Machine.execVcairn f s
  | .vshfl f => Sys2Proof.Machine.execVshfl f s
  | .vshfup f => Sys2Proof.Machine.execVshfup f s
  | .vshfdn f => Sys2Proof.Machine.execVshfdn f s
  | .vshfx f => Sys2Proof.Machine.execVshfx f s
  | .vballot f => Sys2Proof.Machine.execVballot f s
  | .vpoll f => Sys2Proof.Machine.execVpoll f s
  | .vredadd f => Sys2Proof.Machine.execVredadd f s
  | .vredmin f => Sys2Proof.Machine.execVredmin f s
  | .vredmax f => Sys2Proof.Machine.execVredmax f s
  | .vscan f => Sys2Proof.Machine.execVscan f s
  | .vmatch f => Sys2Proof.Machine.execVmatch f s
  | .sadd f => Sys2Proof.Machine.execSadd f s
  | .ssub f => Sys2Proof.Machine.execSsub f s
  | .smul f => Sys2Proof.Machine.execSmul f s
  | .smulhi f => Sys2Proof.Machine.execSmulhi f s
  | .sdiv f => Sys2Proof.Machine.execSdiv f s
  | .srem f => Sys2Proof.Machine.execSrem f s
  | .smin f => Sys2Proof.Machine.execSmin f s
  | .smax f => Sys2Proof.Machine.execSmax f s
  | .sabs f => Sys2Proof.Machine.execSabs f s
  | .sand f => Sys2Proof.Machine.execSand f s
  | .sor f => Sys2Proof.Machine.execSor f s
  | .sxor f => Sys2Proof.Machine.execSxor f s
  | .snot f => Sys2Proof.Machine.execSnot f s
  | .sshl f => Sys2Proof.Machine.execSshl f s
  | .sshr f => Sys2Proof.Machine.execSshr f s
  | .ssra f => Sys2Proof.Machine.execSsra f s
  | .srotl f => Sys2Proof.Machine.execSrotl f s
  | .spopc f => Sys2Proof.Machine.execSpopc f s
  | .sclz f => Sys2Proof.Machine.execSclz f s
  | .sbfe f => Sys2Proof.Machine.execSbfe f s
  | .sbfi f => Sys2Proof.Machine.execSbfi f s
  | .scmp f => Sys2Proof.Machine.execScmp f s
  | .ssel f => Sys2Proof.Machine.execSsel f s
  | .smov f => Sys2Proof.Machine.execSmov f s
  | .smovhi f => Sys2Proof.Machine.execSmovhi f s
  | .sget f => Sys2Proof.Machine.execSget f s
  | .saddr f => Sys2Proof.Machine.execSaddr f s
  | .sfirst f => Sys2Proof.Machine.execSfirst f s
  | .nop f => Sys2Proof.Machine.execNop f s
  | .bra f => Sys2Proof.Machine.execBra f s
  | .brai f => Sys2Proof.Machine.execBrai f s
  | .bany f => Sys2Proof.Machine.execBany f s
  | .ball f => Sys2Proof.Machine.execBall f s
  | .bdiv f => Sys2Proof.Machine.execBdiv f s
  | .join f => Sys2Proof.Machine.execJoin f s
  | .call f => Sys2Proof.Machine.execCall f s
  | .ret f => Sys2Proof.Machine.execRet f s
  | .pause f => Sys2Proof.Machine.execPause f s
  | .exit f => Sys2Proof.Machine.execExit f s
  | .reorder f => Sys2Proof.Machine.execReorder f s
  | .spawn f => Sys2Proof.Machine.execSpawn f s
  | .callr f => Sys2Proof.Machine.execCallr f s
  | .rep f => Sys2Proof.Machine.execRep f s
  | .ld f => Sys2Proof.Machine.execLd f s
  | .st f => Sys2Proof.Machine.execSt f s
  | .ldsp f => Sys2Proof.Machine.execLdsp f s
  | .stsp f => Sys2Proof.Machine.execStsp f s
  | .ldcl f => Sys2Proof.Machine.execLdcl f s
  | .stcl f => Sys2Proof.Machine.execStcl f s
  | .sld f => Sys2Proof.Machine.execSld f s
  | .sst f => Sys2Proof.Machine.execSst f s
  | .ldb f => Sys2Proof.Machine.execLdb f s
  | .stb f => Sys2Proof.Machine.execStb f s
  | .recld f => Sys2Proof.Machine.execRecld f s
  | .recinv f => Sys2Proof.Machine.execRecinv f s
  | .pref f => Sys2Proof.Machine.execPref f s
  | .resid f => Sys2Proof.Machine.execResid f s
  | .sptest f => Sys2Proof.Machine.execSptest f s
  | .acopy f => Sys2Proof.Machine.execAcopy f s
  | .awrite f => Sys2Proof.Machine.execAwrite f s
  | .agather f => Sys2Proof.Machine.execAgather f s
  | .ascatter f => Sys2Proof.Machine.execAscatter f s
  | .astage f => Sys2Proof.Machine.execAstage f s
  | .afill f => Sys2Proof.Machine.execAfill f s
  | .ahut f => Sys2Proof.Machine.execAhut f s
  | .asummit f => Sys2Proof.Machine.execAsummit f s
  | .hwait f => Sys2Proof.Machine.execHwait f s
  | .htest f => Sys2Proof.Machine.execHtest f s
  | .hpass f => Sys2Proof.Machine.execHpass f s
  | .hcancel f => Sys2Proof.Machine.execHcancel f s
  | .barinit f => Sys2Proof.Machine.execBarinit f s
  | .barexp f => Sys2Proof.Machine.execBarexp f s
  | .mnop f => Sys2Proof.Machine.execMnop f s
  | .mzero f => Sys2Proof.Machine.execMzero f s
  | .mmac f => Sys2Proof.Machine.execMmac f s
  | .mldacc f => Sys2Proof.Machine.execMldacc f s
  | .mdrain f => Sys2Proof.Machine.execMdrain f s
  | .mdradd f => Sys2Proof.Machine.execMdradd f s
  | .mbarw f => Sys2Proof.Machine.execMbarw f s
  | .mbara f => Sys2Proof.Machine.execMbara f s
  | .mringw f => Sys2Proof.Machine.execMringw f s
  | .mrings f => Sys2Proof.Machine.execMrings f s
  | .mset f => Sys2Proof.Machine.execMset f s
  | .msetBexp f => Sys2Proof.Machine.execMsetBexp f s
  | .msetRing f => Sys2Proof.Machine.execMsetRing f s
  | .madd f => Sys2Proof.Machine.execMadd f s
  | .mloop f => Sys2Proof.Machine.execMloop f s
  | .mbra f => Sys2Proof.Machine.execMbra f s
  | .mexit f => Sys2Proof.Machine.execMexit f s
  | .mseed f => Sys2Proof.Machine.execMseed f s
  | .gadd f => Sys2Proof.Machine.execGadd f s
  | .gaddf f => Sys2Proof.Machine.execGaddf f s
  | .gmin f => Sys2Proof.Machine.execGmin f s
  | .gmax f => Sys2Proof.Machine.execGmax f s
  | .gand f => Sys2Proof.Machine.execGand f s
  | .gor f => Sys2Proof.Machine.execGor f s
  | .gxor f => Sys2Proof.Machine.execGxor f s
  | .gxchg f => Sys2Proof.Machine.execGxchg f s
  | .gcas f => Sys2Proof.Machine.execGcas f s
  | .ginc f => Sys2Proof.Machine.execGinc f s
  | .padd f => Sys2Proof.Machine.execPadd f s
  | .paddf f => Sys2Proof.Machine.execPaddf f s
  | .pmin f => Sys2Proof.Machine.execPmin f s
  | .pmax f => Sys2Proof.Machine.execPmax f s
  | .pxchg f => Sys2Proof.Machine.execPxchg f s
  | .pcas f => Sys2Proof.Machine.execPcas f s
  | .fence f => Sys2Proof.Machine.execFence f s
  | .nbarr f => Sys2Proof.Machine.execNbarr f s
  | .nbwait f => Sys2Proof.Machine.execNbwait f s
  | .ringw f => Sys2Proof.Machine.execRingw f s
  | .rings f => Sys2Proof.Machine.execRings f s
  | .barwait f => Sys2Proof.Machine.execBarwait f s
  | .sread f => Sys2Proof.Machine.execSread f s
  | .swrite f => Sys2Proof.Machine.execSwrite f s
  | .trap f => Sys2Proof.Machine.execTrap f s
  | .isync f => Sys2Proof.Machine.execIsync f s
  | .icinv f => Sys2Proof.Machine.execIcinv f s
  | .brk f => Sys2Proof.Machine.execBrk f s
  | .diagrd f => Sys2Proof.Machine.execDiagrd f s
  | .diagwr f => Sys2Proof.Machine.execDiagwr f s
  | .errinj f => Sys2Proof.Machine.execErrinj f s
  | .hadd t d a b => Sys2Proof.Machine.execHadd t d a b s
  | .hsub t d a b => Sys2Proof.Machine.execHsub t d a b s
  | .hmul t d a b => Sys2Proof.Machine.execHmul t d a b s
  | .hfma t d a b c => Sys2Proof.Machine.execHfma t d a b c s
  | .hmin t d a b => Sys2Proof.Machine.execHmin t d a b s
  | .hmax t d a b => Sys2Proof.Machine.execHmax t d a b s
  | .habs t d a => Sys2Proof.Machine.execHabs t d a s
  | .hand d a b => Sys2Proof.Machine.execHand d a b s
  | .hor d a b => Sys2Proof.Machine.execHor d a b s
  | .hxor d a b => Sys2Proof.Machine.execHxor d a b s
  | .hshl t d a b => Sys2Proof.Machine.execHshl t d a b s
  | .hshr t d a b => Sys2Proof.Machine.execHshr t d a b s
  | .hcmp t d a b cc => Sys2Proof.Machine.execHcmp t d a b cc s
  | .hsel d a b c => Sys2Proof.Machine.execHsel d a b c s
  | .hcvt t d a u => Sys2Proof.Machine.execHcvt t d a u s
  | .hmov d a => Sys2Proof.Machine.execHmov d a s
  | .hbcast d a e => Sys2Proof.Machine.execHbcast d a e s
  | .hsum t d a => Sys2Proof.Machine.execHsum t d a s
  | .hld d k n => Sys2Proof.Machine.execHld d k n s
  | .hst src k n => Sys2Proof.Machine.execHst src k n s
  | .hseti t d imm => Sys2Proof.Machine.execHseti t d imm s
  | .hloop lv cs n bl => Sys2Proof.Machine.execHloop lv cs n bl s
  | .hidx t d sel => Sys2Proof.Machine.execHidx t d sel s
  | .hnop => Sys2Proof.Machine.execHnop s
  | .hend => Sys2Proof.Machine.execHend s
  | .icacheFill core ctx line glitch => Sys2Proof.Machine.execIcacheFill core ctx line glitch s
  | .perst port => Sys2Proof.Machine.execPerst port s
  | .meminit ok => Sys2Proof.Machine.execMeminit ok s
  | .fabricTrain ok => Sys2Proof.Machine.execFabricTrain ok s
  | .planeDark plane => Sys2Proof.Machine.execPlaneDark plane s
  | .planeLit plane => Sys2Proof.Machine.execPlaneLit plane s
  | .containerLoad vf ctr image places => Sys2Proof.Machine.execContainerLoad vf ctr image places s
  | .registerWrite fn off value => Sys2Proof.Machine.execRegisterWrite fn off value s
  | .deviceStatusReset vf => Sys2Proof.Machine.execDeviceStatusReset vf s
  | .vfFunctionLevelReset vf => Sys2Proof.Machine.execVfFunctionLevelReset vf s
  | .pfFunctionLevelReset pf => Sys2Proof.Machine.execPfFunctionLevelReset pf s
  | .featuresOk fn accepted => Sys2Proof.Machine.execFeaturesOk fn accepted s
  | .driverOk fn => Sys2Proof.Machine.execDriverOk fn s
  | .vfEnable pf on => Sys2Proof.Machine.execVfEnable pf on s
  | .numvfsWrite pf n => Sys2Proof.Machine.execNumvfsWrite pf n s
  | .notify fn queue posted => Sys2Proof.Machine.execNotify fn queue posted s
  | .queueReset vf queue => Sys2Proof.Machine.execQueueReset vf queue s
  | .launch vf queue => Sys2Proof.Machine.execLaunch vf queue s
  | .signal vf queue => Sys2Proof.Machine.execSignal vf queue s
  | .createPart pf => Sys2Proof.Machine.execCreatePart pf s
  | .createVf pf => Sys2Proof.Machine.execCreateVf pf s
  | .destroyVf pf => Sys2Proof.Machine.execDestroyVf pf s
  | .clusterPlace chiplet => Sys2Proof.Machine.execClusterPlace chiplet s
  | .eventDeliver vf => Sys2Proof.Machine.execEventDeliver vf s
  | .laneFailure quad lane => Sys2Proof.Machine.execLaneFailure quad lane s
  | .laneSteer quad => Sys2Proof.Machine.execLaneSteer quad s
  | .laneGo pf quad lane => Sys2Proof.Machine.execLaneGo pf quad lane s
  | .compactionTimeout team entry => Sys2Proof.Machine.execCompactionTimeout team entry s
  | .emittedGroupPlace team => Sys2Proof.Machine.execEmittedGroupPlace team s
  | .reorderTimeout team slot => Sys2Proof.Machine.execReorderTimeout team slot s
  | .spawnPoolEmit team => Sys2Proof.Machine.execSpawnPoolEmit team s
  | .spawnLeftoverTimeout team slot => Sys2Proof.Machine.execSpawnLeftoverTimeout team slot s
  | .lodgeReply quad entry error => Sys2Proof.Machine.execLodgeReply quad entry error s
  | .lodgeTimeout quad entry => Sys2Proof.Machine.execLodgeTimeout quad entry s
  | .scratchpadLoadReturn quad op => Sys2Proof.Machine.execScratchpadLoadReturn quad op s
  | .pageWalk core ctx page => Sys2Proof.Machine.execPageWalk core ctx page s
  | .storeQueueDrain quad place => Sys2Proof.Machine.execStoreQueueDrain quad place s
  | .bellDeliver chiplet => Sys2Proof.Machine.execBellDeliver chiplet s
  | .signatureRebuild core => Sys2Proof.Machine.execSignatureRebuild core s
  | .homeRead stack => Sys2Proof.Machine.execHomeRead stack s
  | .homeOwnership stack => Sys2Proof.Machine.execHomeOwnership stack s
  | .homeNotice stack => Sys2Proof.Machine.execHomeNotice stack s
  | .homeAtomic stack => Sys2Proof.Machine.execHomeAtomic stack s
  | .homeHutRead stack => Sys2Proof.Machine.execHomeHutRead stack s
  | .homeHst stack => Sys2Proof.Machine.execHomeHst stack s
  | .homeUncachedRead stack => Sys2Proof.Machine.execHomeUncachedRead stack s
  | .forward chiplet => Sys2Proof.Machine.execForward chiplet s
  | .noticeAck chiplet block => Sys2Proof.Machine.execNoticeAck chiplet block s
  | .snpinv port block => Sys2Proof.Machine.execSnpinv port block s
  | .snpdata port block => Sys2Proof.Machine.execSnpdata port block s
  | .snpcur port block => Sys2Proof.Machine.execSnpcur port block s
  | .cxlCacheResponse port block granted data => Sys2Proof.Machine.execCxlCacheResponse port block granted data s
  | .hostM2sRequest port block req => Sys2Proof.Machine.execHostM2sRequest port block req s
  | .birsp port block data => Sys2Proof.Machine.execBirsp port block data s
  | .peerRequest port pa req => Sys2Proof.Machine.execPeerRequest port pa req s
  | .fecWindowEnd lane corrected => Sys2Proof.Machine.execFecWindowEnd lane corrected s
  | .resend dir charged => Sys2Proof.Machine.execResend dir charged s
  | .laneDrainEnd lane => Sys2Proof.Machine.execLaneDrainEnd lane s
  | .laneTrainPass lane => Sys2Proof.Machine.execLaneTrainPass lane s
  | .laneTrainFail lane => Sys2Proof.Machine.execLaneTrainFail lane s
  | .laneHandback lane => Sys2Proof.Machine.execLaneHandback lane s
  | .colourLost dir colour => Sys2Proof.Machine.execColourLost dir colour s
  | .colourRegained dir colour => Sys2Proof.Machine.execColourRegained dir colour s
  | .routingApply dir => Sys2Proof.Machine.execRoutingApply dir s
  | .storeDarkTimeout quad place => Sys2Proof.Machine.execStoreDarkTimeout quad place s
  | .asyncDarkTimeout cmd => Sys2Proof.Machine.execAsyncDarkTimeout cmd s
  | .walkDarkTimeout core ctx page => Sys2Proof.Machine.execWalkDarkTimeout core ctx page s
  | .hostDarkTimeout port block => Sys2Proof.Machine.execHostDarkTimeout port block s
  | .peerDarkTimeout port pa => Sys2Proof.Machine.execPeerDarkTimeout port pa s
  | .noticeResend chiplet block => Sys2Proof.Machine.execNoticeResend chiplet block s
  | .asyncAccept core => Sys2Proof.Machine.execAsyncAccept core s
  | .asyncBlockWrite cmd => Sys2Proof.Machine.execAsyncBlockWrite cmd s
  | .asyncComplete cmd => Sys2Proof.Machine.execAsyncComplete cmd s
  | .ahutLoad core => Sys2Proof.Machine.execAhutLoad core s
  | .ahutRun core => Sys2Proof.Machine.execAhutRun core s
  | .ahutReduce core => Sys2Proof.Machine.execAhutReduce core s
  | .asummitPred core => Sys2Proof.Machine.execAsummitPred core s
  | .asummitTopk core => Sys2Proof.Machine.execAsummitTopk core s
  | .hutLoadArrive hut cmd => Sys2Proof.Machine.execHutLoadArrive hut cmd s
  | .hutCommandStart hut => Sys2Proof.Machine.execHutCommandStart hut s
  | .commandSlotGrant stack channel => Sys2Proof.Machine.execCommandSlotGrant stack channel s
  | .hutDeadline cmd => Sys2Proof.Machine.execHutDeadline cmd s
  | .summitScanDone stack cmd => Sys2Proof.Machine.execSummitScanDone stack cmd s
  | .stackListArrive stack cmd => Sys2Proof.Machine.execStackListArrive stack cmd s
  | .drainCapture team slot acc => Sys2Proof.Machine.execDrainCapture team slot acc s
  | .drainEntry team slot acc => Sys2Proof.Machine.execDrainEntry team slot acc s
  | .draddApply tile => Sys2Proof.Machine.execDraddApply tile s
  | .draddLateFailure tile => Sys2Proof.Machine.execDraddLateFailure tile s
  | .preempt vf => Sys2Proof.Machine.execPreempt vf s
  | .haltComplete quad => Sys2Proof.Machine.execHaltComplete quad s
  | .resumego vf => Sys2Proof.Machine.execResumego vf s
  | .restoreComplete quad => Sys2Proof.Machine.execRestoreComplete quad s
  | .runstateRunning vf => Sys2Proof.Machine.execRunstateRunning vf s
  | .runstateDesched vf => Sys2Proof.Machine.execRunstateDesched vf s
  | .runstatePaused vf => Sys2Proof.Machine.execRunstatePaused vf s
  | .kick vf => Sys2Proof.Machine.execKick vf s
  | .trapResume ctx => Sys2Proof.Machine.execTrapResume ctx s
  | .trapRelaunch ctx => Sys2Proof.Machine.execTrapRelaunch ctx s
  | .trapEnd ctx => Sys2Proof.Machine.execTrapEnd ctx s
  | .brkResume ctx => Sys2Proof.Machine.execBrkResume ctx s
  | .verifyTimeout quad place => Sys2Proof.Machine.execVerifyTimeout quad place s
  | .invalidateGo ctx => Sys2Proof.Machine.execInvalidateGo ctx s
  | .invalidateComplete ctx => Sys2Proof.Machine.execInvalidateComplete ctx s
  | .harvestGo ctx => Sys2Proof.Machine.execHarvestGo ctx s
  | .harvestComplete ctx => Sys2Proof.Machine.execHarvestComplete ctx s
  | .collapseBegin vf => Sys2Proof.Machine.execCollapseBegin vf s
  | .collapseComplete vf => Sys2Proof.Machine.execCollapseComplete vf s
  | .wakeComplete vf => Sys2Proof.Machine.execWakeComplete vf s
  | .selfRefreshEntry stack => Sys2Proof.Machine.execSelfRefreshEntry stack s
  | .monitorClr monitor => Sys2Proof.Machine.execMonitorClr monitor s
  | .linkUp pf cxl => Sys2Proof.Machine.execLinkUp pf cxl s
  | .arrayFree quad => Sys2Proof.Machine.execArrayFree quad s
  | .icacheLinesDropped quad place => Sys2Proof.Machine.execIcacheLinesDropped quad place s
  | .powerOn => Sys2Proof.Machine.execPowerOn s
  | .oobReset => Sys2Proof.Machine.execOobReset s
  | .bootRom => Sys2Proof.Machine.execBootRom s
  | .fwverify => Sys2Proof.Machine.execFwverify s
  | .repair => Sys2Proof.Machine.execRepair s
  | .junctionThrottle => Sys2Proof.Machine.execJunctionThrottle s
  | .junctionRecover => Sys2Proof.Machine.execJunctionRecover s
  | .thermalTrip => Sys2Proof.Machine.execThermalTrip s
  | .priorityAging => Sys2Proof.Machine.execPriorityAging s
  | .energyRefill => Sys2Proof.Machine.execEnergyRefill s

end Sys2Proof.Machine
end

