-- ==== Sys2Proof/Machine/Step.lean ====
section
/-! DEFINITION. One step of the module, and the state in which the next step runs a given word. -/
namespace Sys2Proof.Machine

/-- One step: the next turn of the schedule, and the instruction it executes if it executes one. -/
def step (s : State) : Host.Outcome State Fault Refusal :=
  let (u, s) := s.nextTurn
  match s.turn u with
  | (s, some i) => exec i s
  | (s, none) => .next s

/-- The kernel of the loaded program (log 9): one team of one group of 32 threads with 32 registers, entered at slot 0 of line 0. -/
def kernelOfWord (porter mtx : Bool) : KDesc :=
  { entry := 0, pentry := 0, mentry := if mtx then 0 else 2 ^ 64 - 1, tx := 32, ty := 1, tz := 1, cw := 1, ch := 1, regs := 32, porters := if porter then 1 else 0,
    rings := 8, spad := 4096, bsram := 0, spawn := 0, flags := 0, decl := 0, codeSeg := 0, zeros := true }

/-- Its launch packet. -/
def packetOfWord : Packet :=
  { flags := 0, prio := 0, ctr := 0, kidx := 0, recmask := 0, gx := 1, gy := 1, gz := 1, pvec := List.replicate 8 0, args := List.replicate 4 0,
    waittl := 0xFF, sigtl := 0xFF, waitval := 0, sigval := 0, tag := 0, zeros := true }

/-- Its launch. -/
def launchOfWord (porter mtx : Bool) : Launch :=
  { vf := 0, id := 1, queue := 0, head := 0, gen := 0, order := 0, pkt := packetOfWord, kd := kernelOfWord porter mtx, codeBase := 0, recs := [], copy := 0,
    after := [], ready := some 0, prio := 0, shares := [1, 0, 0, 0, 0, 0, 0, 0], nextCl := [1, 1, 1, 1, 1, 1, 1, 1], requeue := [], retired := 0,
    ended := none, rollbacks := 0 }

/-- Its team on quadrant 0 of core 0. -/
def teamOfWord (porter mtx : Bool) : Team :=
  { ref := { vf := 0, launch := 1, cluster := 0, cteam := 0 }, teamId := 0, core := 0, quads := [0], places := [[0]], seconds := [[]], banks := [[0]],
    threads := (List.range 32).map (fun l => Thread.start 0 l 32 porter 0 l 0 0)
    groups := [Group.start 0 0 porter (List.replicate 32 (some 0)) { s := List.replicate 64 SReg.zero, b := List.replicate 16 BReg.null, lp := 0, keyFrom := 0, wrote := 0 }]
    stack := [], nextEntry := 0, waiting := [], reorder := [], pool := [], spawned := [], spad := [], absent := [], objs := [], arrived := [], badLines := [], bsram := [],
    badBsram := [], acc := [], ports := [], seqs := if mtx then [Seq.start 0 0 (List.replicate 4 0)] else []
    barriers := List.replicate 16 (Barrier.start 1), rings := List.replicate 8 Ring.start, ringerr := 0, cairnkey := 0, keyLog := [], pend := [], stageLog := [],
    staged := [], haltedAt := none, retired := false }

/-- Its cluster. -/
def clusterOfWord (porter mtx : Bool) : Cluster :=
  { vf := 0, gen := 0, launch := 1, idx := 0, kidx := 0, ctr := 0, firstTeam := 0, chiplet := 0, x0 := 0, y0 := 0, copy := 0, gbQuad := 0, escaped := false,
    verify := false, retries := 0, st := .running, teams := [teamOfWord porter mtx] }

/-- The hut command whose program the word is (log 9). -/
def cmdOfWord : Cmd :=
  { id := 0, core := 0, team := { vf := 0, launch := 0, cluster := 0, cteam := 0 }, place := 0, slot := 0, hreg := none, op := 6, a := 0, b := 0, c := 0,
    brec := BReg.null, mod := 0, imm := 0, acq := false, rel := false, scope := 0, after := [], accepted := true, acceptedAt := 0, shape := 0, pages := [],
    total := 0, next := 0, counted := 0, subbed := 0, stores := 0, signal := none, scanAt := [], granted := [], bar := none, lines := [], fault := none, idxFault := false, reject := none, cancel := false, sent := true,
    arrived := [], left := [], hutFault := none, busy := false, reported := [], pmask := 0, mmask := 0, partials := [], lists := [], scanned := [], result := none, finished := false, unverified := false, idxs := none,
    asked := none, prog := [], held := [], away := false, grid := none }

/-- The state in which the next step runs the instruction whose bits are `w`: a word of 32 bits or fewer as the program of a hut command
running on hut 0, any other as slot 0 of the line from which a group, or a sequencer for class MTX, of a resident team fetches next (log 9). -/
def State.withFetchWord (s : State) (nbits w : Nat) : State :=
  if nbits ≤ 32 then
    let h : Hut := { Hut.reset with ib := (List.replicate 96 (0 : BitVec 32)).set 0 (BitVec.ofNat 32 w), tag := some (0, 0, 96), running := some 0 }
    { s with huts := Tab.set s.huts 0 h, cmds := [cmdOfWord], agenda := [(0, .hut 0)] }
  else
    let x : IWord := BitVec.ofNat 96 w
    let cls := Cls.decode (fieldOf x 92 3)
    let mtx := decide (cls = .mtx)
    let porter := decide (cls = .asy)
    let line : ILine := { ctx := 0, line := 0, slots := [x, 0, 0, 0, 0], word := 0, bad := 0, error := false }
    { s with launches := [launchOfWord porter mtx], clusters := [clusterOfWord porter mtx], icache := [(0, [line])]
             quads := Tab.set s.quads 0 { Quad.reset with queue := [({ vf := 0, launch := 1, cluster := 0, cteam := 0 }, 0)] }
             agenda := [(0, if mtx then .seq 0 else .quad 0)] }

end Sys2Proof.Machine
end

