-- ==== Sys2Proof/Laws/Memory.lean ====
section
/-! SUPPORT. Memory keeps its canonical form; a read after a write; equal reads are equal memories. -/
namespace Sys2Proof.Machine

/-- The canonical form may start lower. -/
theorem Memory.wfFrom_mono {m : Memory} {lo lo' : Nat} (h : Memory.wfFrom lo m = true) (k : lo' ≤ lo) : Memory.wfFrom lo' m = true := by
  cases m with
  | nil => rfl
  | cons c rest => simp only [Memory.wfFrom, Bool.and_eq_true, decide_eq_true_eq] at *; exact ⟨⟨by omega, h.1.2⟩, h.2⟩

/-- Below its first address a memory in canonical form reads as unlisted. -/
theorem Memory.read_below {m : Memory} {lo a : Nat} (h : Memory.wfFrom lo m = true) (k : a < lo) : m.read a = Config.unlistedByte := by
  cases m with
  | nil => rfl
  | cons c rest =>
    obtain ⟨n, x⟩ := c
    simp only [Memory.wfFrom, Bool.and_eq_true, decide_eq_true_eq] at h
    simp only [Memory.read]; rw [if_neg (by omega), if_pos (by omega)]

/-- A write keeps the canonical form. -/
theorem Memory.write_wfFrom {m : Memory} {lo a : Nat} (b : Byte) (h : Memory.wfFrom lo m = true) (k : lo ≤ a) : Memory.wfFrom lo (m.write a b) = true := by
  induction m generalizing lo with
  | nil => simp only [Memory.write]; split <;> simp_all [Memory.wfFrom]
  | cons c rest ih =>
    obtain ⟨n, x⟩ := c
    simp only [Memory.wfFrom, Bool.and_eq_true, decide_eq_true_eq] at h
    simp only [Memory.write]
    split
    · split
      · simp only [Memory.wfFrom, Bool.and_eq_true, decide_eq_true_eq]; exact h
      · simp only [Memory.wfFrom, Bool.and_eq_true, decide_eq_true_eq]; exact ⟨⟨k, ‹_›⟩, ⟨by omega, h.1.2⟩, h.2⟩
    · split
      · split
        · exact Memory.wfFrom_mono h.2 (by omega)
        · simp only [Memory.wfFrom, Bool.and_eq_true, decide_eq_true_eq]; exact ⟨⟨k, ‹_›⟩, by subst_vars; exact h.2⟩
      · simp only [Memory.wfFrom, Bool.and_eq_true, decide_eq_true_eq]; exact ⟨h.1, ih h.2 (by omega)⟩

@[simp] theorem Memory.write_wf {m : Memory} (a : Nat) (b : Byte) (h : m.wf = true) : (m.write a b).wf = true := Memory.write_wfFrom b h (Nat.zero_le a)

@[simp] theorem Memory.writeBytes_wf {m : Memory} (a : Nat) (bs : List Byte) (h : m.wf = true) : (m.writeBytes a bs).wf = true := by
  induction bs generalizing m a with
  | nil => exact h
  | cons b bs ih => exact ih (a + 1) (Memory.write_wf a b h)

@[simp] theorem Memory.writeCells_wf {m : Memory} (cs : List Host.Cell) (h : m.wf = true) : (m.writeCells cs).wf = true := by
  unfold Memory.writeCells
  induction cs generalizing m with
  | nil => exact h
  | cons c cs ih => exact ih (Memory.write_wf c.1 c.2 h)

@[simp] theorem Memory.orNat_wf {m : Memory} (a n mask : Nat) (h : m.wf = true) : (m.orNat a n mask).wf = true := Memory.writeBytes_wf a _ h

/-- A sublist by address keeps the canonical form. -/
theorem Memory.filter_wfFrom {m : Memory} {lo : Nat} (p : Host.Cell → Bool) (h : Memory.wfFrom lo m = true) : Memory.wfFrom lo (List.filter p m) = true := by
  induction m generalizing lo with
  | nil => rfl
  | cons c rest ih =>
    obtain ⟨n, x⟩ := c
    simp only [Memory.wfFrom, Bool.and_eq_true, decide_eq_true_eq] at h
    simp only [List.filter_cons]
    split
    · simp only [Memory.wfFrom, Bool.and_eq_true, decide_eq_true_eq]; exact ⟨h.1, ih h.2⟩
    · exact Memory.wfFrom_mono (ih h.2) (by omega)

/-- The byte written is read back. -/
theorem Memory.read_write_same {m : Memory} {lo : Nat} (a : Nat) (b : Byte) (h : Memory.wfFrom lo m = true) : (m.write a b).read a = b := by
  induction m generalizing lo with
  | nil => simp only [Memory.write]; split <;> simp_all [Memory.read]
  | cons c rest ih =>
    obtain ⟨n, x⟩ := c
    simp only [Memory.wfFrom, Bool.and_eq_true, decide_eq_true_eq] at h
    simp only [Memory.write]
    split
    · rename_i hlt
      split
      · rename_i hb; simp only [Memory.read]; rw [if_neg (by omega), if_pos (by omega), hb]
      · simp [Memory.read]
    · split
      · rename_i hn he
        split
        · rename_i hb; rw [hb]; exact Memory.read_below h.2 (by omega)
        · simp [Memory.read]
      · simp only [Memory.read]; rw [if_neg (by omega), if_neg (by omega)]; exact ih h.2

/-- Every other byte reads as before. -/
theorem Memory.read_write_other {m : Memory} {lo : Nat} (a c : Nat) (b : Byte) (h : Memory.wfFrom lo m = true) (k : c ≠ a) : (m.write a b).read c = m.read c := by
  induction m generalizing lo with
  | nil =>
    simp only [Memory.write]
    split
    · rfl
    · simp only [Memory.read]; split
      · omega
      · split <;> rfl
  | cons e rest ih =>
    obtain ⟨n, x⟩ := e
    simp only [Memory.wfFrom, Bool.and_eq_true, decide_eq_true_eq] at h
    simp only [Memory.write]
    split
    · rename_i hlt
      split
      · rfl
      · simp only [Memory.read]
        by_cases h1 : c < a
        · rw [if_neg (by omega), if_pos h1, if_neg (by omega), if_pos (by omega)]
        · rw [if_neg (by omega), if_neg (by omega)]
    · split
      · rename_i hn he
        split
        · simp only [Memory.read]
          by_cases h1 : c < n
          · rw [if_neg (by omega), if_pos h1]; exact Memory.read_below h.2 (by omega)
          · rw [if_neg (by omega), if_neg (by omega)]
        · simp only [Memory.read]; rw [if_neg (by omega), if_neg (by omega : ¬ n = c)]
          by_cases h1 : c < a
          · rw [if_pos h1, if_pos (by omega)]
          · rw [if_neg (by omega), if_neg (by omega)]
      · simp only [Memory.read]; split
        · rfl
        · split
          · rfl
          · exact ih h.2

/-- Bytes outside a stored range read as before. -/
theorem Memory.read_writeBytes_other {m : Memory} (a c : Nat) (bs : List Byte) (h : m.wf = true) (k : c < a ∨ a + bs.length ≤ c) :
    (m.writeBytes a bs).read c = m.read c := by
  induction bs generalizing m a with
  | nil => rfl
  | cons b bs ih =>
    simp only [List.length_cons] at k
    rw [Memory.writeBytes, ih (a + 1) (Memory.write_wf a b h) (by omega), Memory.read_write_other a c b h (by omega)]

end Sys2Proof.Machine
end

