-- ==== Sys2Proof/Laws/State.lean ====
section
/-! SUPPORT. What each named update leaves as it was, field by field. -/
namespace Sys2Proof.Machine

/-! ### `State.setVf` -/
@[simp] theorem State.setVf_cycle (s : State) (v : Nat) (x : Vf) : (s.setVf v x).cycle = s.cycle := rfl
@[simp] theorem State.setVf_refilled (s : State) (v : Nat) (x : Vf) : (s.setVf v x).refilled = s.refilled := rfl
@[simp] theorem State.setVf_agenda (s : State) (v : Nat) (x : Vf) : (s.setVf v x).agenda = s.agenda := rfl
@[simp] theorem State.setVf_tick (s : State) (v : Nat) (x : Vf) : (s.setVf v x).tick = s.tick := rfl
@[simp] theorem State.setVf_cur (s : State) (v : Nat) (x : Vf) : (s.setVf v x).cur = s.cur := rfl
@[simp] theorem State.setVf_curWord (s : State) (v : Nat) (x : Vf) : (s.setVf v x).curWord = s.curWord := rfl
@[simp] theorem State.setVf_nextId (s : State) (v : Nat) (x : Vf) : (s.setVf v x).nextId = s.nextId := rfl
@[simp] theorem State.setVf_boot (s : State) (v : Nat) (x : Vf) : (s.setVf v x).boot = s.boot := rfl
@[simp] theorem State.setVf_mem (s : State) (v : Nat) (x : Vf) : (s.setVf v x).mem = s.mem := rfl
@[simp] theorem State.setVf_badBlocks (s : State) (v : Nat) (x : Vf) : (s.setVf v x).badBlocks = s.badBlocks := rfl
@[simp] theorem State.setVf_pf0 (s : State) (v : Nat) (x : Vf) : (s.setVf v x).pf0 = s.pf0 := rfl
@[simp] theorem State.setVf_pf1 (s : State) (v : Nat) (x : Vf) : (s.setVf v x).pf1 = s.pf1 := rfl
@[simp] theorem State.setVf_ctxs (s : State) (v : Nat) (x : Vf) : (s.setVf v x).ctxs = s.ctxs := rfl
@[simp] theorem State.setVf_parts (s : State) (v : Nat) (x : Vf) : (s.setVf v x).parts = s.parts := rfl
@[simp] theorem State.setVf_gbbase (s : State) (v : Nat) (x : Vf) : (s.setVf v x).gbbase = s.gbbase := rfl
@[simp] theorem State.setVf_spillbase (s : State) (v : Nat) (x : Vf) : (s.setVf v x).spillbase = s.spillbase := rfl
@[simp] theorem State.setVf_ccbase (s : State) (v : Nat) (x : Vf) : (s.setVf v x).ccbase = s.ccbase := rfl
@[simp] theorem State.setVf_ccframes (s : State) (v : Nat) (x : Vf) : (s.setVf v x).ccframes = s.ccframes := rfl
@[simp] theorem State.setVf_restsz (s : State) (v : Nat) (x : Vf) : (s.setVf v x).restsz = s.restsz := rfl
@[simp] theorem State.setVf_restbase (s : State) (v : Nat) (x : Vf) : (s.setVf v x).restbase = s.restbase := rfl
@[simp] theorem State.setVf_peers (s : State) (v : Nat) (x : Vf) : (s.setVf v x).peers = s.peers := rfl
@[simp] theorem State.setVf_quads (s : State) (v : Nat) (x : Vf) : (s.setVf v x).quads = s.quads := rfl
@[simp] theorem State.setVf_launches (s : State) (v : Nat) (x : Vf) : (s.setVf v x).launches = s.launches := rfl
@[simp] theorem State.setVf_clusters (s : State) (v : Nat) (x : Vf) : (s.setVf v x).clusters = s.clusters := rfl
@[simp] theorem State.setVf_tiles (s : State) (v : Nat) (x : Vf) : (s.setVf v x).tiles = s.tiles := rfl
@[simp] theorem State.setVf_icache (s : State) (v : Nat) (x : Vf) : (s.setVf v x).icache = s.icache := rfl
@[simp] theorem State.setVf_tlb (s : State) (v : Nat) (x : Vf) : (s.setVf v x).tlb = s.tlb := rfl
@[simp] theorem State.setVf_recCache (s : State) (v : Nat) (x : Vf) : (s.setVf v x).recCache = s.recCache := rfl
@[simp] theorem State.setVf_cmds (s : State) (v : Nat) (x : Vf) : (s.setVf v x).cmds = s.cmds := rfl
@[simp] theorem State.setVf_late (s : State) (v : Nat) (x : Vf) : (s.setVf v x).late = s.late := rfl
@[simp] theorem State.setVf_huts (s : State) (v : Nat) (x : Vf) : (s.setVf v x).huts = s.huts := rfl
@[simp] theorem State.setVf_stackTab (s : State) (v : Nat) (x : Vf) : (s.setVf v x).stackTab = s.stackTab := rfl
@[simp] theorem State.setVf_fabric (s : State) (v : Nat) (x : Vf) : (s.setVf v x).fabric = s.fabric := rfl
@[simp] theorem State.setVf_monitors (s : State) (v : Nat) (x : Vf) : (s.setVf v x).monitors = s.monitors := rfl
@[simp] theorem State.setVf_coh (s : State) (v : Nat) (x : Vf) : (s.setVf v x).coh = s.coh := rfl
@[simp] theorem State.setVf_walkWait (s : State) (v : Nat) (x : Vf) : (s.setVf v x).walkWait = s.walkWait := rfl
@[simp] theorem State.setVf_walkFail (s : State) (v : Nat) (x : Vf) : (s.setVf v x).walkFail = s.walkFail := rfl
@[simp] theorem State.setVf_lineWait (s : State) (v : Nat) (x : Vf) : (s.setVf v x).lineWait = s.lineWait := rfl
@[simp] theorem State.setVf_peerReqs (s : State) (v : Nat) (x : Vf) : (s.setVf v x).peerReqs = s.peerReqs := rfl
@[simp] theorem State.setVf_out (s : State) (v : Nat) (x : Vf) : (s.setVf v x).out = s.out := rfl
/-! ### `State.setCtx` -/
@[simp] theorem State.setCtx_cycle (s : State) (v : Nat) (x : Ctx) : (s.setCtx v x).cycle = s.cycle := rfl
@[simp] theorem State.setCtx_refilled (s : State) (v : Nat) (x : Ctx) : (s.setCtx v x).refilled = s.refilled := rfl
@[simp] theorem State.setCtx_agenda (s : State) (v : Nat) (x : Ctx) : (s.setCtx v x).agenda = s.agenda := rfl
@[simp] theorem State.setCtx_tick (s : State) (v : Nat) (x : Ctx) : (s.setCtx v x).tick = s.tick := rfl
@[simp] theorem State.setCtx_cur (s : State) (v : Nat) (x : Ctx) : (s.setCtx v x).cur = s.cur := rfl
@[simp] theorem State.setCtx_curWord (s : State) (v : Nat) (x : Ctx) : (s.setCtx v x).curWord = s.curWord := rfl
@[simp] theorem State.setCtx_nextId (s : State) (v : Nat) (x : Ctx) : (s.setCtx v x).nextId = s.nextId := rfl
@[simp] theorem State.setCtx_boot (s : State) (v : Nat) (x : Ctx) : (s.setCtx v x).boot = s.boot := rfl
@[simp] theorem State.setCtx_mem (s : State) (v : Nat) (x : Ctx) : (s.setCtx v x).mem = s.mem := rfl
@[simp] theorem State.setCtx_badBlocks (s : State) (v : Nat) (x : Ctx) : (s.setCtx v x).badBlocks = s.badBlocks := rfl
@[simp] theorem State.setCtx_pf0 (s : State) (v : Nat) (x : Ctx) : (s.setCtx v x).pf0 = s.pf0 := rfl
@[simp] theorem State.setCtx_pf1 (s : State) (v : Nat) (x : Ctx) : (s.setCtx v x).pf1 = s.pf1 := rfl
@[simp] theorem State.setCtx_vfs (s : State) (v : Nat) (x : Ctx) : (s.setCtx v x).vfs = s.vfs := rfl
@[simp] theorem State.setCtx_parts (s : State) (v : Nat) (x : Ctx) : (s.setCtx v x).parts = s.parts := rfl
@[simp] theorem State.setCtx_gbbase (s : State) (v : Nat) (x : Ctx) : (s.setCtx v x).gbbase = s.gbbase := rfl
@[simp] theorem State.setCtx_spillbase (s : State) (v : Nat) (x : Ctx) : (s.setCtx v x).spillbase = s.spillbase := rfl
@[simp] theorem State.setCtx_ccbase (s : State) (v : Nat) (x : Ctx) : (s.setCtx v x).ccbase = s.ccbase := rfl
@[simp] theorem State.setCtx_ccframes (s : State) (v : Nat) (x : Ctx) : (s.setCtx v x).ccframes = s.ccframes := rfl
@[simp] theorem State.setCtx_restsz (s : State) (v : Nat) (x : Ctx) : (s.setCtx v x).restsz = s.restsz := rfl
@[simp] theorem State.setCtx_restbase (s : State) (v : Nat) (x : Ctx) : (s.setCtx v x).restbase = s.restbase := rfl
@[simp] theorem State.setCtx_peers (s : State) (v : Nat) (x : Ctx) : (s.setCtx v x).peers = s.peers := rfl
@[simp] theorem State.setCtx_quads (s : State) (v : Nat) (x : Ctx) : (s.setCtx v x).quads = s.quads := rfl
@[simp] theorem State.setCtx_launches (s : State) (v : Nat) (x : Ctx) : (s.setCtx v x).launches = s.launches := rfl
@[simp] theorem State.setCtx_clusters (s : State) (v : Nat) (x : Ctx) : (s.setCtx v x).clusters = s.clusters := rfl
@[simp] theorem State.setCtx_tiles (s : State) (v : Nat) (x : Ctx) : (s.setCtx v x).tiles = s.tiles := rfl
@[simp] theorem State.setCtx_icache (s : State) (v : Nat) (x : Ctx) : (s.setCtx v x).icache = s.icache := rfl
@[simp] theorem State.setCtx_tlb (s : State) (v : Nat) (x : Ctx) : (s.setCtx v x).tlb = s.tlb := rfl
@[simp] theorem State.setCtx_recCache (s : State) (v : Nat) (x : Ctx) : (s.setCtx v x).recCache = s.recCache := rfl
@[simp] theorem State.setCtx_cmds (s : State) (v : Nat) (x : Ctx) : (s.setCtx v x).cmds = s.cmds := rfl
@[simp] theorem State.setCtx_late (s : State) (v : Nat) (x : Ctx) : (s.setCtx v x).late = s.late := rfl
@[simp] theorem State.setCtx_huts (s : State) (v : Nat) (x : Ctx) : (s.setCtx v x).huts = s.huts := rfl
@[simp] theorem State.setCtx_stackTab (s : State) (v : Nat) (x : Ctx) : (s.setCtx v x).stackTab = s.stackTab := rfl
@[simp] theorem State.setCtx_fabric (s : State) (v : Nat) (x : Ctx) : (s.setCtx v x).fabric = s.fabric := rfl
@[simp] theorem State.setCtx_monitors (s : State) (v : Nat) (x : Ctx) : (s.setCtx v x).monitors = s.monitors := rfl
@[simp] theorem State.setCtx_coh (s : State) (v : Nat) (x : Ctx) : (s.setCtx v x).coh = s.coh := rfl
@[simp] theorem State.setCtx_walkWait (s : State) (v : Nat) (x : Ctx) : (s.setCtx v x).walkWait = s.walkWait := rfl
@[simp] theorem State.setCtx_walkFail (s : State) (v : Nat) (x : Ctx) : (s.setCtx v x).walkFail = s.walkFail := rfl
@[simp] theorem State.setCtx_lineWait (s : State) (v : Nat) (x : Ctx) : (s.setCtx v x).lineWait = s.lineWait := rfl
@[simp] theorem State.setCtx_peerReqs (s : State) (v : Nat) (x : Ctx) : (s.setCtx v x).peerReqs = s.peerReqs := rfl
@[simp] theorem State.setCtx_out (s : State) (v : Nat) (x : Ctx) : (s.setCtx v x).out = s.out := rfl
/-! ### `State.setQuad` -/
@[simp] theorem State.setQuad_cycle (s : State) (v : Nat) (x : Quad) : (s.setQuad v x).cycle = s.cycle := rfl
@[simp] theorem State.setQuad_refilled (s : State) (v : Nat) (x : Quad) : (s.setQuad v x).refilled = s.refilled := rfl
@[simp] theorem State.setQuad_agenda (s : State) (v : Nat) (x : Quad) : (s.setQuad v x).agenda = s.agenda := rfl
@[simp] theorem State.setQuad_tick (s : State) (v : Nat) (x : Quad) : (s.setQuad v x).tick = s.tick := rfl
@[simp] theorem State.setQuad_cur (s : State) (v : Nat) (x : Quad) : (s.setQuad v x).cur = s.cur := rfl
@[simp] theorem State.setQuad_curWord (s : State) (v : Nat) (x : Quad) : (s.setQuad v x).curWord = s.curWord := rfl
@[simp] theorem State.setQuad_nextId (s : State) (v : Nat) (x : Quad) : (s.setQuad v x).nextId = s.nextId := rfl
@[simp] theorem State.setQuad_boot (s : State) (v : Nat) (x : Quad) : (s.setQuad v x).boot = s.boot := rfl
@[simp] theorem State.setQuad_mem (s : State) (v : Nat) (x : Quad) : (s.setQuad v x).mem = s.mem := rfl
@[simp] theorem State.setQuad_badBlocks (s : State) (v : Nat) (x : Quad) : (s.setQuad v x).badBlocks = s.badBlocks := rfl
@[simp] theorem State.setQuad_pf0 (s : State) (v : Nat) (x : Quad) : (s.setQuad v x).pf0 = s.pf0 := rfl
@[simp] theorem State.setQuad_pf1 (s : State) (v : Nat) (x : Quad) : (s.setQuad v x).pf1 = s.pf1 := rfl
@[simp] theorem State.setQuad_vfs (s : State) (v : Nat) (x : Quad) : (s.setQuad v x).vfs = s.vfs := rfl
@[simp] theorem State.setQuad_ctxs (s : State) (v : Nat) (x : Quad) : (s.setQuad v x).ctxs = s.ctxs := rfl
@[simp] theorem State.setQuad_parts (s : State) (v : Nat) (x : Quad) : (s.setQuad v x).parts = s.parts := rfl
@[simp] theorem State.setQuad_gbbase (s : State) (v : Nat) (x : Quad) : (s.setQuad v x).gbbase = s.gbbase := rfl
@[simp] theorem State.setQuad_spillbase (s : State) (v : Nat) (x : Quad) : (s.setQuad v x).spillbase = s.spillbase := rfl
@[simp] theorem State.setQuad_ccbase (s : State) (v : Nat) (x : Quad) : (s.setQuad v x).ccbase = s.ccbase := rfl
@[simp] theorem State.setQuad_ccframes (s : State) (v : Nat) (x : Quad) : (s.setQuad v x).ccframes = s.ccframes := rfl
@[simp] theorem State.setQuad_restsz (s : State) (v : Nat) (x : Quad) : (s.setQuad v x).restsz = s.restsz := rfl
@[simp] theorem State.setQuad_restbase (s : State) (v : Nat) (x : Quad) : (s.setQuad v x).restbase = s.restbase := rfl
@[simp] theorem State.setQuad_peers (s : State) (v : Nat) (x : Quad) : (s.setQuad v x).peers = s.peers := rfl
@[simp] theorem State.setQuad_launches (s : State) (v : Nat) (x : Quad) : (s.setQuad v x).launches = s.launches := rfl
@[simp] theorem State.setQuad_clusters (s : State) (v : Nat) (x : Quad) : (s.setQuad v x).clusters = s.clusters := rfl
@[simp] theorem State.setQuad_tiles (s : State) (v : Nat) (x : Quad) : (s.setQuad v x).tiles = s.tiles := rfl
@[simp] theorem State.setQuad_icache (s : State) (v : Nat) (x : Quad) : (s.setQuad v x).icache = s.icache := rfl
@[simp] theorem State.setQuad_tlb (s : State) (v : Nat) (x : Quad) : (s.setQuad v x).tlb = s.tlb := rfl
@[simp] theorem State.setQuad_recCache (s : State) (v : Nat) (x : Quad) : (s.setQuad v x).recCache = s.recCache := rfl
@[simp] theorem State.setQuad_cmds (s : State) (v : Nat) (x : Quad) : (s.setQuad v x).cmds = s.cmds := rfl
@[simp] theorem State.setQuad_late (s : State) (v : Nat) (x : Quad) : (s.setQuad v x).late = s.late := rfl
@[simp] theorem State.setQuad_huts (s : State) (v : Nat) (x : Quad) : (s.setQuad v x).huts = s.huts := rfl
@[simp] theorem State.setQuad_stackTab (s : State) (v : Nat) (x : Quad) : (s.setQuad v x).stackTab = s.stackTab := rfl
@[simp] theorem State.setQuad_fabric (s : State) (v : Nat) (x : Quad) : (s.setQuad v x).fabric = s.fabric := rfl
@[simp] theorem State.setQuad_monitors (s : State) (v : Nat) (x : Quad) : (s.setQuad v x).monitors = s.monitors := rfl
@[simp] theorem State.setQuad_coh (s : State) (v : Nat) (x : Quad) : (s.setQuad v x).coh = s.coh := rfl
@[simp] theorem State.setQuad_walkWait (s : State) (v : Nat) (x : Quad) : (s.setQuad v x).walkWait = s.walkWait := rfl
@[simp] theorem State.setQuad_walkFail (s : State) (v : Nat) (x : Quad) : (s.setQuad v x).walkFail = s.walkFail := rfl
@[simp] theorem State.setQuad_lineWait (s : State) (v : Nat) (x : Quad) : (s.setQuad v x).lineWait = s.lineWait := rfl
@[simp] theorem State.setQuad_peerReqs (s : State) (v : Nat) (x : Quad) : (s.setQuad v x).peerReqs = s.peerReqs := rfl
@[simp] theorem State.setQuad_out (s : State) (v : Nat) (x : Quad) : (s.setQuad v x).out = s.out := rfl
/-! ### `State.setHut` -/
@[simp] theorem State.setHut_cycle (s : State) (v : Nat) (x : Hut) : (s.setHut v x).cycle = s.cycle := rfl
@[simp] theorem State.setHut_refilled (s : State) (v : Nat) (x : Hut) : (s.setHut v x).refilled = s.refilled := rfl
@[simp] theorem State.setHut_agenda (s : State) (v : Nat) (x : Hut) : (s.setHut v x).agenda = s.agenda := rfl
@[simp] theorem State.setHut_tick (s : State) (v : Nat) (x : Hut) : (s.setHut v x).tick = s.tick := rfl
@[simp] theorem State.setHut_cur (s : State) (v : Nat) (x : Hut) : (s.setHut v x).cur = s.cur := rfl
@[simp] theorem State.setHut_curWord (s : State) (v : Nat) (x : Hut) : (s.setHut v x).curWord = s.curWord := rfl
@[simp] theorem State.setHut_nextId (s : State) (v : Nat) (x : Hut) : (s.setHut v x).nextId = s.nextId := rfl
@[simp] theorem State.setHut_boot (s : State) (v : Nat) (x : Hut) : (s.setHut v x).boot = s.boot := rfl
@[simp] theorem State.setHut_mem (s : State) (v : Nat) (x : Hut) : (s.setHut v x).mem = s.mem := rfl
@[simp] theorem State.setHut_badBlocks (s : State) (v : Nat) (x : Hut) : (s.setHut v x).badBlocks = s.badBlocks := rfl
@[simp] theorem State.setHut_pf0 (s : State) (v : Nat) (x : Hut) : (s.setHut v x).pf0 = s.pf0 := rfl
@[simp] theorem State.setHut_pf1 (s : State) (v : Nat) (x : Hut) : (s.setHut v x).pf1 = s.pf1 := rfl
@[simp] theorem State.setHut_vfs (s : State) (v : Nat) (x : Hut) : (s.setHut v x).vfs = s.vfs := rfl
@[simp] theorem State.setHut_ctxs (s : State) (v : Nat) (x : Hut) : (s.setHut v x).ctxs = s.ctxs := rfl
@[simp] theorem State.setHut_parts (s : State) (v : Nat) (x : Hut) : (s.setHut v x).parts = s.parts := rfl
@[simp] theorem State.setHut_gbbase (s : State) (v : Nat) (x : Hut) : (s.setHut v x).gbbase = s.gbbase := rfl
@[simp] theorem State.setHut_spillbase (s : State) (v : Nat) (x : Hut) : (s.setHut v x).spillbase = s.spillbase := rfl
@[simp] theorem State.setHut_ccbase (s : State) (v : Nat) (x : Hut) : (s.setHut v x).ccbase = s.ccbase := rfl
@[simp] theorem State.setHut_ccframes (s : State) (v : Nat) (x : Hut) : (s.setHut v x).ccframes = s.ccframes := rfl
@[simp] theorem State.setHut_restsz (s : State) (v : Nat) (x : Hut) : (s.setHut v x).restsz = s.restsz := rfl
@[simp] theorem State.setHut_restbase (s : State) (v : Nat) (x : Hut) : (s.setHut v x).restbase = s.restbase := rfl
@[simp] theorem State.setHut_peers (s : State) (v : Nat) (x : Hut) : (s.setHut v x).peers = s.peers := rfl
@[simp] theorem State.setHut_quads (s : State) (v : Nat) (x : Hut) : (s.setHut v x).quads = s.quads := rfl
@[simp] theorem State.setHut_launches (s : State) (v : Nat) (x : Hut) : (s.setHut v x).launches = s.launches := rfl
@[simp] theorem State.setHut_clusters (s : State) (v : Nat) (x : Hut) : (s.setHut v x).clusters = s.clusters := rfl
@[simp] theorem State.setHut_tiles (s : State) (v : Nat) (x : Hut) : (s.setHut v x).tiles = s.tiles := rfl
@[simp] theorem State.setHut_icache (s : State) (v : Nat) (x : Hut) : (s.setHut v x).icache = s.icache := rfl
@[simp] theorem State.setHut_tlb (s : State) (v : Nat) (x : Hut) : (s.setHut v x).tlb = s.tlb := rfl
@[simp] theorem State.setHut_recCache (s : State) (v : Nat) (x : Hut) : (s.setHut v x).recCache = s.recCache := rfl
@[simp] theorem State.setHut_cmds (s : State) (v : Nat) (x : Hut) : (s.setHut v x).cmds = s.cmds := rfl
@[simp] theorem State.setHut_late (s : State) (v : Nat) (x : Hut) : (s.setHut v x).late = s.late := rfl
@[simp] theorem State.setHut_stackTab (s : State) (v : Nat) (x : Hut) : (s.setHut v x).stackTab = s.stackTab := rfl
@[simp] theorem State.setHut_fabric (s : State) (v : Nat) (x : Hut) : (s.setHut v x).fabric = s.fabric := rfl
@[simp] theorem State.setHut_monitors (s : State) (v : Nat) (x : Hut) : (s.setHut v x).monitors = s.monitors := rfl
@[simp] theorem State.setHut_coh (s : State) (v : Nat) (x : Hut) : (s.setHut v x).coh = s.coh := rfl
@[simp] theorem State.setHut_walkWait (s : State) (v : Nat) (x : Hut) : (s.setHut v x).walkWait = s.walkWait := rfl
@[simp] theorem State.setHut_walkFail (s : State) (v : Nat) (x : Hut) : (s.setHut v x).walkFail = s.walkFail := rfl
@[simp] theorem State.setHut_lineWait (s : State) (v : Nat) (x : Hut) : (s.setHut v x).lineWait = s.lineWait := rfl
@[simp] theorem State.setHut_peerReqs (s : State) (v : Nat) (x : Hut) : (s.setHut v x).peerReqs = s.peerReqs := rfl
@[simp] theorem State.setHut_out (s : State) (v : Nat) (x : Hut) : (s.setHut v x).out = s.out := rfl
/-! ### `State.setStack` -/
@[simp] theorem State.setStack_cycle (s : State) (v : Nat) (x : Stack) : (s.setStack v x).cycle = s.cycle := rfl
@[simp] theorem State.setStack_refilled (s : State) (v : Nat) (x : Stack) : (s.setStack v x).refilled = s.refilled := rfl
@[simp] theorem State.setStack_agenda (s : State) (v : Nat) (x : Stack) : (s.setStack v x).agenda = s.agenda := rfl
@[simp] theorem State.setStack_tick (s : State) (v : Nat) (x : Stack) : (s.setStack v x).tick = s.tick := rfl
@[simp] theorem State.setStack_cur (s : State) (v : Nat) (x : Stack) : (s.setStack v x).cur = s.cur := rfl
@[simp] theorem State.setStack_curWord (s : State) (v : Nat) (x : Stack) : (s.setStack v x).curWord = s.curWord := rfl
@[simp] theorem State.setStack_nextId (s : State) (v : Nat) (x : Stack) : (s.setStack v x).nextId = s.nextId := rfl
@[simp] theorem State.setStack_boot (s : State) (v : Nat) (x : Stack) : (s.setStack v x).boot = s.boot := rfl
@[simp] theorem State.setStack_mem (s : State) (v : Nat) (x : Stack) : (s.setStack v x).mem = s.mem := rfl
@[simp] theorem State.setStack_badBlocks (s : State) (v : Nat) (x : Stack) : (s.setStack v x).badBlocks = s.badBlocks := rfl
@[simp] theorem State.setStack_pf0 (s : State) (v : Nat) (x : Stack) : (s.setStack v x).pf0 = s.pf0 := rfl
@[simp] theorem State.setStack_pf1 (s : State) (v : Nat) (x : Stack) : (s.setStack v x).pf1 = s.pf1 := rfl
@[simp] theorem State.setStack_vfs (s : State) (v : Nat) (x : Stack) : (s.setStack v x).vfs = s.vfs := rfl
@[simp] theorem State.setStack_ctxs (s : State) (v : Nat) (x : Stack) : (s.setStack v x).ctxs = s.ctxs := rfl
@[simp] theorem State.setStack_parts (s : State) (v : Nat) (x : Stack) : (s.setStack v x).parts = s.parts := rfl
@[simp] theorem State.setStack_gbbase (s : State) (v : Nat) (x : Stack) : (s.setStack v x).gbbase = s.gbbase := rfl
@[simp] theorem State.setStack_spillbase (s : State) (v : Nat) (x : Stack) : (s.setStack v x).spillbase = s.spillbase := rfl
@[simp] theorem State.setStack_ccbase (s : State) (v : Nat) (x : Stack) : (s.setStack v x).ccbase = s.ccbase := rfl
@[simp] theorem State.setStack_ccframes (s : State) (v : Nat) (x : Stack) : (s.setStack v x).ccframes = s.ccframes := rfl
@[simp] theorem State.setStack_restsz (s : State) (v : Nat) (x : Stack) : (s.setStack v x).restsz = s.restsz := rfl
@[simp] theorem State.setStack_restbase (s : State) (v : Nat) (x : Stack) : (s.setStack v x).restbase = s.restbase := rfl
@[simp] theorem State.setStack_peers (s : State) (v : Nat) (x : Stack) : (s.setStack v x).peers = s.peers := rfl
@[simp] theorem State.setStack_quads (s : State) (v : Nat) (x : Stack) : (s.setStack v x).quads = s.quads := rfl
@[simp] theorem State.setStack_launches (s : State) (v : Nat) (x : Stack) : (s.setStack v x).launches = s.launches := rfl
@[simp] theorem State.setStack_clusters (s : State) (v : Nat) (x : Stack) : (s.setStack v x).clusters = s.clusters := rfl
@[simp] theorem State.setStack_tiles (s : State) (v : Nat) (x : Stack) : (s.setStack v x).tiles = s.tiles := rfl
@[simp] theorem State.setStack_icache (s : State) (v : Nat) (x : Stack) : (s.setStack v x).icache = s.icache := rfl
@[simp] theorem State.setStack_tlb (s : State) (v : Nat) (x : Stack) : (s.setStack v x).tlb = s.tlb := rfl
@[simp] theorem State.setStack_recCache (s : State) (v : Nat) (x : Stack) : (s.setStack v x).recCache = s.recCache := rfl
@[simp] theorem State.setStack_cmds (s : State) (v : Nat) (x : Stack) : (s.setStack v x).cmds = s.cmds := rfl
@[simp] theorem State.setStack_late (s : State) (v : Nat) (x : Stack) : (s.setStack v x).late = s.late := rfl
@[simp] theorem State.setStack_huts (s : State) (v : Nat) (x : Stack) : (s.setStack v x).huts = s.huts := rfl
@[simp] theorem State.setStack_fabric (s : State) (v : Nat) (x : Stack) : (s.setStack v x).fabric = s.fabric := rfl
@[simp] theorem State.setStack_monitors (s : State) (v : Nat) (x : Stack) : (s.setStack v x).monitors = s.monitors := rfl
@[simp] theorem State.setStack_coh (s : State) (v : Nat) (x : Stack) : (s.setStack v x).coh = s.coh := rfl
@[simp] theorem State.setStack_walkWait (s : State) (v : Nat) (x : Stack) : (s.setStack v x).walkWait = s.walkWait := rfl
@[simp] theorem State.setStack_walkFail (s : State) (v : Nat) (x : Stack) : (s.setStack v x).walkFail = s.walkFail := rfl
@[simp] theorem State.setStack_lineWait (s : State) (v : Nat) (x : Stack) : (s.setStack v x).lineWait = s.lineWait := rfl
@[simp] theorem State.setStack_peerReqs (s : State) (v : Nat) (x : Stack) : (s.setStack v x).peerReqs = s.peerReqs := rfl
@[simp] theorem State.setStack_out (s : State) (v : Nat) (x : Stack) : (s.setStack v x).out = s.out := rfl
/-! ### `State.setPair` -/
@[simp] theorem State.setPair_cycle (s : State) (v : Nat) (x : Pair) : (s.setPair v x).cycle = s.cycle := rfl
@[simp] theorem State.setPair_refilled (s : State) (v : Nat) (x : Pair) : (s.setPair v x).refilled = s.refilled := rfl
@[simp] theorem State.setPair_agenda (s : State) (v : Nat) (x : Pair) : (s.setPair v x).agenda = s.agenda := rfl
@[simp] theorem State.setPair_tick (s : State) (v : Nat) (x : Pair) : (s.setPair v x).tick = s.tick := rfl
@[simp] theorem State.setPair_cur (s : State) (v : Nat) (x : Pair) : (s.setPair v x).cur = s.cur := rfl
@[simp] theorem State.setPair_curWord (s : State) (v : Nat) (x : Pair) : (s.setPair v x).curWord = s.curWord := rfl
@[simp] theorem State.setPair_nextId (s : State) (v : Nat) (x : Pair) : (s.setPair v x).nextId = s.nextId := rfl
@[simp] theorem State.setPair_boot (s : State) (v : Nat) (x : Pair) : (s.setPair v x).boot = s.boot := rfl
@[simp] theorem State.setPair_mem (s : State) (v : Nat) (x : Pair) : (s.setPair v x).mem = s.mem := rfl
@[simp] theorem State.setPair_badBlocks (s : State) (v : Nat) (x : Pair) : (s.setPair v x).badBlocks = s.badBlocks := rfl
@[simp] theorem State.setPair_pf0 (s : State) (v : Nat) (x : Pair) : (s.setPair v x).pf0 = s.pf0 := rfl
@[simp] theorem State.setPair_pf1 (s : State) (v : Nat) (x : Pair) : (s.setPair v x).pf1 = s.pf1 := rfl
@[simp] theorem State.setPair_vfs (s : State) (v : Nat) (x : Pair) : (s.setPair v x).vfs = s.vfs := rfl
@[simp] theorem State.setPair_ctxs (s : State) (v : Nat) (x : Pair) : (s.setPair v x).ctxs = s.ctxs := rfl
@[simp] theorem State.setPair_parts (s : State) (v : Nat) (x : Pair) : (s.setPair v x).parts = s.parts := rfl
@[simp] theorem State.setPair_gbbase (s : State) (v : Nat) (x : Pair) : (s.setPair v x).gbbase = s.gbbase := rfl
@[simp] theorem State.setPair_spillbase (s : State) (v : Nat) (x : Pair) : (s.setPair v x).spillbase = s.spillbase := rfl
@[simp] theorem State.setPair_ccbase (s : State) (v : Nat) (x : Pair) : (s.setPair v x).ccbase = s.ccbase := rfl
@[simp] theorem State.setPair_ccframes (s : State) (v : Nat) (x : Pair) : (s.setPair v x).ccframes = s.ccframes := rfl
@[simp] theorem State.setPair_restsz (s : State) (v : Nat) (x : Pair) : (s.setPair v x).restsz = s.restsz := rfl
@[simp] theorem State.setPair_restbase (s : State) (v : Nat) (x : Pair) : (s.setPair v x).restbase = s.restbase := rfl
@[simp] theorem State.setPair_peers (s : State) (v : Nat) (x : Pair) : (s.setPair v x).peers = s.peers := rfl
@[simp] theorem State.setPair_quads (s : State) (v : Nat) (x : Pair) : (s.setPair v x).quads = s.quads := rfl
@[simp] theorem State.setPair_launches (s : State) (v : Nat) (x : Pair) : (s.setPair v x).launches = s.launches := rfl
@[simp] theorem State.setPair_clusters (s : State) (v : Nat) (x : Pair) : (s.setPair v x).clusters = s.clusters := rfl
@[simp] theorem State.setPair_tiles (s : State) (v : Nat) (x : Pair) : (s.setPair v x).tiles = s.tiles := rfl
@[simp] theorem State.setPair_icache (s : State) (v : Nat) (x : Pair) : (s.setPair v x).icache = s.icache := rfl
@[simp] theorem State.setPair_tlb (s : State) (v : Nat) (x : Pair) : (s.setPair v x).tlb = s.tlb := rfl
@[simp] theorem State.setPair_recCache (s : State) (v : Nat) (x : Pair) : (s.setPair v x).recCache = s.recCache := rfl
@[simp] theorem State.setPair_cmds (s : State) (v : Nat) (x : Pair) : (s.setPair v x).cmds = s.cmds := rfl
@[simp] theorem State.setPair_late (s : State) (v : Nat) (x : Pair) : (s.setPair v x).late = s.late := rfl
@[simp] theorem State.setPair_huts (s : State) (v : Nat) (x : Pair) : (s.setPair v x).huts = s.huts := rfl
@[simp] theorem State.setPair_stackTab (s : State) (v : Nat) (x : Pair) : (s.setPair v x).stackTab = s.stackTab := rfl
@[simp] theorem State.setPair_monitors (s : State) (v : Nat) (x : Pair) : (s.setPair v x).monitors = s.monitors := rfl
@[simp] theorem State.setPair_coh (s : State) (v : Nat) (x : Pair) : (s.setPair v x).coh = s.coh := rfl
@[simp] theorem State.setPair_walkWait (s : State) (v : Nat) (x : Pair) : (s.setPair v x).walkWait = s.walkWait := rfl
@[simp] theorem State.setPair_walkFail (s : State) (v : Nat) (x : Pair) : (s.setPair v x).walkFail = s.walkFail := rfl
@[simp] theorem State.setPair_lineWait (s : State) (v : Nat) (x : Pair) : (s.setPair v x).lineWait = s.lineWait := rfl
@[simp] theorem State.setPair_peerReqs (s : State) (v : Nat) (x : Pair) : (s.setPair v x).peerReqs = s.peerReqs := rfl
@[simp] theorem State.setPair_out (s : State) (v : Nat) (x : Pair) : (s.setPair v x).out = s.out := rfl
/-! ### `State.setCluster` -/
@[simp] theorem State.setCluster_cycle (s : State) (x : Cluster) : (s.setCluster x).cycle = s.cycle := rfl
@[simp] theorem State.setCluster_refilled (s : State) (x : Cluster) : (s.setCluster x).refilled = s.refilled := rfl
@[simp] theorem State.setCluster_agenda (s : State) (x : Cluster) : (s.setCluster x).agenda = s.agenda := rfl
@[simp] theorem State.setCluster_tick (s : State) (x : Cluster) : (s.setCluster x).tick = s.tick := rfl
@[simp] theorem State.setCluster_cur (s : State) (x : Cluster) : (s.setCluster x).cur = s.cur := rfl
@[simp] theorem State.setCluster_curWord (s : State) (x : Cluster) : (s.setCluster x).curWord = s.curWord := rfl
@[simp] theorem State.setCluster_nextId (s : State) (x : Cluster) : (s.setCluster x).nextId = s.nextId := rfl
@[simp] theorem State.setCluster_boot (s : State) (x : Cluster) : (s.setCluster x).boot = s.boot := rfl
@[simp] theorem State.setCluster_mem (s : State) (x : Cluster) : (s.setCluster x).mem = s.mem := rfl
@[simp] theorem State.setCluster_badBlocks (s : State) (x : Cluster) : (s.setCluster x).badBlocks = s.badBlocks := rfl
@[simp] theorem State.setCluster_pf0 (s : State) (x : Cluster) : (s.setCluster x).pf0 = s.pf0 := rfl
@[simp] theorem State.setCluster_pf1 (s : State) (x : Cluster) : (s.setCluster x).pf1 = s.pf1 := rfl
@[simp] theorem State.setCluster_vfs (s : State) (x : Cluster) : (s.setCluster x).vfs = s.vfs := rfl
@[simp] theorem State.setCluster_ctxs (s : State) (x : Cluster) : (s.setCluster x).ctxs = s.ctxs := rfl
@[simp] theorem State.setCluster_parts (s : State) (x : Cluster) : (s.setCluster x).parts = s.parts := rfl
@[simp] theorem State.setCluster_gbbase (s : State) (x : Cluster) : (s.setCluster x).gbbase = s.gbbase := rfl
@[simp] theorem State.setCluster_spillbase (s : State) (x : Cluster) : (s.setCluster x).spillbase = s.spillbase := rfl
@[simp] theorem State.setCluster_ccbase (s : State) (x : Cluster) : (s.setCluster x).ccbase = s.ccbase := rfl
@[simp] theorem State.setCluster_ccframes (s : State) (x : Cluster) : (s.setCluster x).ccframes = s.ccframes := rfl
@[simp] theorem State.setCluster_restsz (s : State) (x : Cluster) : (s.setCluster x).restsz = s.restsz := rfl
@[simp] theorem State.setCluster_restbase (s : State) (x : Cluster) : (s.setCluster x).restbase = s.restbase := rfl
@[simp] theorem State.setCluster_peers (s : State) (x : Cluster) : (s.setCluster x).peers = s.peers := rfl
@[simp] theorem State.setCluster_quads (s : State) (x : Cluster) : (s.setCluster x).quads = s.quads := rfl
@[simp] theorem State.setCluster_launches (s : State) (x : Cluster) : (s.setCluster x).launches = s.launches := rfl
@[simp] theorem State.setCluster_tiles (s : State) (x : Cluster) : (s.setCluster x).tiles = s.tiles := rfl
@[simp] theorem State.setCluster_icache (s : State) (x : Cluster) : (s.setCluster x).icache = s.icache := rfl
@[simp] theorem State.setCluster_tlb (s : State) (x : Cluster) : (s.setCluster x).tlb = s.tlb := rfl
@[simp] theorem State.setCluster_recCache (s : State) (x : Cluster) : (s.setCluster x).recCache = s.recCache := rfl
@[simp] theorem State.setCluster_cmds (s : State) (x : Cluster) : (s.setCluster x).cmds = s.cmds := rfl
@[simp] theorem State.setCluster_late (s : State) (x : Cluster) : (s.setCluster x).late = s.late := rfl
@[simp] theorem State.setCluster_huts (s : State) (x : Cluster) : (s.setCluster x).huts = s.huts := rfl
@[simp] theorem State.setCluster_stackTab (s : State) (x : Cluster) : (s.setCluster x).stackTab = s.stackTab := rfl
@[simp] theorem State.setCluster_fabric (s : State) (x : Cluster) : (s.setCluster x).fabric = s.fabric := rfl
@[simp] theorem State.setCluster_monitors (s : State) (x : Cluster) : (s.setCluster x).monitors = s.monitors := rfl
@[simp] theorem State.setCluster_coh (s : State) (x : Cluster) : (s.setCluster x).coh = s.coh := rfl
@[simp] theorem State.setCluster_walkWait (s : State) (x : Cluster) : (s.setCluster x).walkWait = s.walkWait := rfl
@[simp] theorem State.setCluster_walkFail (s : State) (x : Cluster) : (s.setCluster x).walkFail = s.walkFail := rfl
@[simp] theorem State.setCluster_lineWait (s : State) (x : Cluster) : (s.setCluster x).lineWait = s.lineWait := rfl
@[simp] theorem State.setCluster_peerReqs (s : State) (x : Cluster) : (s.setCluster x).peerReqs = s.peerReqs := rfl
@[simp] theorem State.setCluster_out (s : State) (x : Cluster) : (s.setCluster x).out = s.out := rfl
/-! ### `State.delCluster` -/
@[simp] theorem State.delCluster_cycle (s : State) (x : Cluster) : (s.delCluster x).cycle = s.cycle := rfl
@[simp] theorem State.delCluster_refilled (s : State) (x : Cluster) : (s.delCluster x).refilled = s.refilled := rfl
@[simp] theorem State.delCluster_agenda (s : State) (x : Cluster) : (s.delCluster x).agenda = s.agenda := rfl
@[simp] theorem State.delCluster_tick (s : State) (x : Cluster) : (s.delCluster x).tick = s.tick := rfl
@[simp] theorem State.delCluster_cur (s : State) (x : Cluster) : (s.delCluster x).cur = s.cur := rfl
@[simp] theorem State.delCluster_curWord (s : State) (x : Cluster) : (s.delCluster x).curWord = s.curWord := rfl
@[simp] theorem State.delCluster_nextId (s : State) (x : Cluster) : (s.delCluster x).nextId = s.nextId := rfl
@[simp] theorem State.delCluster_boot (s : State) (x : Cluster) : (s.delCluster x).boot = s.boot := rfl
@[simp] theorem State.delCluster_mem (s : State) (x : Cluster) : (s.delCluster x).mem = s.mem := rfl
@[simp] theorem State.delCluster_badBlocks (s : State) (x : Cluster) : (s.delCluster x).badBlocks = s.badBlocks := rfl
@[simp] theorem State.delCluster_pf0 (s : State) (x : Cluster) : (s.delCluster x).pf0 = s.pf0 := rfl
@[simp] theorem State.delCluster_pf1 (s : State) (x : Cluster) : (s.delCluster x).pf1 = s.pf1 := rfl
@[simp] theorem State.delCluster_vfs (s : State) (x : Cluster) : (s.delCluster x).vfs = s.vfs := rfl
@[simp] theorem State.delCluster_ctxs (s : State) (x : Cluster) : (s.delCluster x).ctxs = s.ctxs := rfl
@[simp] theorem State.delCluster_parts (s : State) (x : Cluster) : (s.delCluster x).parts = s.parts := rfl
@[simp] theorem State.delCluster_gbbase (s : State) (x : Cluster) : (s.delCluster x).gbbase = s.gbbase := rfl
@[simp] theorem State.delCluster_spillbase (s : State) (x : Cluster) : (s.delCluster x).spillbase = s.spillbase := rfl
@[simp] theorem State.delCluster_ccbase (s : State) (x : Cluster) : (s.delCluster x).ccbase = s.ccbase := rfl
@[simp] theorem State.delCluster_ccframes (s : State) (x : Cluster) : (s.delCluster x).ccframes = s.ccframes := rfl
@[simp] theorem State.delCluster_restsz (s : State) (x : Cluster) : (s.delCluster x).restsz = s.restsz := rfl
@[simp] theorem State.delCluster_restbase (s : State) (x : Cluster) : (s.delCluster x).restbase = s.restbase := rfl
@[simp] theorem State.delCluster_peers (s : State) (x : Cluster) : (s.delCluster x).peers = s.peers := rfl
@[simp] theorem State.delCluster_quads (s : State) (x : Cluster) : (s.delCluster x).quads = s.quads := rfl
@[simp] theorem State.delCluster_launches (s : State) (x : Cluster) : (s.delCluster x).launches = s.launches := rfl
@[simp] theorem State.delCluster_tiles (s : State) (x : Cluster) : (s.delCluster x).tiles = s.tiles := rfl
@[simp] theorem State.delCluster_icache (s : State) (x : Cluster) : (s.delCluster x).icache = s.icache := rfl
@[simp] theorem State.delCluster_tlb (s : State) (x : Cluster) : (s.delCluster x).tlb = s.tlb := rfl
@[simp] theorem State.delCluster_recCache (s : State) (x : Cluster) : (s.delCluster x).recCache = s.recCache := rfl
@[simp] theorem State.delCluster_cmds (s : State) (x : Cluster) : (s.delCluster x).cmds = s.cmds := rfl
@[simp] theorem State.delCluster_late (s : State) (x : Cluster) : (s.delCluster x).late = s.late := rfl
@[simp] theorem State.delCluster_huts (s : State) (x : Cluster) : (s.delCluster x).huts = s.huts := rfl
@[simp] theorem State.delCluster_stackTab (s : State) (x : Cluster) : (s.delCluster x).stackTab = s.stackTab := rfl
@[simp] theorem State.delCluster_fabric (s : State) (x : Cluster) : (s.delCluster x).fabric = s.fabric := rfl
@[simp] theorem State.delCluster_monitors (s : State) (x : Cluster) : (s.delCluster x).monitors = s.monitors := rfl
@[simp] theorem State.delCluster_coh (s : State) (x : Cluster) : (s.delCluster x).coh = s.coh := rfl
@[simp] theorem State.delCluster_walkWait (s : State) (x : Cluster) : (s.delCluster x).walkWait = s.walkWait := rfl
@[simp] theorem State.delCluster_walkFail (s : State) (x : Cluster) : (s.delCluster x).walkFail = s.walkFail := rfl
@[simp] theorem State.delCluster_lineWait (s : State) (x : Cluster) : (s.delCluster x).lineWait = s.lineWait := rfl
@[simp] theorem State.delCluster_peerReqs (s : State) (x : Cluster) : (s.delCluster x).peerReqs = s.peerReqs := rfl
@[simp] theorem State.delCluster_out (s : State) (x : Cluster) : (s.delCluster x).out = s.out := rfl
/-! ### `State.setTeam` -/
@[simp] theorem State.setTeam_cycle (s : State) (x : Team) : (s.setTeam x).cycle = s.cycle := rfl
@[simp] theorem State.setTeam_refilled (s : State) (x : Team) : (s.setTeam x).refilled = s.refilled := rfl
@[simp] theorem State.setTeam_agenda (s : State) (x : Team) : (s.setTeam x).agenda = s.agenda := rfl
@[simp] theorem State.setTeam_tick (s : State) (x : Team) : (s.setTeam x).tick = s.tick := rfl
@[simp] theorem State.setTeam_cur (s : State) (x : Team) : (s.setTeam x).cur = s.cur := rfl
@[simp] theorem State.setTeam_curWord (s : State) (x : Team) : (s.setTeam x).curWord = s.curWord := rfl
@[simp] theorem State.setTeam_nextId (s : State) (x : Team) : (s.setTeam x).nextId = s.nextId := rfl
@[simp] theorem State.setTeam_boot (s : State) (x : Team) : (s.setTeam x).boot = s.boot := rfl
@[simp] theorem State.setTeam_mem (s : State) (x : Team) : (s.setTeam x).mem = s.mem := rfl
@[simp] theorem State.setTeam_badBlocks (s : State) (x : Team) : (s.setTeam x).badBlocks = s.badBlocks := rfl
@[simp] theorem State.setTeam_pf0 (s : State) (x : Team) : (s.setTeam x).pf0 = s.pf0 := rfl
@[simp] theorem State.setTeam_pf1 (s : State) (x : Team) : (s.setTeam x).pf1 = s.pf1 := rfl
@[simp] theorem State.setTeam_vfs (s : State) (x : Team) : (s.setTeam x).vfs = s.vfs := rfl
@[simp] theorem State.setTeam_ctxs (s : State) (x : Team) : (s.setTeam x).ctxs = s.ctxs := rfl
@[simp] theorem State.setTeam_parts (s : State) (x : Team) : (s.setTeam x).parts = s.parts := rfl
@[simp] theorem State.setTeam_gbbase (s : State) (x : Team) : (s.setTeam x).gbbase = s.gbbase := rfl
@[simp] theorem State.setTeam_spillbase (s : State) (x : Team) : (s.setTeam x).spillbase = s.spillbase := rfl
@[simp] theorem State.setTeam_ccbase (s : State) (x : Team) : (s.setTeam x).ccbase = s.ccbase := rfl
@[simp] theorem State.setTeam_ccframes (s : State) (x : Team) : (s.setTeam x).ccframes = s.ccframes := rfl
@[simp] theorem State.setTeam_restsz (s : State) (x : Team) : (s.setTeam x).restsz = s.restsz := rfl
@[simp] theorem State.setTeam_restbase (s : State) (x : Team) : (s.setTeam x).restbase = s.restbase := rfl
@[simp] theorem State.setTeam_peers (s : State) (x : Team) : (s.setTeam x).peers = s.peers := rfl
@[simp] theorem State.setTeam_quads (s : State) (x : Team) : (s.setTeam x).quads = s.quads := rfl
@[simp] theorem State.setTeam_launches (s : State) (x : Team) : (s.setTeam x).launches = s.launches := rfl
@[simp] theorem State.setTeam_tiles (s : State) (x : Team) : (s.setTeam x).tiles = s.tiles := rfl
@[simp] theorem State.setTeam_icache (s : State) (x : Team) : (s.setTeam x).icache = s.icache := rfl
@[simp] theorem State.setTeam_tlb (s : State) (x : Team) : (s.setTeam x).tlb = s.tlb := rfl
@[simp] theorem State.setTeam_recCache (s : State) (x : Team) : (s.setTeam x).recCache = s.recCache := rfl
@[simp] theorem State.setTeam_cmds (s : State) (x : Team) : (s.setTeam x).cmds = s.cmds := rfl
@[simp] theorem State.setTeam_late (s : State) (x : Team) : (s.setTeam x).late = s.late := rfl
@[simp] theorem State.setTeam_huts (s : State) (x : Team) : (s.setTeam x).huts = s.huts := rfl
@[simp] theorem State.setTeam_stackTab (s : State) (x : Team) : (s.setTeam x).stackTab = s.stackTab := rfl
@[simp] theorem State.setTeam_fabric (s : State) (x : Team) : (s.setTeam x).fabric = s.fabric := rfl
@[simp] theorem State.setTeam_monitors (s : State) (x : Team) : (s.setTeam x).monitors = s.monitors := rfl
@[simp] theorem State.setTeam_coh (s : State) (x : Team) : (s.setTeam x).coh = s.coh := rfl
@[simp] theorem State.setTeam_walkWait (s : State) (x : Team) : (s.setTeam x).walkWait = s.walkWait := rfl
@[simp] theorem State.setTeam_walkFail (s : State) (x : Team) : (s.setTeam x).walkFail = s.walkFail := rfl
@[simp] theorem State.setTeam_lineWait (s : State) (x : Team) : (s.setTeam x).lineWait = s.lineWait := rfl
@[simp] theorem State.setTeam_peerReqs (s : State) (x : Team) : (s.setTeam x).peerReqs = s.peerReqs := rfl
@[simp] theorem State.setTeam_out (s : State) (x : Team) : (s.setTeam x).out = s.out := rfl
/-! ### `State.setLaunch` -/
@[simp] theorem State.setLaunch_cycle (s : State) (x : Launch) : (s.setLaunch x).cycle = s.cycle := rfl
@[simp] theorem State.setLaunch_refilled (s : State) (x : Launch) : (s.setLaunch x).refilled = s.refilled := rfl
@[simp] theorem State.setLaunch_agenda (s : State) (x : Launch) : (s.setLaunch x).agenda = s.agenda := rfl
@[simp] theorem State.setLaunch_tick (s : State) (x : Launch) : (s.setLaunch x).tick = s.tick := rfl
@[simp] theorem State.setLaunch_cur (s : State) (x : Launch) : (s.setLaunch x).cur = s.cur := rfl
@[simp] theorem State.setLaunch_curWord (s : State) (x : Launch) : (s.setLaunch x).curWord = s.curWord := rfl
@[simp] theorem State.setLaunch_nextId (s : State) (x : Launch) : (s.setLaunch x).nextId = s.nextId := rfl
@[simp] theorem State.setLaunch_boot (s : State) (x : Launch) : (s.setLaunch x).boot = s.boot := rfl
@[simp] theorem State.setLaunch_mem (s : State) (x : Launch) : (s.setLaunch x).mem = s.mem := rfl
@[simp] theorem State.setLaunch_badBlocks (s : State) (x : Launch) : (s.setLaunch x).badBlocks = s.badBlocks := rfl
@[simp] theorem State.setLaunch_pf0 (s : State) (x : Launch) : (s.setLaunch x).pf0 = s.pf0 := rfl
@[simp] theorem State.setLaunch_pf1 (s : State) (x : Launch) : (s.setLaunch x).pf1 = s.pf1 := rfl
@[simp] theorem State.setLaunch_vfs (s : State) (x : Launch) : (s.setLaunch x).vfs = s.vfs := rfl
@[simp] theorem State.setLaunch_ctxs (s : State) (x : Launch) : (s.setLaunch x).ctxs = s.ctxs := rfl
@[simp] theorem State.setLaunch_parts (s : State) (x : Launch) : (s.setLaunch x).parts = s.parts := rfl
@[simp] theorem State.setLaunch_gbbase (s : State) (x : Launch) : (s.setLaunch x).gbbase = s.gbbase := rfl
@[simp] theorem State.setLaunch_spillbase (s : State) (x : Launch) : (s.setLaunch x).spillbase = s.spillbase := rfl
@[simp] theorem State.setLaunch_ccbase (s : State) (x : Launch) : (s.setLaunch x).ccbase = s.ccbase := rfl
@[simp] theorem State.setLaunch_ccframes (s : State) (x : Launch) : (s.setLaunch x).ccframes = s.ccframes := rfl
@[simp] theorem State.setLaunch_restsz (s : State) (x : Launch) : (s.setLaunch x).restsz = s.restsz := rfl
@[simp] theorem State.setLaunch_restbase (s : State) (x : Launch) : (s.setLaunch x).restbase = s.restbase := rfl
@[simp] theorem State.setLaunch_peers (s : State) (x : Launch) : (s.setLaunch x).peers = s.peers := rfl
@[simp] theorem State.setLaunch_quads (s : State) (x : Launch) : (s.setLaunch x).quads = s.quads := rfl
@[simp] theorem State.setLaunch_clusters (s : State) (x : Launch) : (s.setLaunch x).clusters = s.clusters := rfl
@[simp] theorem State.setLaunch_tiles (s : State) (x : Launch) : (s.setLaunch x).tiles = s.tiles := rfl
@[simp] theorem State.setLaunch_icache (s : State) (x : Launch) : (s.setLaunch x).icache = s.icache := rfl
@[simp] theorem State.setLaunch_tlb (s : State) (x : Launch) : (s.setLaunch x).tlb = s.tlb := rfl
@[simp] theorem State.setLaunch_recCache (s : State) (x : Launch) : (s.setLaunch x).recCache = s.recCache := rfl
@[simp] theorem State.setLaunch_cmds (s : State) (x : Launch) : (s.setLaunch x).cmds = s.cmds := rfl
@[simp] theorem State.setLaunch_late (s : State) (x : Launch) : (s.setLaunch x).late = s.late := rfl
@[simp] theorem State.setLaunch_huts (s : State) (x : Launch) : (s.setLaunch x).huts = s.huts := rfl
@[simp] theorem State.setLaunch_stackTab (s : State) (x : Launch) : (s.setLaunch x).stackTab = s.stackTab := rfl
@[simp] theorem State.setLaunch_fabric (s : State) (x : Launch) : (s.setLaunch x).fabric = s.fabric := rfl
@[simp] theorem State.setLaunch_monitors (s : State) (x : Launch) : (s.setLaunch x).monitors = s.monitors := rfl
@[simp] theorem State.setLaunch_coh (s : State) (x : Launch) : (s.setLaunch x).coh = s.coh := rfl
@[simp] theorem State.setLaunch_walkWait (s : State) (x : Launch) : (s.setLaunch x).walkWait = s.walkWait := rfl
@[simp] theorem State.setLaunch_walkFail (s : State) (x : Launch) : (s.setLaunch x).walkFail = s.walkFail := rfl
@[simp] theorem State.setLaunch_lineWait (s : State) (x : Launch) : (s.setLaunch x).lineWait = s.lineWait := rfl
@[simp] theorem State.setLaunch_peerReqs (s : State) (x : Launch) : (s.setLaunch x).peerReqs = s.peerReqs := rfl
@[simp] theorem State.setLaunch_out (s : State) (x : Launch) : (s.setLaunch x).out = s.out := rfl
/-! ### `State.poke` -/
@[simp] theorem State.poke_cycle (s : State) (a : Nat) (bs : List Byte) : (s.poke a bs).cycle = s.cycle := rfl
@[simp] theorem State.poke_refilled (s : State) (a : Nat) (bs : List Byte) : (s.poke a bs).refilled = s.refilled := rfl
@[simp] theorem State.poke_agenda (s : State) (a : Nat) (bs : List Byte) : (s.poke a bs).agenda = s.agenda := rfl
@[simp] theorem State.poke_tick (s : State) (a : Nat) (bs : List Byte) : (s.poke a bs).tick = s.tick := rfl
@[simp] theorem State.poke_cur (s : State) (a : Nat) (bs : List Byte) : (s.poke a bs).cur = s.cur := rfl
@[simp] theorem State.poke_curWord (s : State) (a : Nat) (bs : List Byte) : (s.poke a bs).curWord = s.curWord := rfl
@[simp] theorem State.poke_nextId (s : State) (a : Nat) (bs : List Byte) : (s.poke a bs).nextId = s.nextId := rfl
@[simp] theorem State.poke_boot (s : State) (a : Nat) (bs : List Byte) : (s.poke a bs).boot = s.boot := rfl
@[simp] theorem State.poke_badBlocks (s : State) (a : Nat) (bs : List Byte) : (s.poke a bs).badBlocks = s.badBlocks := rfl
@[simp] theorem State.poke_pf0 (s : State) (a : Nat) (bs : List Byte) : (s.poke a bs).pf0 = s.pf0 := rfl
@[simp] theorem State.poke_pf1 (s : State) (a : Nat) (bs : List Byte) : (s.poke a bs).pf1 = s.pf1 := rfl
@[simp] theorem State.poke_vfs (s : State) (a : Nat) (bs : List Byte) : (s.poke a bs).vfs = s.vfs := rfl
@[simp] theorem State.poke_ctxs (s : State) (a : Nat) (bs : List Byte) : (s.poke a bs).ctxs = s.ctxs := rfl
@[simp] theorem State.poke_parts (s : State) (a : Nat) (bs : List Byte) : (s.poke a bs).parts = s.parts := rfl
@[simp] theorem State.poke_gbbase (s : State) (a : Nat) (bs : List Byte) : (s.poke a bs).gbbase = s.gbbase := rfl
@[simp] theorem State.poke_spillbase (s : State) (a : Nat) (bs : List Byte) : (s.poke a bs).spillbase = s.spillbase := rfl
@[simp] theorem State.poke_ccbase (s : State) (a : Nat) (bs : List Byte) : (s.poke a bs).ccbase = s.ccbase := rfl
@[simp] theorem State.poke_ccframes (s : State) (a : Nat) (bs : List Byte) : (s.poke a bs).ccframes = s.ccframes := rfl
@[simp] theorem State.poke_restsz (s : State) (a : Nat) (bs : List Byte) : (s.poke a bs).restsz = s.restsz := rfl
@[simp] theorem State.poke_restbase (s : State) (a : Nat) (bs : List Byte) : (s.poke a bs).restbase = s.restbase := rfl
@[simp] theorem State.poke_peers (s : State) (a : Nat) (bs : List Byte) : (s.poke a bs).peers = s.peers := rfl
@[simp] theorem State.poke_quads (s : State) (a : Nat) (bs : List Byte) : (s.poke a bs).quads = s.quads := rfl
@[simp] theorem State.poke_launches (s : State) (a : Nat) (bs : List Byte) : (s.poke a bs).launches = s.launches := rfl
@[simp] theorem State.poke_clusters (s : State) (a : Nat) (bs : List Byte) : (s.poke a bs).clusters = s.clusters := rfl
@[simp] theorem State.poke_tiles (s : State) (a : Nat) (bs : List Byte) : (s.poke a bs).tiles = s.tiles := rfl
@[simp] theorem State.poke_icache (s : State) (a : Nat) (bs : List Byte) : (s.poke a bs).icache = s.icache := rfl
@[simp] theorem State.poke_tlb (s : State) (a : Nat) (bs : List Byte) : (s.poke a bs).tlb = s.tlb := rfl
@[simp] theorem State.poke_recCache (s : State) (a : Nat) (bs : List Byte) : (s.poke a bs).recCache = s.recCache := rfl
@[simp] theorem State.poke_cmds (s : State) (a : Nat) (bs : List Byte) : (s.poke a bs).cmds = s.cmds := rfl
@[simp] theorem State.poke_late (s : State) (a : Nat) (bs : List Byte) : (s.poke a bs).late = s.late := rfl
@[simp] theorem State.poke_huts (s : State) (a : Nat) (bs : List Byte) : (s.poke a bs).huts = s.huts := rfl
@[simp] theorem State.poke_stackTab (s : State) (a : Nat) (bs : List Byte) : (s.poke a bs).stackTab = s.stackTab := rfl
@[simp] theorem State.poke_fabric (s : State) (a : Nat) (bs : List Byte) : (s.poke a bs).fabric = s.fabric := rfl
@[simp] theorem State.poke_monitors (s : State) (a : Nat) (bs : List Byte) : (s.poke a bs).monitors = s.monitors := rfl
@[simp] theorem State.poke_coh (s : State) (a : Nat) (bs : List Byte) : (s.poke a bs).coh = s.coh := rfl
@[simp] theorem State.poke_walkWait (s : State) (a : Nat) (bs : List Byte) : (s.poke a bs).walkWait = s.walkWait := rfl
@[simp] theorem State.poke_walkFail (s : State) (a : Nat) (bs : List Byte) : (s.poke a bs).walkFail = s.walkFail := rfl
@[simp] theorem State.poke_lineWait (s : State) (a : Nat) (bs : List Byte) : (s.poke a bs).lineWait = s.lineWait := rfl
@[simp] theorem State.poke_peerReqs (s : State) (a : Nat) (bs : List Byte) : (s.poke a bs).peerReqs = s.peerReqs := rfl
@[simp] theorem State.poke_out (s : State) (a : Nat) (bs : List Byte) : (s.poke a bs).out = s.out := rfl
/-! ### `State.updVf` -/
@[simp] theorem State.updVf_cycle (s : State) (v : Nat) (x : Vf → Vf) : (s.updVf v x).cycle = s.cycle := rfl
@[simp] theorem State.updVf_refilled (s : State) (v : Nat) (x : Vf → Vf) : (s.updVf v x).refilled = s.refilled := rfl
@[simp] theorem State.updVf_agenda (s : State) (v : Nat) (x : Vf → Vf) : (s.updVf v x).agenda = s.agenda := rfl
@[simp] theorem State.updVf_tick (s : State) (v : Nat) (x : Vf → Vf) : (s.updVf v x).tick = s.tick := rfl
@[simp] theorem State.updVf_cur (s : State) (v : Nat) (x : Vf → Vf) : (s.updVf v x).cur = s.cur := rfl
@[simp] theorem State.updVf_curWord (s : State) (v : Nat) (x : Vf → Vf) : (s.updVf v x).curWord = s.curWord := rfl
@[simp] theorem State.updVf_nextId (s : State) (v : Nat) (x : Vf → Vf) : (s.updVf v x).nextId = s.nextId := rfl
@[simp] theorem State.updVf_boot (s : State) (v : Nat) (x : Vf → Vf) : (s.updVf v x).boot = s.boot := rfl
@[simp] theorem State.updVf_mem (s : State) (v : Nat) (x : Vf → Vf) : (s.updVf v x).mem = s.mem := rfl
@[simp] theorem State.updVf_badBlocks (s : State) (v : Nat) (x : Vf → Vf) : (s.updVf v x).badBlocks = s.badBlocks := rfl
@[simp] theorem State.updVf_pf0 (s : State) (v : Nat) (x : Vf → Vf) : (s.updVf v x).pf0 = s.pf0 := rfl
@[simp] theorem State.updVf_pf1 (s : State) (v : Nat) (x : Vf → Vf) : (s.updVf v x).pf1 = s.pf1 := rfl
@[simp] theorem State.updVf_ctxs (s : State) (v : Nat) (x : Vf → Vf) : (s.updVf v x).ctxs = s.ctxs := rfl
@[simp] theorem State.updVf_parts (s : State) (v : Nat) (x : Vf → Vf) : (s.updVf v x).parts = s.parts := rfl
@[simp] theorem State.updVf_gbbase (s : State) (v : Nat) (x : Vf → Vf) : (s.updVf v x).gbbase = s.gbbase := rfl
@[simp] theorem State.updVf_spillbase (s : State) (v : Nat) (x : Vf → Vf) : (s.updVf v x).spillbase = s.spillbase := rfl
@[simp] theorem State.updVf_ccbase (s : State) (v : Nat) (x : Vf → Vf) : (s.updVf v x).ccbase = s.ccbase := rfl
@[simp] theorem State.updVf_ccframes (s : State) (v : Nat) (x : Vf → Vf) : (s.updVf v x).ccframes = s.ccframes := rfl
@[simp] theorem State.updVf_restsz (s : State) (v : Nat) (x : Vf → Vf) : (s.updVf v x).restsz = s.restsz := rfl
@[simp] theorem State.updVf_restbase (s : State) (v : Nat) (x : Vf → Vf) : (s.updVf v x).restbase = s.restbase := rfl
@[simp] theorem State.updVf_peers (s : State) (v : Nat) (x : Vf → Vf) : (s.updVf v x).peers = s.peers := rfl
@[simp] theorem State.updVf_quads (s : State) (v : Nat) (x : Vf → Vf) : (s.updVf v x).quads = s.quads := rfl
@[simp] theorem State.updVf_launches (s : State) (v : Nat) (x : Vf → Vf) : (s.updVf v x).launches = s.launches := rfl
@[simp] theorem State.updVf_clusters (s : State) (v : Nat) (x : Vf → Vf) : (s.updVf v x).clusters = s.clusters := rfl
@[simp] theorem State.updVf_tiles (s : State) (v : Nat) (x : Vf → Vf) : (s.updVf v x).tiles = s.tiles := rfl
@[simp] theorem State.updVf_icache (s : State) (v : Nat) (x : Vf → Vf) : (s.updVf v x).icache = s.icache := rfl
@[simp] theorem State.updVf_tlb (s : State) (v : Nat) (x : Vf → Vf) : (s.updVf v x).tlb = s.tlb := rfl
@[simp] theorem State.updVf_recCache (s : State) (v : Nat) (x : Vf → Vf) : (s.updVf v x).recCache = s.recCache := rfl
@[simp] theorem State.updVf_cmds (s : State) (v : Nat) (x : Vf → Vf) : (s.updVf v x).cmds = s.cmds := rfl
@[simp] theorem State.updVf_late (s : State) (v : Nat) (x : Vf → Vf) : (s.updVf v x).late = s.late := rfl
@[simp] theorem State.updVf_huts (s : State) (v : Nat) (x : Vf → Vf) : (s.updVf v x).huts = s.huts := rfl
@[simp] theorem State.updVf_stackTab (s : State) (v : Nat) (x : Vf → Vf) : (s.updVf v x).stackTab = s.stackTab := rfl
@[simp] theorem State.updVf_fabric (s : State) (v : Nat) (x : Vf → Vf) : (s.updVf v x).fabric = s.fabric := rfl
@[simp] theorem State.updVf_monitors (s : State) (v : Nat) (x : Vf → Vf) : (s.updVf v x).monitors = s.monitors := rfl
@[simp] theorem State.updVf_coh (s : State) (v : Nat) (x : Vf → Vf) : (s.updVf v x).coh = s.coh := rfl
@[simp] theorem State.updVf_walkWait (s : State) (v : Nat) (x : Vf → Vf) : (s.updVf v x).walkWait = s.walkWait := rfl
@[simp] theorem State.updVf_walkFail (s : State) (v : Nat) (x : Vf → Vf) : (s.updVf v x).walkFail = s.walkFail := rfl
@[simp] theorem State.updVf_lineWait (s : State) (v : Nat) (x : Vf → Vf) : (s.updVf v x).lineWait = s.lineWait := rfl
@[simp] theorem State.updVf_peerReqs (s : State) (v : Nat) (x : Vf → Vf) : (s.updVf v x).peerReqs = s.peerReqs := rfl
@[simp] theorem State.updVf_out (s : State) (v : Nat) (x : Vf → Vf) : (s.updVf v x).out = s.out := rfl
/-! ### `State.updCtx` -/
@[simp] theorem State.updCtx_cycle (s : State) (v : Nat) (x : Ctx → Ctx) : (s.updCtx v x).cycle = s.cycle := rfl
@[simp] theorem State.updCtx_refilled (s : State) (v : Nat) (x : Ctx → Ctx) : (s.updCtx v x).refilled = s.refilled := rfl
@[simp] theorem State.updCtx_agenda (s : State) (v : Nat) (x : Ctx → Ctx) : (s.updCtx v x).agenda = s.agenda := rfl
@[simp] theorem State.updCtx_tick (s : State) (v : Nat) (x : Ctx → Ctx) : (s.updCtx v x).tick = s.tick := rfl
@[simp] theorem State.updCtx_cur (s : State) (v : Nat) (x : Ctx → Ctx) : (s.updCtx v x).cur = s.cur := rfl
@[simp] theorem State.updCtx_curWord (s : State) (v : Nat) (x : Ctx → Ctx) : (s.updCtx v x).curWord = s.curWord := rfl
@[simp] theorem State.updCtx_nextId (s : State) (v : Nat) (x : Ctx → Ctx) : (s.updCtx v x).nextId = s.nextId := rfl
@[simp] theorem State.updCtx_boot (s : State) (v : Nat) (x : Ctx → Ctx) : (s.updCtx v x).boot = s.boot := rfl
@[simp] theorem State.updCtx_mem (s : State) (v : Nat) (x : Ctx → Ctx) : (s.updCtx v x).mem = s.mem := rfl
@[simp] theorem State.updCtx_badBlocks (s : State) (v : Nat) (x : Ctx → Ctx) : (s.updCtx v x).badBlocks = s.badBlocks := rfl
@[simp] theorem State.updCtx_pf0 (s : State) (v : Nat) (x : Ctx → Ctx) : (s.updCtx v x).pf0 = s.pf0 := rfl
@[simp] theorem State.updCtx_pf1 (s : State) (v : Nat) (x : Ctx → Ctx) : (s.updCtx v x).pf1 = s.pf1 := rfl
@[simp] theorem State.updCtx_vfs (s : State) (v : Nat) (x : Ctx → Ctx) : (s.updCtx v x).vfs = s.vfs := rfl
@[simp] theorem State.updCtx_parts (s : State) (v : Nat) (x : Ctx → Ctx) : (s.updCtx v x).parts = s.parts := rfl
@[simp] theorem State.updCtx_gbbase (s : State) (v : Nat) (x : Ctx → Ctx) : (s.updCtx v x).gbbase = s.gbbase := rfl
@[simp] theorem State.updCtx_spillbase (s : State) (v : Nat) (x : Ctx → Ctx) : (s.updCtx v x).spillbase = s.spillbase := rfl
@[simp] theorem State.updCtx_ccbase (s : State) (v : Nat) (x : Ctx → Ctx) : (s.updCtx v x).ccbase = s.ccbase := rfl
@[simp] theorem State.updCtx_ccframes (s : State) (v : Nat) (x : Ctx → Ctx) : (s.updCtx v x).ccframes = s.ccframes := rfl
@[simp] theorem State.updCtx_restsz (s : State) (v : Nat) (x : Ctx → Ctx) : (s.updCtx v x).restsz = s.restsz := rfl
@[simp] theorem State.updCtx_restbase (s : State) (v : Nat) (x : Ctx → Ctx) : (s.updCtx v x).restbase = s.restbase := rfl
@[simp] theorem State.updCtx_peers (s : State) (v : Nat) (x : Ctx → Ctx) : (s.updCtx v x).peers = s.peers := rfl
@[simp] theorem State.updCtx_quads (s : State) (v : Nat) (x : Ctx → Ctx) : (s.updCtx v x).quads = s.quads := rfl
@[simp] theorem State.updCtx_launches (s : State) (v : Nat) (x : Ctx → Ctx) : (s.updCtx v x).launches = s.launches := rfl
@[simp] theorem State.updCtx_clusters (s : State) (v : Nat) (x : Ctx → Ctx) : (s.updCtx v x).clusters = s.clusters := rfl
@[simp] theorem State.updCtx_tiles (s : State) (v : Nat) (x : Ctx → Ctx) : (s.updCtx v x).tiles = s.tiles := rfl
@[simp] theorem State.updCtx_icache (s : State) (v : Nat) (x : Ctx → Ctx) : (s.updCtx v x).icache = s.icache := rfl
@[simp] theorem State.updCtx_tlb (s : State) (v : Nat) (x : Ctx → Ctx) : (s.updCtx v x).tlb = s.tlb := rfl
@[simp] theorem State.updCtx_recCache (s : State) (v : Nat) (x : Ctx → Ctx) : (s.updCtx v x).recCache = s.recCache := rfl
@[simp] theorem State.updCtx_cmds (s : State) (v : Nat) (x : Ctx → Ctx) : (s.updCtx v x).cmds = s.cmds := rfl
@[simp] theorem State.updCtx_late (s : State) (v : Nat) (x : Ctx → Ctx) : (s.updCtx v x).late = s.late := rfl
@[simp] theorem State.updCtx_huts (s : State) (v : Nat) (x : Ctx → Ctx) : (s.updCtx v x).huts = s.huts := rfl
@[simp] theorem State.updCtx_stackTab (s : State) (v : Nat) (x : Ctx → Ctx) : (s.updCtx v x).stackTab = s.stackTab := rfl
@[simp] theorem State.updCtx_fabric (s : State) (v : Nat) (x : Ctx → Ctx) : (s.updCtx v x).fabric = s.fabric := rfl
@[simp] theorem State.updCtx_monitors (s : State) (v : Nat) (x : Ctx → Ctx) : (s.updCtx v x).monitors = s.monitors := rfl
@[simp] theorem State.updCtx_coh (s : State) (v : Nat) (x : Ctx → Ctx) : (s.updCtx v x).coh = s.coh := rfl
@[simp] theorem State.updCtx_walkWait (s : State) (v : Nat) (x : Ctx → Ctx) : (s.updCtx v x).walkWait = s.walkWait := rfl
@[simp] theorem State.updCtx_walkFail (s : State) (v : Nat) (x : Ctx → Ctx) : (s.updCtx v x).walkFail = s.walkFail := rfl
@[simp] theorem State.updCtx_lineWait (s : State) (v : Nat) (x : Ctx → Ctx) : (s.updCtx v x).lineWait = s.lineWait := rfl
@[simp] theorem State.updCtx_peerReqs (s : State) (v : Nat) (x : Ctx → Ctx) : (s.updCtx v x).peerReqs = s.peerReqs := rfl
@[simp] theorem State.updCtx_out (s : State) (v : Nat) (x : Ctx → Ctx) : (s.updCtx v x).out = s.out := rfl
/-! ### `State.updQuad` -/
@[simp] theorem State.updQuad_cycle (s : State) (v : Nat) (x : Quad → Quad) : (s.updQuad v x).cycle = s.cycle := rfl
@[simp] theorem State.updQuad_refilled (s : State) (v : Nat) (x : Quad → Quad) : (s.updQuad v x).refilled = s.refilled := rfl
@[simp] theorem State.updQuad_agenda (s : State) (v : Nat) (x : Quad → Quad) : (s.updQuad v x).agenda = s.agenda := rfl
@[simp] theorem State.updQuad_tick (s : State) (v : Nat) (x : Quad → Quad) : (s.updQuad v x).tick = s.tick := rfl
@[simp] theorem State.updQuad_cur (s : State) (v : Nat) (x : Quad → Quad) : (s.updQuad v x).cur = s.cur := rfl
@[simp] theorem State.updQuad_curWord (s : State) (v : Nat) (x : Quad → Quad) : (s.updQuad v x).curWord = s.curWord := rfl
@[simp] theorem State.updQuad_nextId (s : State) (v : Nat) (x : Quad → Quad) : (s.updQuad v x).nextId = s.nextId := rfl
@[simp] theorem State.updQuad_boot (s : State) (v : Nat) (x : Quad → Quad) : (s.updQuad v x).boot = s.boot := rfl
@[simp] theorem State.updQuad_mem (s : State) (v : Nat) (x : Quad → Quad) : (s.updQuad v x).mem = s.mem := rfl
@[simp] theorem State.updQuad_badBlocks (s : State) (v : Nat) (x : Quad → Quad) : (s.updQuad v x).badBlocks = s.badBlocks := rfl
@[simp] theorem State.updQuad_pf0 (s : State) (v : Nat) (x : Quad → Quad) : (s.updQuad v x).pf0 = s.pf0 := rfl
@[simp] theorem State.updQuad_pf1 (s : State) (v : Nat) (x : Quad → Quad) : (s.updQuad v x).pf1 = s.pf1 := rfl
@[simp] theorem State.updQuad_vfs (s : State) (v : Nat) (x : Quad → Quad) : (s.updQuad v x).vfs = s.vfs := rfl
@[simp] theorem State.updQuad_ctxs (s : State) (v : Nat) (x : Quad → Quad) : (s.updQuad v x).ctxs = s.ctxs := rfl
@[simp] theorem State.updQuad_parts (s : State) (v : Nat) (x : Quad → Quad) : (s.updQuad v x).parts = s.parts := rfl
@[simp] theorem State.updQuad_gbbase (s : State) (v : Nat) (x : Quad → Quad) : (s.updQuad v x).gbbase = s.gbbase := rfl
@[simp] theorem State.updQuad_spillbase (s : State) (v : Nat) (x : Quad → Quad) : (s.updQuad v x).spillbase = s.spillbase := rfl
@[simp] theorem State.updQuad_ccbase (s : State) (v : Nat) (x : Quad → Quad) : (s.updQuad v x).ccbase = s.ccbase := rfl
@[simp] theorem State.updQuad_ccframes (s : State) (v : Nat) (x : Quad → Quad) : (s.updQuad v x).ccframes = s.ccframes := rfl
@[simp] theorem State.updQuad_restsz (s : State) (v : Nat) (x : Quad → Quad) : (s.updQuad v x).restsz = s.restsz := rfl
@[simp] theorem State.updQuad_restbase (s : State) (v : Nat) (x : Quad → Quad) : (s.updQuad v x).restbase = s.restbase := rfl
@[simp] theorem State.updQuad_peers (s : State) (v : Nat) (x : Quad → Quad) : (s.updQuad v x).peers = s.peers := rfl
@[simp] theorem State.updQuad_launches (s : State) (v : Nat) (x : Quad → Quad) : (s.updQuad v x).launches = s.launches := rfl
@[simp] theorem State.updQuad_clusters (s : State) (v : Nat) (x : Quad → Quad) : (s.updQuad v x).clusters = s.clusters := rfl
@[simp] theorem State.updQuad_tiles (s : State) (v : Nat) (x : Quad → Quad) : (s.updQuad v x).tiles = s.tiles := rfl
@[simp] theorem State.updQuad_icache (s : State) (v : Nat) (x : Quad → Quad) : (s.updQuad v x).icache = s.icache := rfl
@[simp] theorem State.updQuad_tlb (s : State) (v : Nat) (x : Quad → Quad) : (s.updQuad v x).tlb = s.tlb := rfl
@[simp] theorem State.updQuad_recCache (s : State) (v : Nat) (x : Quad → Quad) : (s.updQuad v x).recCache = s.recCache := rfl
@[simp] theorem State.updQuad_cmds (s : State) (v : Nat) (x : Quad → Quad) : (s.updQuad v x).cmds = s.cmds := rfl
@[simp] theorem State.updQuad_late (s : State) (v : Nat) (x : Quad → Quad) : (s.updQuad v x).late = s.late := rfl
@[simp] theorem State.updQuad_huts (s : State) (v : Nat) (x : Quad → Quad) : (s.updQuad v x).huts = s.huts := rfl
@[simp] theorem State.updQuad_stackTab (s : State) (v : Nat) (x : Quad → Quad) : (s.updQuad v x).stackTab = s.stackTab := rfl
@[simp] theorem State.updQuad_fabric (s : State) (v : Nat) (x : Quad → Quad) : (s.updQuad v x).fabric = s.fabric := rfl
@[simp] theorem State.updQuad_monitors (s : State) (v : Nat) (x : Quad → Quad) : (s.updQuad v x).monitors = s.monitors := rfl
@[simp] theorem State.updQuad_coh (s : State) (v : Nat) (x : Quad → Quad) : (s.updQuad v x).coh = s.coh := rfl
@[simp] theorem State.updQuad_walkWait (s : State) (v : Nat) (x : Quad → Quad) : (s.updQuad v x).walkWait = s.walkWait := rfl
@[simp] theorem State.updQuad_walkFail (s : State) (v : Nat) (x : Quad → Quad) : (s.updQuad v x).walkFail = s.walkFail := rfl
@[simp] theorem State.updQuad_lineWait (s : State) (v : Nat) (x : Quad → Quad) : (s.updQuad v x).lineWait = s.lineWait := rfl
@[simp] theorem State.updQuad_peerReqs (s : State) (v : Nat) (x : Quad → Quad) : (s.updQuad v x).peerReqs = s.peerReqs := rfl
@[simp] theorem State.updQuad_out (s : State) (v : Nat) (x : Quad → Quad) : (s.updQuad v x).out = s.out := rfl
/-! ### `State.refreshReady` -/
@[simp] theorem State.refreshReady_cycle (s : State)  : (s.refreshReady ).cycle = s.cycle := rfl
@[simp] theorem State.refreshReady_refilled (s : State)  : (s.refreshReady ).refilled = s.refilled := rfl
@[simp] theorem State.refreshReady_agenda (s : State)  : (s.refreshReady ).agenda = s.agenda := rfl
@[simp] theorem State.refreshReady_tick (s : State)  : (s.refreshReady ).tick = s.tick := rfl
@[simp] theorem State.refreshReady_cur (s : State)  : (s.refreshReady ).cur = s.cur := rfl
@[simp] theorem State.refreshReady_curWord (s : State)  : (s.refreshReady ).curWord = s.curWord := rfl
@[simp] theorem State.refreshReady_nextId (s : State)  : (s.refreshReady ).nextId = s.nextId := rfl
@[simp] theorem State.refreshReady_boot (s : State)  : (s.refreshReady ).boot = s.boot := rfl
@[simp] theorem State.refreshReady_mem (s : State)  : (s.refreshReady ).mem = s.mem := rfl
@[simp] theorem State.refreshReady_badBlocks (s : State)  : (s.refreshReady ).badBlocks = s.badBlocks := rfl
@[simp] theorem State.refreshReady_pf0 (s : State)  : (s.refreshReady ).pf0 = s.pf0 := rfl
@[simp] theorem State.refreshReady_pf1 (s : State)  : (s.refreshReady ).pf1 = s.pf1 := rfl
@[simp] theorem State.refreshReady_vfs (s : State)  : (s.refreshReady ).vfs = s.vfs := rfl
@[simp] theorem State.refreshReady_ctxs (s : State)  : (s.refreshReady ).ctxs = s.ctxs := rfl
@[simp] theorem State.refreshReady_parts (s : State)  : (s.refreshReady ).parts = s.parts := rfl
@[simp] theorem State.refreshReady_gbbase (s : State)  : (s.refreshReady ).gbbase = s.gbbase := rfl
@[simp] theorem State.refreshReady_spillbase (s : State)  : (s.refreshReady ).spillbase = s.spillbase := rfl
@[simp] theorem State.refreshReady_ccbase (s : State)  : (s.refreshReady ).ccbase = s.ccbase := rfl
@[simp] theorem State.refreshReady_ccframes (s : State)  : (s.refreshReady ).ccframes = s.ccframes := rfl
@[simp] theorem State.refreshReady_restsz (s : State)  : (s.refreshReady ).restsz = s.restsz := rfl
@[simp] theorem State.refreshReady_restbase (s : State)  : (s.refreshReady ).restbase = s.restbase := rfl
@[simp] theorem State.refreshReady_peers (s : State)  : (s.refreshReady ).peers = s.peers := rfl
@[simp] theorem State.refreshReady_quads (s : State)  : (s.refreshReady ).quads = s.quads := rfl
@[simp] theorem State.refreshReady_clusters (s : State)  : (s.refreshReady ).clusters = s.clusters := rfl
@[simp] theorem State.refreshReady_tiles (s : State)  : (s.refreshReady ).tiles = s.tiles := rfl
@[simp] theorem State.refreshReady_icache (s : State)  : (s.refreshReady ).icache = s.icache := rfl
@[simp] theorem State.refreshReady_tlb (s : State)  : (s.refreshReady ).tlb = s.tlb := rfl
@[simp] theorem State.refreshReady_recCache (s : State)  : (s.refreshReady ).recCache = s.recCache := rfl
@[simp] theorem State.refreshReady_cmds (s : State)  : (s.refreshReady ).cmds = s.cmds := rfl
@[simp] theorem State.refreshReady_late (s : State)  : (s.refreshReady ).late = s.late := rfl
@[simp] theorem State.refreshReady_huts (s : State)  : (s.refreshReady ).huts = s.huts := rfl
@[simp] theorem State.refreshReady_stackTab (s : State)  : (s.refreshReady ).stackTab = s.stackTab := rfl
@[simp] theorem State.refreshReady_fabric (s : State)  : (s.refreshReady ).fabric = s.fabric := rfl
@[simp] theorem State.refreshReady_monitors (s : State)  : (s.refreshReady ).monitors = s.monitors := rfl
@[simp] theorem State.refreshReady_coh (s : State)  : (s.refreshReady ).coh = s.coh := rfl
@[simp] theorem State.refreshReady_walkWait (s : State)  : (s.refreshReady ).walkWait = s.walkWait := rfl
@[simp] theorem State.refreshReady_walkFail (s : State)  : (s.refreshReady ).walkFail = s.walkFail := rfl
@[simp] theorem State.refreshReady_lineWait (s : State)  : (s.refreshReady ).lineWait = s.lineWait := rfl
@[simp] theorem State.refreshReady_peerReqs (s : State)  : (s.refreshReady ).peerReqs = s.peerReqs := rfl
@[simp] theorem State.refreshReady_out (s : State)  : (s.refreshReady ).out = s.out := rfl
/-! ### `State.diag` -/
@[simp] theorem State.diag_cycle (s : State) (q v n : Nat) (h : DWord → DWord) : (s.diag q v n h).cycle = s.cycle := rfl
@[simp] theorem State.diag_refilled (s : State) (q v n : Nat) (h : DWord → DWord) : (s.diag q v n h).refilled = s.refilled := rfl
@[simp] theorem State.diag_agenda (s : State) (q v n : Nat) (h : DWord → DWord) : (s.diag q v n h).agenda = s.agenda := rfl
@[simp] theorem State.diag_tick (s : State) (q v n : Nat) (h : DWord → DWord) : (s.diag q v n h).tick = s.tick := rfl
@[simp] theorem State.diag_cur (s : State) (q v n : Nat) (h : DWord → DWord) : (s.diag q v n h).cur = s.cur := rfl
@[simp] theorem State.diag_curWord (s : State) (q v n : Nat) (h : DWord → DWord) : (s.diag q v n h).curWord = s.curWord := rfl
@[simp] theorem State.diag_nextId (s : State) (q v n : Nat) (h : DWord → DWord) : (s.diag q v n h).nextId = s.nextId := rfl
@[simp] theorem State.diag_boot (s : State) (q v n : Nat) (h : DWord → DWord) : (s.diag q v n h).boot = s.boot := rfl
@[simp] theorem State.diag_mem (s : State) (q v n : Nat) (h : DWord → DWord) : (s.diag q v n h).mem = s.mem := rfl
@[simp] theorem State.diag_badBlocks (s : State) (q v n : Nat) (h : DWord → DWord) : (s.diag q v n h).badBlocks = s.badBlocks := rfl
@[simp] theorem State.diag_pf0 (s : State) (q v n : Nat) (h : DWord → DWord) : (s.diag q v n h).pf0 = s.pf0 := rfl
@[simp] theorem State.diag_pf1 (s : State) (q v n : Nat) (h : DWord → DWord) : (s.diag q v n h).pf1 = s.pf1 := rfl
@[simp] theorem State.diag_vfs (s : State) (q v n : Nat) (h : DWord → DWord) : (s.diag q v n h).vfs = s.vfs := rfl
@[simp] theorem State.diag_ctxs (s : State) (q v n : Nat) (h : DWord → DWord) : (s.diag q v n h).ctxs = s.ctxs := rfl
@[simp] theorem State.diag_parts (s : State) (q v n : Nat) (h : DWord → DWord) : (s.diag q v n h).parts = s.parts := rfl
@[simp] theorem State.diag_gbbase (s : State) (q v n : Nat) (h : DWord → DWord) : (s.diag q v n h).gbbase = s.gbbase := rfl
@[simp] theorem State.diag_spillbase (s : State) (q v n : Nat) (h : DWord → DWord) : (s.diag q v n h).spillbase = s.spillbase := rfl
@[simp] theorem State.diag_ccbase (s : State) (q v n : Nat) (h : DWord → DWord) : (s.diag q v n h).ccbase = s.ccbase := rfl
@[simp] theorem State.diag_ccframes (s : State) (q v n : Nat) (h : DWord → DWord) : (s.diag q v n h).ccframes = s.ccframes := rfl
@[simp] theorem State.diag_restsz (s : State) (q v n : Nat) (h : DWord → DWord) : (s.diag q v n h).restsz = s.restsz := rfl
@[simp] theorem State.diag_restbase (s : State) (q v n : Nat) (h : DWord → DWord) : (s.diag q v n h).restbase = s.restbase := rfl
@[simp] theorem State.diag_peers (s : State) (q v n : Nat) (h : DWord → DWord) : (s.diag q v n h).peers = s.peers := rfl
@[simp] theorem State.diag_launches (s : State) (q v n : Nat) (h : DWord → DWord) : (s.diag q v n h).launches = s.launches := rfl
@[simp] theorem State.diag_clusters (s : State) (q v n : Nat) (h : DWord → DWord) : (s.diag q v n h).clusters = s.clusters := rfl
@[simp] theorem State.diag_tiles (s : State) (q v n : Nat) (h : DWord → DWord) : (s.diag q v n h).tiles = s.tiles := rfl
@[simp] theorem State.diag_icache (s : State) (q v n : Nat) (h : DWord → DWord) : (s.diag q v n h).icache = s.icache := rfl
@[simp] theorem State.diag_tlb (s : State) (q v n : Nat) (h : DWord → DWord) : (s.diag q v n h).tlb = s.tlb := rfl
@[simp] theorem State.diag_recCache (s : State) (q v n : Nat) (h : DWord → DWord) : (s.diag q v n h).recCache = s.recCache := rfl
@[simp] theorem State.diag_cmds (s : State) (q v n : Nat) (h : DWord → DWord) : (s.diag q v n h).cmds = s.cmds := rfl
@[simp] theorem State.diag_late (s : State) (q v n : Nat) (h : DWord → DWord) : (s.diag q v n h).late = s.late := rfl
@[simp] theorem State.diag_huts (s : State) (q v n : Nat) (h : DWord → DWord) : (s.diag q v n h).huts = s.huts := rfl
@[simp] theorem State.diag_stackTab (s : State) (q v n : Nat) (h : DWord → DWord) : (s.diag q v n h).stackTab = s.stackTab := rfl
@[simp] theorem State.diag_fabric (s : State) (q v n : Nat) (h : DWord → DWord) : (s.diag q v n h).fabric = s.fabric := rfl
@[simp] theorem State.diag_monitors (s : State) (q v n : Nat) (h : DWord → DWord) : (s.diag q v n h).monitors = s.monitors := rfl
@[simp] theorem State.diag_coh (s : State) (q v n : Nat) (h : DWord → DWord) : (s.diag q v n h).coh = s.coh := rfl
@[simp] theorem State.diag_walkWait (s : State) (q v n : Nat) (h : DWord → DWord) : (s.diag q v n h).walkWait = s.walkWait := rfl
@[simp] theorem State.diag_walkFail (s : State) (q v n : Nat) (h : DWord → DWord) : (s.diag q v n h).walkFail = s.walkFail := rfl
@[simp] theorem State.diag_lineWait (s : State) (q v n : Nat) (h : DWord → DWord) : (s.diag q v n h).lineWait = s.lineWait := rfl
@[simp] theorem State.diag_peerReqs (s : State) (q v n : Nat) (h : DWord → DWord) : (s.diag q v n h).peerReqs = s.peerReqs := rfl
@[simp] theorem State.diag_out (s : State) (q v n : Nat) (h : DWord → DWord) : (s.diag q v n h).out = s.out := rfl
/-! ### `State.pushUsed`, `State.setPf` and `State.updTeam` -/
@[simp] theorem State.pushUsed_cycle (s : State) (u : Used) : (s.pushUsed u).cycle = s.cycle := by unfold State.pushUsed State.setPf; split <;> first | rfl | (split <;> rfl)
@[simp] theorem State.pushUsed_refilled (s : State) (u : Used) : (s.pushUsed u).refilled = s.refilled := by unfold State.pushUsed State.setPf; split <;> first | rfl | (split <;> rfl)
@[simp] theorem State.pushUsed_agenda (s : State) (u : Used) : (s.pushUsed u).agenda = s.agenda := by unfold State.pushUsed State.setPf; split <;> first | rfl | (split <;> rfl)
@[simp] theorem State.pushUsed_tick (s : State) (u : Used) : (s.pushUsed u).tick = s.tick := by unfold State.pushUsed State.setPf; split <;> first | rfl | (split <;> rfl)
@[simp] theorem State.pushUsed_cur (s : State) (u : Used) : (s.pushUsed u).cur = s.cur := by unfold State.pushUsed State.setPf; split <;> first | rfl | (split <;> rfl)
@[simp] theorem State.pushUsed_curWord (s : State) (u : Used) : (s.pushUsed u).curWord = s.curWord := by unfold State.pushUsed State.setPf; split <;> first | rfl | (split <;> rfl)
@[simp] theorem State.pushUsed_nextId (s : State) (u : Used) : (s.pushUsed u).nextId = s.nextId := by unfold State.pushUsed State.setPf; split <;> first | rfl | (split <;> rfl)
@[simp] theorem State.pushUsed_boot (s : State) (u : Used) : (s.pushUsed u).boot = s.boot := by unfold State.pushUsed State.setPf; split <;> first | rfl | (split <;> rfl)
@[simp] theorem State.pushUsed_mem (s : State) (u : Used) : (s.pushUsed u).mem = s.mem := by unfold State.pushUsed State.setPf; split <;> first | rfl | (split <;> rfl)
@[simp] theorem State.pushUsed_badBlocks (s : State) (u : Used) : (s.pushUsed u).badBlocks = s.badBlocks := by unfold State.pushUsed State.setPf; split <;> first | rfl | (split <;> rfl)
@[simp] theorem State.pushUsed_ctxs (s : State) (u : Used) : (s.pushUsed u).ctxs = s.ctxs := by unfold State.pushUsed State.setPf; split <;> first | rfl | (split <;> rfl)
@[simp] theorem State.pushUsed_parts (s : State) (u : Used) : (s.pushUsed u).parts = s.parts := by unfold State.pushUsed State.setPf; split <;> first | rfl | (split <;> rfl)
@[simp] theorem State.pushUsed_gbbase (s : State) (u : Used) : (s.pushUsed u).gbbase = s.gbbase := by unfold State.pushUsed State.setPf; split <;> first | rfl | (split <;> rfl)
@[simp] theorem State.pushUsed_spillbase (s : State) (u : Used) : (s.pushUsed u).spillbase = s.spillbase := by unfold State.pushUsed State.setPf; split <;> first | rfl | (split <;> rfl)
@[simp] theorem State.pushUsed_ccbase (s : State) (u : Used) : (s.pushUsed u).ccbase = s.ccbase := by unfold State.pushUsed State.setPf; split <;> first | rfl | (split <;> rfl)
@[simp] theorem State.pushUsed_ccframes (s : State) (u : Used) : (s.pushUsed u).ccframes = s.ccframes := by unfold State.pushUsed State.setPf; split <;> first | rfl | (split <;> rfl)
@[simp] theorem State.pushUsed_restsz (s : State) (u : Used) : (s.pushUsed u).restsz = s.restsz := by unfold State.pushUsed State.setPf; split <;> first | rfl | (split <;> rfl)
@[simp] theorem State.pushUsed_restbase (s : State) (u : Used) : (s.pushUsed u).restbase = s.restbase := by unfold State.pushUsed State.setPf; split <;> first | rfl | (split <;> rfl)
@[simp] theorem State.pushUsed_peers (s : State) (u : Used) : (s.pushUsed u).peers = s.peers := by unfold State.pushUsed State.setPf; split <;> first | rfl | (split <;> rfl)
@[simp] theorem State.pushUsed_quads (s : State) (u : Used) : (s.pushUsed u).quads = s.quads := by unfold State.pushUsed State.setPf; split <;> first | rfl | (split <;> rfl)
@[simp] theorem State.pushUsed_launches (s : State) (u : Used) : (s.pushUsed u).launches = s.launches := by unfold State.pushUsed State.setPf; split <;> first | rfl | (split <;> rfl)
@[simp] theorem State.pushUsed_clusters (s : State) (u : Used) : (s.pushUsed u).clusters = s.clusters := by unfold State.pushUsed State.setPf; split <;> first | rfl | (split <;> rfl)
@[simp] theorem State.pushUsed_tiles (s : State) (u : Used) : (s.pushUsed u).tiles = s.tiles := by unfold State.pushUsed State.setPf; split <;> first | rfl | (split <;> rfl)
@[simp] theorem State.pushUsed_icache (s : State) (u : Used) : (s.pushUsed u).icache = s.icache := by unfold State.pushUsed State.setPf; split <;> first | rfl | (split <;> rfl)
@[simp] theorem State.pushUsed_tlb (s : State) (u : Used) : (s.pushUsed u).tlb = s.tlb := by unfold State.pushUsed State.setPf; split <;> first | rfl | (split <;> rfl)
@[simp] theorem State.pushUsed_recCache (s : State) (u : Used) : (s.pushUsed u).recCache = s.recCache := by unfold State.pushUsed State.setPf; split <;> first | rfl | (split <;> rfl)
@[simp] theorem State.pushUsed_cmds (s : State) (u : Used) : (s.pushUsed u).cmds = s.cmds := by unfold State.pushUsed State.setPf; split <;> first | rfl | (split <;> rfl)
@[simp] theorem State.pushUsed_late (s : State) (u : Used) : (s.pushUsed u).late = s.late := by unfold State.pushUsed State.setPf; split <;> first | rfl | (split <;> rfl)
@[simp] theorem State.pushUsed_huts (s : State) (u : Used) : (s.pushUsed u).huts = s.huts := by unfold State.pushUsed State.setPf; split <;> first | rfl | (split <;> rfl)
@[simp] theorem State.pushUsed_stackTab (s : State) (u : Used) : (s.pushUsed u).stackTab = s.stackTab := by unfold State.pushUsed State.setPf; split <;> first | rfl | (split <;> rfl)
@[simp] theorem State.pushUsed_fabric (s : State) (u : Used) : (s.pushUsed u).fabric = s.fabric := by unfold State.pushUsed State.setPf; split <;> first | rfl | (split <;> rfl)
@[simp] theorem State.pushUsed_monitors (s : State) (u : Used) : (s.pushUsed u).monitors = s.monitors := by unfold State.pushUsed State.setPf; split <;> first | rfl | (split <;> rfl)
@[simp] theorem State.pushUsed_coh (s : State) (u : Used) : (s.pushUsed u).coh = s.coh := by unfold State.pushUsed State.setPf; split <;> first | rfl | (split <;> rfl)
@[simp] theorem State.pushUsed_walkWait (s : State) (u : Used) : (s.pushUsed u).walkWait = s.walkWait := by unfold State.pushUsed State.setPf; split <;> first | rfl | (split <;> rfl)
@[simp] theorem State.pushUsed_walkFail (s : State) (u : Used) : (s.pushUsed u).walkFail = s.walkFail := by unfold State.pushUsed State.setPf; split <;> first | rfl | (split <;> rfl)
@[simp] theorem State.pushUsed_lineWait (s : State) (u : Used) : (s.pushUsed u).lineWait = s.lineWait := by unfold State.pushUsed State.setPf; split <;> first | rfl | (split <;> rfl)
@[simp] theorem State.pushUsed_peerReqs (s : State) (u : Used) : (s.pushUsed u).peerReqs = s.peerReqs := by unfold State.pushUsed State.setPf; split <;> first | rfl | (split <;> rfl)
@[simp] theorem State.pushUsed_out (s : State) (u : Used) : (s.pushUsed u).out = { s.out with used := s.out.used ++ [u] } := by unfold State.pushUsed State.setPf; split <;> first | rfl | (split <;> rfl)
@[simp] theorem State.setPf_cycle (s : State) (i : Fin 2) (x : Pf) : (s.setPf i x).cycle = s.cycle := by unfold State.setPf; split <;> rfl
@[simp] theorem State.setPf_refilled (s : State) (i : Fin 2) (x : Pf) : (s.setPf i x).refilled = s.refilled := by unfold State.setPf; split <;> rfl
@[simp] theorem State.setPf_agenda (s : State) (i : Fin 2) (x : Pf) : (s.setPf i x).agenda = s.agenda := by unfold State.setPf; split <;> rfl
@[simp] theorem State.setPf_tick (s : State) (i : Fin 2) (x : Pf) : (s.setPf i x).tick = s.tick := by unfold State.setPf; split <;> rfl
@[simp] theorem State.setPf_cur (s : State) (i : Fin 2) (x : Pf) : (s.setPf i x).cur = s.cur := by unfold State.setPf; split <;> rfl
@[simp] theorem State.setPf_curWord (s : State) (i : Fin 2) (x : Pf) : (s.setPf i x).curWord = s.curWord := by unfold State.setPf; split <;> rfl
@[simp] theorem State.setPf_nextId (s : State) (i : Fin 2) (x : Pf) : (s.setPf i x).nextId = s.nextId := by unfold State.setPf; split <;> rfl
@[simp] theorem State.setPf_boot (s : State) (i : Fin 2) (x : Pf) : (s.setPf i x).boot = s.boot := by unfold State.setPf; split <;> rfl
@[simp] theorem State.setPf_mem (s : State) (i : Fin 2) (x : Pf) : (s.setPf i x).mem = s.mem := by unfold State.setPf; split <;> rfl
@[simp] theorem State.setPf_badBlocks (s : State) (i : Fin 2) (x : Pf) : (s.setPf i x).badBlocks = s.badBlocks := by unfold State.setPf; split <;> rfl
@[simp] theorem State.setPf_vfs (s : State) (i : Fin 2) (x : Pf) : (s.setPf i x).vfs = s.vfs := by unfold State.setPf; split <;> rfl
@[simp] theorem State.setPf_ctxs (s : State) (i : Fin 2) (x : Pf) : (s.setPf i x).ctxs = s.ctxs := by unfold State.setPf; split <;> rfl
@[simp] theorem State.setPf_parts (s : State) (i : Fin 2) (x : Pf) : (s.setPf i x).parts = s.parts := by unfold State.setPf; split <;> rfl
@[simp] theorem State.setPf_gbbase (s : State) (i : Fin 2) (x : Pf) : (s.setPf i x).gbbase = s.gbbase := by unfold State.setPf; split <;> rfl
@[simp] theorem State.setPf_spillbase (s : State) (i : Fin 2) (x : Pf) : (s.setPf i x).spillbase = s.spillbase := by unfold State.setPf; split <;> rfl
@[simp] theorem State.setPf_ccbase (s : State) (i : Fin 2) (x : Pf) : (s.setPf i x).ccbase = s.ccbase := by unfold State.setPf; split <;> rfl
@[simp] theorem State.setPf_ccframes (s : State) (i : Fin 2) (x : Pf) : (s.setPf i x).ccframes = s.ccframes := by unfold State.setPf; split <;> rfl
@[simp] theorem State.setPf_restsz (s : State) (i : Fin 2) (x : Pf) : (s.setPf i x).restsz = s.restsz := by unfold State.setPf; split <;> rfl
@[simp] theorem State.setPf_restbase (s : State) (i : Fin 2) (x : Pf) : (s.setPf i x).restbase = s.restbase := by unfold State.setPf; split <;> rfl
@[simp] theorem State.setPf_peers (s : State) (i : Fin 2) (x : Pf) : (s.setPf i x).peers = s.peers := by unfold State.setPf; split <;> rfl
@[simp] theorem State.setPf_quads (s : State) (i : Fin 2) (x : Pf) : (s.setPf i x).quads = s.quads := by unfold State.setPf; split <;> rfl
@[simp] theorem State.setPf_launches (s : State) (i : Fin 2) (x : Pf) : (s.setPf i x).launches = s.launches := by unfold State.setPf; split <;> rfl
@[simp] theorem State.setPf_clusters (s : State) (i : Fin 2) (x : Pf) : (s.setPf i x).clusters = s.clusters := by unfold State.setPf; split <;> rfl
@[simp] theorem State.setPf_tiles (s : State) (i : Fin 2) (x : Pf) : (s.setPf i x).tiles = s.tiles := by unfold State.setPf; split <;> rfl
@[simp] theorem State.setPf_icache (s : State) (i : Fin 2) (x : Pf) : (s.setPf i x).icache = s.icache := by unfold State.setPf; split <;> rfl
@[simp] theorem State.setPf_tlb (s : State) (i : Fin 2) (x : Pf) : (s.setPf i x).tlb = s.tlb := by unfold State.setPf; split <;> rfl
@[simp] theorem State.setPf_recCache (s : State) (i : Fin 2) (x : Pf) : (s.setPf i x).recCache = s.recCache := by unfold State.setPf; split <;> rfl
@[simp] theorem State.setPf_cmds (s : State) (i : Fin 2) (x : Pf) : (s.setPf i x).cmds = s.cmds := by unfold State.setPf; split <;> rfl
@[simp] theorem State.setPf_late (s : State) (i : Fin 2) (x : Pf) : (s.setPf i x).late = s.late := by unfold State.setPf; split <;> rfl
@[simp] theorem State.setPf_huts (s : State) (i : Fin 2) (x : Pf) : (s.setPf i x).huts = s.huts := by unfold State.setPf; split <;> rfl
@[simp] theorem State.setPf_stackTab (s : State) (i : Fin 2) (x : Pf) : (s.setPf i x).stackTab = s.stackTab := by unfold State.setPf; split <;> rfl
@[simp] theorem State.setPf_fabric (s : State) (i : Fin 2) (x : Pf) : (s.setPf i x).fabric = s.fabric := by unfold State.setPf; split <;> rfl
@[simp] theorem State.setPf_monitors (s : State) (i : Fin 2) (x : Pf) : (s.setPf i x).monitors = s.monitors := by unfold State.setPf; split <;> rfl
@[simp] theorem State.setPf_coh (s : State) (i : Fin 2) (x : Pf) : (s.setPf i x).coh = s.coh := by unfold State.setPf; split <;> rfl
@[simp] theorem State.setPf_walkWait (s : State) (i : Fin 2) (x : Pf) : (s.setPf i x).walkWait = s.walkWait := by unfold State.setPf; split <;> rfl
@[simp] theorem State.setPf_walkFail (s : State) (i : Fin 2) (x : Pf) : (s.setPf i x).walkFail = s.walkFail := by unfold State.setPf; split <;> rfl
@[simp] theorem State.setPf_lineWait (s : State) (i : Fin 2) (x : Pf) : (s.setPf i x).lineWait = s.lineWait := by unfold State.setPf; split <;> rfl
@[simp] theorem State.setPf_peerReqs (s : State) (i : Fin 2) (x : Pf) : (s.setPf i x).peerReqs = s.peerReqs := by unfold State.setPf; split <;> rfl
@[simp] theorem State.setPf_out (s : State) (i : Fin 2) (x : Pf) : (s.setPf i x).out = s.out := by unfold State.setPf; split <;> rfl
@[simp] theorem State.updTeam_cycle (s : State) (r : TeamRef) (h : Team → Team) : (s.updTeam r h).cycle = s.cycle := by unfold State.updTeam; split <;> rfl
@[simp] theorem State.updTeam_refilled (s : State) (r : TeamRef) (h : Team → Team) : (s.updTeam r h).refilled = s.refilled := by unfold State.updTeam; split <;> rfl
@[simp] theorem State.updTeam_agenda (s : State) (r : TeamRef) (h : Team → Team) : (s.updTeam r h).agenda = s.agenda := by unfold State.updTeam; split <;> rfl
@[simp] theorem State.updTeam_tick (s : State) (r : TeamRef) (h : Team → Team) : (s.updTeam r h).tick = s.tick := by unfold State.updTeam; split <;> rfl
@[simp] theorem State.updTeam_cur (s : State) (r : TeamRef) (h : Team → Team) : (s.updTeam r h).cur = s.cur := by unfold State.updTeam; split <;> rfl
@[simp] theorem State.updTeam_curWord (s : State) (r : TeamRef) (h : Team → Team) : (s.updTeam r h).curWord = s.curWord := by unfold State.updTeam; split <;> rfl
@[simp] theorem State.updTeam_nextId (s : State) (r : TeamRef) (h : Team → Team) : (s.updTeam r h).nextId = s.nextId := by unfold State.updTeam; split <;> rfl
@[simp] theorem State.updTeam_boot (s : State) (r : TeamRef) (h : Team → Team) : (s.updTeam r h).boot = s.boot := by unfold State.updTeam; split <;> rfl
@[simp] theorem State.updTeam_mem (s : State) (r : TeamRef) (h : Team → Team) : (s.updTeam r h).mem = s.mem := by unfold State.updTeam; split <;> rfl
@[simp] theorem State.updTeam_badBlocks (s : State) (r : TeamRef) (h : Team → Team) : (s.updTeam r h).badBlocks = s.badBlocks := by unfold State.updTeam; split <;> rfl
@[simp] theorem State.updTeam_pf0 (s : State) (r : TeamRef) (h : Team → Team) : (s.updTeam r h).pf0 = s.pf0 := by unfold State.updTeam; split <;> rfl
@[simp] theorem State.updTeam_pf1 (s : State) (r : TeamRef) (h : Team → Team) : (s.updTeam r h).pf1 = s.pf1 := by unfold State.updTeam; split <;> rfl
@[simp] theorem State.updTeam_vfs (s : State) (r : TeamRef) (h : Team → Team) : (s.updTeam r h).vfs = s.vfs := by unfold State.updTeam; split <;> rfl
@[simp] theorem State.updTeam_ctxs (s : State) (r : TeamRef) (h : Team → Team) : (s.updTeam r h).ctxs = s.ctxs := by unfold State.updTeam; split <;> rfl
@[simp] theorem State.updTeam_parts (s : State) (r : TeamRef) (h : Team → Team) : (s.updTeam r h).parts = s.parts := by unfold State.updTeam; split <;> rfl
@[simp] theorem State.updTeam_gbbase (s : State) (r : TeamRef) (h : Team → Team) : (s.updTeam r h).gbbase = s.gbbase := by unfold State.updTeam; split <;> rfl
@[simp] theorem State.updTeam_spillbase (s : State) (r : TeamRef) (h : Team → Team) : (s.updTeam r h).spillbase = s.spillbase := by unfold State.updTeam; split <;> rfl
@[simp] theorem State.updTeam_ccbase (s : State) (r : TeamRef) (h : Team → Team) : (s.updTeam r h).ccbase = s.ccbase := by unfold State.updTeam; split <;> rfl
@[simp] theorem State.updTeam_ccframes (s : State) (r : TeamRef) (h : Team → Team) : (s.updTeam r h).ccframes = s.ccframes := by unfold State.updTeam; split <;> rfl
@[simp] theorem State.updTeam_restsz (s : State) (r : TeamRef) (h : Team → Team) : (s.updTeam r h).restsz = s.restsz := by unfold State.updTeam; split <;> rfl
@[simp] theorem State.updTeam_restbase (s : State) (r : TeamRef) (h : Team → Team) : (s.updTeam r h).restbase = s.restbase := by unfold State.updTeam; split <;> rfl
@[simp] theorem State.updTeam_peers (s : State) (r : TeamRef) (h : Team → Team) : (s.updTeam r h).peers = s.peers := by unfold State.updTeam; split <;> rfl
@[simp] theorem State.updTeam_quads (s : State) (r : TeamRef) (h : Team → Team) : (s.updTeam r h).quads = s.quads := by unfold State.updTeam; split <;> rfl
@[simp] theorem State.updTeam_launches (s : State) (r : TeamRef) (h : Team → Team) : (s.updTeam r h).launches = s.launches := by unfold State.updTeam; split <;> rfl
@[simp] theorem State.updTeam_tiles (s : State) (r : TeamRef) (h : Team → Team) : (s.updTeam r h).tiles = s.tiles := by unfold State.updTeam; split <;> rfl
@[simp] theorem State.updTeam_icache (s : State) (r : TeamRef) (h : Team → Team) : (s.updTeam r h).icache = s.icache := by unfold State.updTeam; split <;> rfl
@[simp] theorem State.updTeam_tlb (s : State) (r : TeamRef) (h : Team → Team) : (s.updTeam r h).tlb = s.tlb := by unfold State.updTeam; split <;> rfl
@[simp] theorem State.updTeam_recCache (s : State) (r : TeamRef) (h : Team → Team) : (s.updTeam r h).recCache = s.recCache := by unfold State.updTeam; split <;> rfl
@[simp] theorem State.updTeam_cmds (s : State) (r : TeamRef) (h : Team → Team) : (s.updTeam r h).cmds = s.cmds := by unfold State.updTeam; split <;> rfl
@[simp] theorem State.updTeam_late (s : State) (r : TeamRef) (h : Team → Team) : (s.updTeam r h).late = s.late := by unfold State.updTeam; split <;> rfl
@[simp] theorem State.updTeam_huts (s : State) (r : TeamRef) (h : Team → Team) : (s.updTeam r h).huts = s.huts := by unfold State.updTeam; split <;> rfl
@[simp] theorem State.updTeam_stackTab (s : State) (r : TeamRef) (h : Team → Team) : (s.updTeam r h).stackTab = s.stackTab := by unfold State.updTeam; split <;> rfl
@[simp] theorem State.updTeam_fabric (s : State) (r : TeamRef) (h : Team → Team) : (s.updTeam r h).fabric = s.fabric := by unfold State.updTeam; split <;> rfl
@[simp] theorem State.updTeam_monitors (s : State) (r : TeamRef) (h : Team → Team) : (s.updTeam r h).monitors = s.monitors := by unfold State.updTeam; split <;> rfl
@[simp] theorem State.updTeam_coh (s : State) (r : TeamRef) (h : Team → Team) : (s.updTeam r h).coh = s.coh := by unfold State.updTeam; split <;> rfl
@[simp] theorem State.updTeam_walkWait (s : State) (r : TeamRef) (h : Team → Team) : (s.updTeam r h).walkWait = s.walkWait := by unfold State.updTeam; split <;> rfl
@[simp] theorem State.updTeam_walkFail (s : State) (r : TeamRef) (h : Team → Team) : (s.updTeam r h).walkFail = s.walkFail := by unfold State.updTeam; split <;> rfl
@[simp] theorem State.updTeam_lineWait (s : State) (r : TeamRef) (h : Team → Team) : (s.updTeam r h).lineWait = s.lineWait := by unfold State.updTeam; split <;> rfl
@[simp] theorem State.updTeam_peerReqs (s : State) (r : TeamRef) (h : Team → Team) : (s.updTeam r h).peerReqs = s.peerReqs := by unfold State.updTeam; split <;> rfl
@[simp] theorem State.updTeam_out (s : State) (r : TeamRef) (h : Team → Team) : (s.updTeam r h).out = s.out := by unfold State.updTeam; split <;> rfl
@[simp] theorem Team.setGroup_ref (t : Team) (x : Group) : (t.setGroup x).ref = t.ref := rfl
@[simp] theorem Team.setGroup_teamId (t : Team) (x : Group) : (t.setGroup x).teamId = t.teamId := rfl
@[simp] theorem Team.setGroup_core (t : Team) (x : Group) : (t.setGroup x).core = t.core := rfl
@[simp] theorem Team.setGroup_quads (t : Team) (x : Group) : (t.setGroup x).quads = t.quads := rfl
@[simp] theorem Team.setGroup_places (t : Team) (x : Group) : (t.setGroup x).places = t.places := rfl
@[simp] theorem Team.setGroup_seconds (t : Team) (x : Group) : (t.setGroup x).seconds = t.seconds := rfl
@[simp] theorem Team.setGroup_banks (t : Team) (x : Group) : (t.setGroup x).banks = t.banks := rfl
@[simp] theorem Team.setGroup_threads (t : Team) (x : Group) : (t.setGroup x).threads = t.threads := rfl
@[simp] theorem Team.setGroup_stack (t : Team) (x : Group) : (t.setGroup x).stack = t.stack := rfl
@[simp] theorem Team.setGroup_nextEntry (t : Team) (x : Group) : (t.setGroup x).nextEntry = t.nextEntry := rfl
@[simp] theorem Team.setGroup_waiting (t : Team) (x : Group) : (t.setGroup x).waiting = t.waiting := rfl
@[simp] theorem Team.setGroup_reorder (t : Team) (x : Group) : (t.setGroup x).reorder = t.reorder := rfl
@[simp] theorem Team.setGroup_pool (t : Team) (x : Group) : (t.setGroup x).pool = t.pool := rfl
@[simp] theorem Team.setGroup_spawned (t : Team) (x : Group) : (t.setGroup x).spawned = t.spawned := rfl
@[simp] theorem Team.setGroup_spad (t : Team) (x : Group) : (t.setGroup x).spad = t.spad := rfl
@[simp] theorem Team.setGroup_absent (t : Team) (x : Group) : (t.setGroup x).absent = t.absent := rfl
@[simp] theorem Team.setGroup_objs (t : Team) (x : Group) : (t.setGroup x).objs = t.objs := rfl
@[simp] theorem Team.setGroup_arrived (t : Team) (x : Group) : (t.setGroup x).arrived = t.arrived := rfl
@[simp] theorem Team.setGroup_badLines (t : Team) (x : Group) : (t.setGroup x).badLines = t.badLines := rfl
@[simp] theorem Team.setGroup_bsram (t : Team) (x : Group) : (t.setGroup x).bsram = t.bsram := rfl
@[simp] theorem Team.setGroup_badBsram (t : Team) (x : Group) : (t.setGroup x).badBsram = t.badBsram := rfl
@[simp] theorem Team.setGroup_acc (t : Team) (x : Group) : (t.setGroup x).acc = t.acc := rfl
@[simp] theorem Team.setGroup_ports (t : Team) (x : Group) : (t.setGroup x).ports = t.ports := rfl
@[simp] theorem Team.setGroup_seqs (t : Team) (x : Group) : (t.setGroup x).seqs = t.seqs := rfl
@[simp] theorem Team.setGroup_barriers (t : Team) (x : Group) : (t.setGroup x).barriers = t.barriers := rfl
@[simp] theorem Team.setGroup_rings (t : Team) (x : Group) : (t.setGroup x).rings = t.rings := rfl
@[simp] theorem Team.setGroup_ringerr (t : Team) (x : Group) : (t.setGroup x).ringerr = t.ringerr := rfl
@[simp] theorem Team.setGroup_cairnkey (t : Team) (x : Group) : (t.setGroup x).cairnkey = t.cairnkey := rfl
@[simp] theorem Team.setGroup_keyLog (t : Team) (x : Group) : (t.setGroup x).keyLog = t.keyLog := rfl
@[simp] theorem Team.setGroup_pend (t : Team) (x : Group) : (t.setGroup x).pend = t.pend := rfl
@[simp] theorem Team.setGroup_stageLog (t : Team) (x : Group) : (t.setGroup x).stageLog = t.stageLog := rfl
@[simp] theorem Team.setGroup_staged (t : Team) (x : Group) : (t.setGroup x).staged = t.staged := rfl
@[simp] theorem Team.setGroup_haltedAt (t : Team) (x : Group) : (t.setGroup x).haltedAt = t.haltedAt := rfl
@[simp] theorem Team.setGroup_retired (t : Team) (x : Group) : (t.setGroup x).retired = t.retired := rfl
@[simp] theorem Team.setThread_ref (t : Team) (x : Thread) : (t.setThread x).ref = t.ref := rfl
@[simp] theorem Team.setThread_teamId (t : Team) (x : Thread) : (t.setThread x).teamId = t.teamId := rfl
@[simp] theorem Team.setThread_core (t : Team) (x : Thread) : (t.setThread x).core = t.core := rfl
@[simp] theorem Team.setThread_quads (t : Team) (x : Thread) : (t.setThread x).quads = t.quads := rfl
@[simp] theorem Team.setThread_places (t : Team) (x : Thread) : (t.setThread x).places = t.places := rfl
@[simp] theorem Team.setThread_seconds (t : Team) (x : Thread) : (t.setThread x).seconds = t.seconds := rfl
@[simp] theorem Team.setThread_banks (t : Team) (x : Thread) : (t.setThread x).banks = t.banks := rfl
@[simp] theorem Team.setThread_groups (t : Team) (x : Thread) : (t.setThread x).groups = t.groups := rfl
@[simp] theorem Team.setThread_stack (t : Team) (x : Thread) : (t.setThread x).stack = t.stack := rfl
@[simp] theorem Team.setThread_nextEntry (t : Team) (x : Thread) : (t.setThread x).nextEntry = t.nextEntry := rfl
@[simp] theorem Team.setThread_waiting (t : Team) (x : Thread) : (t.setThread x).waiting = t.waiting := rfl
@[simp] theorem Team.setThread_reorder (t : Team) (x : Thread) : (t.setThread x).reorder = t.reorder := rfl
@[simp] theorem Team.setThread_pool (t : Team) (x : Thread) : (t.setThread x).pool = t.pool := rfl
@[simp] theorem Team.setThread_spawned (t : Team) (x : Thread) : (t.setThread x).spawned = t.spawned := rfl
@[simp] theorem Team.setThread_spad (t : Team) (x : Thread) : (t.setThread x).spad = t.spad := rfl
@[simp] theorem Team.setThread_absent (t : Team) (x : Thread) : (t.setThread x).absent = t.absent := rfl
@[simp] theorem Team.setThread_objs (t : Team) (x : Thread) : (t.setThread x).objs = t.objs := rfl
@[simp] theorem Team.setThread_arrived (t : Team) (x : Thread) : (t.setThread x).arrived = t.arrived := rfl
@[simp] theorem Team.setThread_badLines (t : Team) (x : Thread) : (t.setThread x).badLines = t.badLines := rfl
@[simp] theorem Team.setThread_bsram (t : Team) (x : Thread) : (t.setThread x).bsram = t.bsram := rfl
@[simp] theorem Team.setThread_badBsram (t : Team) (x : Thread) : (t.setThread x).badBsram = t.badBsram := rfl
@[simp] theorem Team.setThread_acc (t : Team) (x : Thread) : (t.setThread x).acc = t.acc := rfl
@[simp] theorem Team.setThread_ports (t : Team) (x : Thread) : (t.setThread x).ports = t.ports := rfl
@[simp] theorem Team.setThread_seqs (t : Team) (x : Thread) : (t.setThread x).seqs = t.seqs := rfl
@[simp] theorem Team.setThread_barriers (t : Team) (x : Thread) : (t.setThread x).barriers = t.barriers := rfl
@[simp] theorem Team.setThread_rings (t : Team) (x : Thread) : (t.setThread x).rings = t.rings := rfl
@[simp] theorem Team.setThread_ringerr (t : Team) (x : Thread) : (t.setThread x).ringerr = t.ringerr := rfl
@[simp] theorem Team.setThread_cairnkey (t : Team) (x : Thread) : (t.setThread x).cairnkey = t.cairnkey := rfl
@[simp] theorem Team.setThread_keyLog (t : Team) (x : Thread) : (t.setThread x).keyLog = t.keyLog := rfl
@[simp] theorem Team.setThread_pend (t : Team) (x : Thread) : (t.setThread x).pend = t.pend := rfl
@[simp] theorem Team.setThread_stageLog (t : Team) (x : Thread) : (t.setThread x).stageLog = t.stageLog := rfl
@[simp] theorem Team.setThread_staged (t : Team) (x : Thread) : (t.setThread x).staged = t.staged := rfl
@[simp] theorem Team.setThread_haltedAt (t : Team) (x : Thread) : (t.setThread x).haltedAt = t.haltedAt := rfl
@[simp] theorem Team.setThread_retired (t : Team) (x : Thread) : (t.setThread x).retired = t.retired := rfl
@[simp] theorem Team.delGroup_ref (t : Team) (x : Group) : (t.delGroup x).ref = t.ref := rfl
@[simp] theorem Team.delGroup_teamId (t : Team) (x : Group) : (t.delGroup x).teamId = t.teamId := rfl
@[simp] theorem Team.delGroup_core (t : Team) (x : Group) : (t.delGroup x).core = t.core := rfl
@[simp] theorem Team.delGroup_quads (t : Team) (x : Group) : (t.delGroup x).quads = t.quads := rfl
@[simp] theorem Team.delGroup_places (t : Team) (x : Group) : (t.delGroup x).places = t.places := rfl
@[simp] theorem Team.delGroup_seconds (t : Team) (x : Group) : (t.delGroup x).seconds = t.seconds := rfl
@[simp] theorem Team.delGroup_banks (t : Team) (x : Group) : (t.delGroup x).banks = t.banks := rfl
@[simp] theorem Team.delGroup_threads (t : Team) (x : Group) : (t.delGroup x).threads = t.threads := rfl
@[simp] theorem Team.delGroup_stack (t : Team) (x : Group) : (t.delGroup x).stack = t.stack := rfl
@[simp] theorem Team.delGroup_nextEntry (t : Team) (x : Group) : (t.delGroup x).nextEntry = t.nextEntry := rfl
@[simp] theorem Team.delGroup_waiting (t : Team) (x : Group) : (t.delGroup x).waiting = t.waiting := rfl
@[simp] theorem Team.delGroup_reorder (t : Team) (x : Group) : (t.delGroup x).reorder = t.reorder := rfl
@[simp] theorem Team.delGroup_pool (t : Team) (x : Group) : (t.delGroup x).pool = t.pool := rfl
@[simp] theorem Team.delGroup_spawned (t : Team) (x : Group) : (t.delGroup x).spawned = t.spawned := rfl
@[simp] theorem Team.delGroup_spad (t : Team) (x : Group) : (t.delGroup x).spad = t.spad := rfl
@[simp] theorem Team.delGroup_absent (t : Team) (x : Group) : (t.delGroup x).absent = t.absent := rfl
@[simp] theorem Team.delGroup_objs (t : Team) (x : Group) : (t.delGroup x).objs = t.objs := rfl
@[simp] theorem Team.delGroup_arrived (t : Team) (x : Group) : (t.delGroup x).arrived = t.arrived := rfl
@[simp] theorem Team.delGroup_badLines (t : Team) (x : Group) : (t.delGroup x).badLines = t.badLines := rfl
@[simp] theorem Team.delGroup_bsram (t : Team) (x : Group) : (t.delGroup x).bsram = t.bsram := rfl
@[simp] theorem Team.delGroup_badBsram (t : Team) (x : Group) : (t.delGroup x).badBsram = t.badBsram := rfl
@[simp] theorem Team.delGroup_acc (t : Team) (x : Group) : (t.delGroup x).acc = t.acc := rfl
@[simp] theorem Team.delGroup_ports (t : Team) (x : Group) : (t.delGroup x).ports = t.ports := rfl
@[simp] theorem Team.delGroup_seqs (t : Team) (x : Group) : (t.delGroup x).seqs = t.seqs := rfl
@[simp] theorem Team.delGroup_barriers (t : Team) (x : Group) : (t.delGroup x).barriers = t.barriers := rfl
@[simp] theorem Team.delGroup_rings (t : Team) (x : Group) : (t.delGroup x).rings = t.rings := rfl
@[simp] theorem Team.delGroup_ringerr (t : Team) (x : Group) : (t.delGroup x).ringerr = t.ringerr := rfl
@[simp] theorem Team.delGroup_cairnkey (t : Team) (x : Group) : (t.delGroup x).cairnkey = t.cairnkey := rfl
@[simp] theorem Team.delGroup_keyLog (t : Team) (x : Group) : (t.delGroup x).keyLog = t.keyLog := rfl
@[simp] theorem Team.delGroup_pend (t : Team) (x : Group) : (t.delGroup x).pend = t.pend := rfl
@[simp] theorem Team.delGroup_stageLog (t : Team) (x : Group) : (t.delGroup x).stageLog = t.stageLog := rfl
@[simp] theorem Team.delGroup_staged (t : Team) (x : Group) : (t.delGroup x).staged = t.staged := rfl
@[simp] theorem Team.delGroup_haltedAt (t : Team) (x : Group) : (t.delGroup x).haltedAt = t.haltedAt := rfl
@[simp] theorem Team.delGroup_retired (t : Team) (x : Group) : (t.delGroup x).retired = t.retired := rfl
@[simp] theorem Thread.setV_block (t : Thread) (n : Nat) (x : VReg) : (t.setV n x).block = t.block := rfl
@[simp] theorem Thread.setPred_block (t : Thread) (n : BitVec 3) (x : Bool) : (t.setPred n x).block = t.block := by unfold Thread.setPred; split <;> rfl
@[simp] theorem Thread.raise_block (t : Thread) (x : FFlags) : (t.raise x).block = t.block := rfl
@[simp] theorem Thread.setV_lane (t : Thread) (n : Nat) (x : VReg) : (t.setV n x).lane = t.lane := rfl
@[simp] theorem Thread.setPred_lane (t : Thread) (n : BitVec 3) (x : Bool) : (t.setPred n x).lane = t.lane := by unfold Thread.setPred; split <;> rfl
@[simp] theorem Thread.raise_lane (t : Thread) (x : FFlags) : (t.raise x).lane = t.lane := rfl
@[simp] theorem Thread.setV_u (t : Thread) (n : Nat) (x : VReg) : (t.setV n x).u = t.u := rfl
@[simp] theorem Thread.setPred_u (t : Thread) (n : BitVec 3) (x : Bool) : (t.setPred n x).u = t.u := by unfold Thread.setPred; split <;> rfl
@[simp] theorem Thread.raise_u (t : Thread) (x : FFlags) : (t.raise x).u = t.u := rfl
@[simp] theorem Thread.setV_porter (t : Thread) (n : Nat) (x : VReg) : (t.setV n x).porter = t.porter := rfl
@[simp] theorem Thread.setPred_porter (t : Thread) (n : BitVec 3) (x : Bool) : (t.setPred n x).porter = t.porter := by unfold Thread.setPred; split <;> rfl
@[simp] theorem Thread.raise_porter (t : Thread) (x : FFlags) : (t.raise x).porter = t.porter := rfl
@[simp] theorem Thread.setV_st (t : Thread) (n : Nat) (x : VReg) : (t.setV n x).st = t.st := rfl
@[simp] theorem Thread.setPred_st (t : Thread) (n : BitVec 3) (x : Bool) : (t.setPred n x).st = t.st := by unfold Thread.setPred; split <;> rfl
@[simp] theorem Thread.raise_st (t : Thread) (x : FFlags) : (t.raise x).st = t.st := rfl
@[simp] theorem Thread.setV_pc (t : Thread) (n : Nat) (x : VReg) : (t.setV n x).pc = t.pc := rfl
@[simp] theorem Thread.setPred_pc (t : Thread) (n : BitVec 3) (x : Bool) : (t.setPred n x).pc = t.pc := by unfold Thread.setPred; split <;> rfl
@[simp] theorem Thread.raise_pc (t : Thread) (x : FFlags) : (t.raise x).pc = t.pc := rfl
@[simp] theorem Thread.setPred_v (t : Thread) (n : BitVec 3) (x : Bool) : (t.setPred n x).v = t.v := by unfold Thread.setPred; split <;> rfl
@[simp] theorem Thread.raise_v (t : Thread) (x : FFlags) : (t.raise x).v = t.v := rfl
@[simp] theorem Thread.setV_p (t : Thread) (n : Nat) (x : VReg) : (t.setV n x).p = t.p := rfl
@[simp] theorem Thread.raise_p (t : Thread) (x : FFlags) : (t.raise x).p = t.p := rfl
@[simp] theorem Thread.setV_fstat (t : Thread) (n : Nat) (x : VReg) : (t.setV n x).fstat = t.fstat := rfl
@[simp] theorem Thread.setPred_fstat (t : Thread) (n : BitVec 3) (x : Bool) : (t.setPred n x).fstat = t.fstat := by unfold Thread.setPred; split <;> rfl
@[simp] theorem Thread.setV_tidX (t : Thread) (n : Nat) (x : VReg) : (t.setV n x).tidX = t.tidX := rfl
@[simp] theorem Thread.setPred_tidX (t : Thread) (n : BitVec 3) (x : Bool) : (t.setPred n x).tidX = t.tidX := by unfold Thread.setPred; split <;> rfl
@[simp] theorem Thread.raise_tidX (t : Thread) (x : FFlags) : (t.raise x).tidX = t.tidX := rfl
@[simp] theorem Thread.setV_tidY (t : Thread) (n : Nat) (x : VReg) : (t.setV n x).tidY = t.tidY := rfl
@[simp] theorem Thread.setPred_tidY (t : Thread) (n : BitVec 3) (x : Bool) : (t.setPred n x).tidY = t.tidY := by unfold Thread.setPred; split <;> rfl
@[simp] theorem Thread.raise_tidY (t : Thread) (x : FFlags) : (t.raise x).tidY = t.tidY := rfl
@[simp] theorem Thread.setV_tidZ (t : Thread) (n : Nat) (x : VReg) : (t.setV n x).tidZ = t.tidZ := rfl
@[simp] theorem Thread.setPred_tidZ (t : Thread) (n : BitVec 3) (x : Bool) : (t.setPred n x).tidZ = t.tidZ := by unfold Thread.setPred; split <;> rfl
@[simp] theorem Thread.raise_tidZ (t : Thread) (x : FFlags) : (t.raise x).tidZ = t.tidZ := rfl
@[simp] theorem Thread.setV_entry (t : Thread) (n : Nat) (x : VReg) : (t.setV n x).entry = t.entry := rfl
@[simp] theorem Thread.setPred_entry (t : Thread) (n : BitVec 3) (x : Bool) : (t.setPred n x).entry = t.entry := by unfold Thread.setPred; split <;> rfl
@[simp] theorem Thread.raise_entry (t : Thread) (x : FFlags) : (t.raise x).entry = t.entry := rfl
@[simp] theorem Thread.setV_lbuf (t : Thread) (n : Nat) (x : VReg) : (t.setV n x).lbuf = t.lbuf := rfl
@[simp] theorem Thread.setPred_lbuf (t : Thread) (n : BitVec 3) (x : Bool) : (t.setPred n x).lbuf = t.lbuf := by unfold Thread.setPred; split <;> rfl
@[simp] theorem Thread.raise_lbuf (t : Thread) (x : FFlags) : (t.raise x).lbuf = t.lbuf := rfl
@[simp] theorem Group.setS_place (g : Group) (n : Nat) (x : SReg) : (g.setS n x).place = g.place := by unfold Group.setS; split <;> rfl
@[simp] theorem Group.setB_place (g : Group) (n : Nat) (x : BReg) : (g.setB n x).place = g.place := rfl
@[simp] theorem Group.setH_place (g : Group) (n : Nat) (x : Handle) : (g.setH n x).place = g.place := rfl
@[simp] theorem Group.setS_slot (g : Group) (n : Nat) (x : SReg) : (g.setS n x).slot = g.slot := by unfold Group.setS; split <;> rfl
@[simp] theorem Group.setB_slot (g : Group) (n : Nat) (x : BReg) : (g.setB n x).slot = g.slot := rfl
@[simp] theorem Group.setH_slot (g : Group) (n : Nat) (x : Handle) : (g.setH n x).slot = g.slot := rfl
@[simp] theorem Group.setS_porter (g : Group) (n : Nat) (x : SReg) : (g.setS n x).porter = g.porter := by unfold Group.setS; split <;> rfl
@[simp] theorem Group.setB_porter (g : Group) (n : Nat) (x : BReg) : (g.setB n x).porter = g.porter := rfl
@[simp] theorem Group.setH_porter (g : Group) (n : Nat) (x : Handle) : (g.setH n x).porter = g.porter := rfl
@[simp] theorem Group.setS_remap (g : Group) (n : Nat) (x : SReg) : (g.setS n x).remap = g.remap := by unfold Group.setS; split <;> rfl
@[simp] theorem Group.setB_remap (g : Group) (n : Nat) (x : BReg) : (g.setB n x).remap = g.remap := rfl
@[simp] theorem Group.setH_remap (g : Group) (n : Nat) (x : Handle) : (g.setH n x).remap = g.remap := rfl
@[simp] theorem Group.setB_s (g : Group) (n : Nat) (x : BReg) : (g.setB n x).s = g.s := rfl
@[simp] theorem Group.setH_s (g : Group) (n : Nat) (x : Handle) : (g.setH n x).s = g.s := rfl
@[simp] theorem Group.setS_b (g : Group) (n : Nat) (x : SReg) : (g.setS n x).b = g.b := by unfold Group.setS; split <;> rfl
@[simp] theorem Group.setH_b (g : Group) (n : Nat) (x : Handle) : (g.setH n x).b = g.b := rfl
@[simp] theorem Group.setS_h (g : Group) (n : Nat) (x : SReg) : (g.setS n x).h = g.h := by unfold Group.setS; split <;> rfl
@[simp] theorem Group.setB_h (g : Group) (n : Nat) (x : BReg) : (g.setB n x).h = g.h := rfl
@[simp] theorem Group.setS_lp (g : Group) (n : Nat) (x : SReg) : (g.setS n x).lp = g.lp := by unfold Group.setS; split <;> rfl
@[simp] theorem Group.setB_lp (g : Group) (n : Nat) (x : BReg) : (g.setB n x).lp = g.lp := rfl
@[simp] theorem Group.setH_lp (g : Group) (n : Nat) (x : Handle) : (g.setH n x).lp = g.lp := rfl
@[simp] theorem Group.setS_runLen (g : Group) (n : Nat) (x : SReg) : (g.setS n x).runLen = g.runLen := by unfold Group.setS; split <;> rfl
@[simp] theorem Group.setB_runLen (g : Group) (n : Nat) (x : BReg) : (g.setB n x).runLen = g.runLen := rfl
@[simp] theorem Group.setH_runLen (g : Group) (n : Nat) (x : Handle) : (g.setH n x).runLen = g.runLen := rfl
@[simp] theorem Group.setS_reps (g : Group) (n : Nat) (x : SReg) : (g.setS n x).reps = g.reps := by unfold Group.setS; split <;> rfl
@[simp] theorem Group.setB_reps (g : Group) (n : Nat) (x : BReg) : (g.setB n x).reps = g.reps := rfl
@[simp] theorem Group.setH_reps (g : Group) (n : Nat) (x : Handle) : (g.setH n x).reps = g.reps := rfl
@[simp] theorem Group.setS_parked (g : Group) (n : Nat) (x : SReg) : (g.setS n x).parked = g.parked := by unfold Group.setS; split <;> rfl
@[simp] theorem Group.setB_parked (g : Group) (n : Nat) (x : BReg) : (g.setB n x).parked = g.parked := rfl
@[simp] theorem Group.setH_parked (g : Group) (n : Nat) (x : Handle) : (g.setH n x).parked = g.parked := rfl
@[simp] theorem Group.setS_midRun (g : Group) (n : Nat) (x : SReg) : (g.setS n x).midRun = g.midRun := by unfold Group.setS; split <;> rfl
@[simp] theorem Group.setB_midRun (g : Group) (n : Nat) (x : BReg) : (g.setB n x).midRun = g.midRun := rfl
@[simp] theorem Group.setH_midRun (g : Group) (n : Nat) (x : Handle) : (g.setH n x).midRun = g.midRun := rfl
@[simp] theorem Group.setS_brk (g : Group) (n : Nat) (x : SReg) : (g.setS n x).brk = g.brk := by unfold Group.setS; split <;> rfl
@[simp] theorem Group.setB_brk (g : Group) (n : Nat) (x : BReg) : (g.setB n x).brk = g.brk := rfl
@[simp] theorem Group.setH_brk (g : Group) (n : Nat) (x : Handle) : (g.setH n x).brk = g.brk := rfl
@[simp] theorem Group.setS_trap (g : Group) (n : Nat) (x : SReg) : (g.setS n x).trap = g.trap := by unfold Group.setS; split <;> rfl
@[simp] theorem Group.setB_trap (g : Group) (n : Nat) (x : BReg) : (g.setB n x).trap = g.trap := rfl
@[simp] theorem Group.setH_trap (g : Group) (n : Nat) (x : Handle) : (g.setH n x).trap = g.trap := rfl
@[simp] theorem Group.setS_storeQ (g : Group) (n : Nat) (x : SReg) : (g.setS n x).storeQ = g.storeQ := by unfold Group.setS; split <;> rfl
@[simp] theorem Group.setB_storeQ (g : Group) (n : Nat) (x : BReg) : (g.setB n x).storeQ = g.storeQ := rfl
@[simp] theorem Group.setH_storeQ (g : Group) (n : Nat) (x : Handle) : (g.setH n x).storeQ = g.storeQ := rfl
@[simp] theorem Group.setS_armed (g : Group) (n : Nat) (x : SReg) : (g.setS n x).armed = g.armed := by unfold Group.setS; split <;> rfl
@[simp] theorem Group.setB_armed (g : Group) (n : Nat) (x : BReg) : (g.setB n x).armed = g.armed := rfl
@[simp] theorem Group.setH_armed (g : Group) (n : Nat) (x : Handle) : (g.setH n x).armed = g.armed := rfl
@[simp] theorem Group.setS_bound (g : Group) (n : Nat) (x : SReg) : (g.setS n x).bound = g.bound := by unfold Group.setS; split <;> rfl
@[simp] theorem Group.setB_bound (g : Group) (n : Nat) (x : BReg) : (g.setB n x).bound = g.bound := rfl
@[simp] theorem Group.setH_bound (g : Group) (n : Nat) (x : Handle) : (g.setH n x).bound = g.bound := rfl
@[simp] theorem Group.setS_arrived (g : Group) (n : Nat) (x : SReg) : (g.setS n x).arrived = g.arrived := by unfold Group.setS; split <;> rfl
@[simp] theorem Group.setB_arrived (g : Group) (n : Nat) (x : BReg) : (g.setB n x).arrived = g.arrived := rfl
@[simp] theorem Group.setH_arrived (g : Group) (n : Nat) (x : Handle) : (g.setH n x).arrived = g.arrived := rfl
@[simp] theorem Group.setS_heldAt (g : Group) (n : Nat) (x : SReg) : (g.setS n x).heldAt = g.heldAt := by unfold Group.setS; split <;> rfl
@[simp] theorem Group.setB_heldAt (g : Group) (n : Nat) (x : BReg) : (g.setB n x).heldAt = g.heldAt := rfl
@[simp] theorem Group.setH_heldAt (g : Group) (n : Nat) (x : Handle) : (g.setH n x).heldAt = g.heldAt := rfl
@[simp] theorem Group.setS_valueQueue (g : Group) (n : Nat) (x : SReg) : (g.setS n x).valueQueue = g.valueQueue := by unfold Group.setS; split <;> rfl
@[simp] theorem Group.setB_valueQueue (g : Group) (n : Nat) (x : BReg) : (g.setB n x).valueQueue = g.valueQueue := rfl
@[simp] theorem Group.setH_valueQueue (g : Group) (n : Nat) (x : Handle) : (g.setH n x).valueQueue = g.valueQueue := rfl
@[simp] theorem Group.setS_polSeen (g : Group) (n : Nat) (x : SReg) : (g.setS n x).polSeen = g.polSeen := by unfold Group.setS; split <;> rfl
@[simp] theorem Group.setB_polSeen (g : Group) (n : Nat) (x : BReg) : (g.setB n x).polSeen = g.polSeen := rfl
@[simp] theorem Group.setH_polSeen (g : Group) (n : Nat) (x : Handle) : (g.setH n x).polSeen = g.polSeen := rfl
@[simp] theorem Group.setS_lbCycles (g : Group) (n : Nat) (x : SReg) : (g.setS n x).lbCycles = g.lbCycles := by unfold Group.setS; split <;> rfl
@[simp] theorem Group.setB_lbCycles (g : Group) (n : Nat) (x : BReg) : (g.setB n x).lbCycles = g.lbCycles := rfl
@[simp] theorem Group.setH_lbCycles (g : Group) (n : Nat) (x : Handle) : (g.setH n x).lbCycles = g.lbCycles := rfl
@[simp] theorem Group.setS_lbAt (g : Group) (n : Nat) (x : SReg) : (g.setS n x).lbAt = g.lbAt := by unfold Group.setS; split <;> rfl
@[simp] theorem Group.setB_lbAt (g : Group) (n : Nat) (x : BReg) : (g.setB n x).lbAt = g.lbAt := rfl
@[simp] theorem Group.setH_lbAt (g : Group) (n : Nat) (x : Handle) : (g.setH n x).lbAt = g.lbAt := rfl
@[simp] theorem Group.setS_sOld (g : Group) (n : Nat) (x : SReg) : (g.setS n x).sOld = g.sOld := by unfold Group.setS; split <;> rfl
@[simp] theorem Group.setB_sOld (g : Group) (n : Nat) (x : BReg) : (g.setB n x).sOld = g.sOld := rfl
@[simp] theorem Group.setH_sOld (g : Group) (n : Nat) (x : Handle) : (g.setH n x).sOld = g.sOld := rfl
@[simp] theorem Group.setS_keyFrom (g : Group) (n : Nat) (x : SReg) : (g.setS n x).keyFrom = g.keyFrom := by unfold Group.setS; split <;> rfl
@[simp] theorem Group.setB_keyFrom (g : Group) (n : Nat) (x : BReg) : (g.setB n x).keyFrom = g.keyFrom := rfl
@[simp] theorem Group.setH_keyFrom (g : Group) (n : Nat) (x : Handle) : (g.setH n x).keyFrom = g.keyFrom := rfl
@[simp] theorem Group.setS_wrote (g : Group) (n : Nat) (x : SReg) : (g.setS n x).wrote = g.wrote := by unfold Group.setS; split <;> rfl
@[simp] theorem Group.setB_wrote (g : Group) (n : Nat) (x : BReg) : (g.setB n x).wrote = g.wrote := rfl
@[simp] theorem Group.setH_wrote (g : Group) (n : Nat) (x : Handle) : (g.setH n x).wrote = g.wrote := rfl

end Sys2Proof.Machine
end

