-- ==== Sys2Proof/Laws/Ops.lean ====
section
/-! SUPPORT. Reading back what the shared operations write: tables, functions, contexts, quadrants, teams, groups, threads and registers. -/
namespace Sys2Proof.Machine

/-! ### Tables -/

@[simp] theorem Tab.get_set_same {α : Type} (t : Tab α) (k : Nat) (x d : α) : (t.set k x).get k d = x := by
  induction t with
  | nil => simp [Tab.set, Tab.get]
  | cons e rest ih => obtain ⟨j, y⟩ := e; simp only [Tab.set]; split <;> simp_all [Tab.get]

theorem Tab.get_set_other {α : Type} (t : Tab α) (k j : Nat) (x d : α) (h : j ≠ k) : (t.set k x).get j d = t.get j d := by
  induction t with
  | nil => simp [Tab.set, Tab.get, Ne.symm h]
  | cons e rest ih =>
    obtain ⟨i, y⟩ := e
    simp only [Tab.set]; split
    · subst_vars; simp [Tab.get, Ne.symm h]
    · simp only [Tab.get]; split <;> simp_all

@[simp] theorem State.vf_setVf (s : State) (v : Nat) (x : Vf) : (s.setVf v x).vf v = x := Tab.get_set_same _ _ _ _
theorem State.vf_setVf_other (s : State) (v w : Nat) (x : Vf) (h : w ≠ v) : (s.setVf v x).vf w = s.vf w := Tab.get_set_other _ _ _ _ _ h
@[simp] theorem State.ctx_setCtx (s : State) (v : Nat) (x : Ctx) : (s.setCtx v x).ctx v = x := Tab.get_set_same _ _ _ _
theorem State.ctx_setCtx_other (s : State) (v w : Nat) (x : Ctx) (h : w ≠ v) : (s.setCtx v x).ctx w = s.ctx w := Tab.get_set_other _ _ _ _ _ h
@[simp] theorem State.quad_setQuad (s : State) (v : Nat) (x : Quad) : (s.setQuad v x).quad v = x := Tab.get_set_same _ _ _ _
theorem State.quad_setQuad_other (s : State) (v w : Nat) (x : Quad) (h : w ≠ v) : (s.setQuad v x).quad w = s.quad w := Tab.get_set_other _ _ _ _ _ h
@[simp] theorem State.hut_setHut (s : State) (v : Nat) (x : Hut) : (s.setHut v x).hut v = x := Tab.get_set_same _ _ _ _
theorem State.hut_setHut_other (s : State) (v w : Nat) (x : Hut) (h : w ≠ v) : (s.setHut v x).hut w = s.hut w := Tab.get_set_other _ _ _ _ _ h
@[simp] theorem State.stack_setStack (s : State) (v : Nat) (x : Stack) : (s.setStack v x).stack v = x := Tab.get_set_same _ _ _ _
theorem State.stack_setStack_other (s : State) (v w : Nat) (x : Stack) (h : w ≠ v) : (s.setStack v x).stack w = s.stack w := Tab.get_set_other _ _ _ _ _ h
@[simp] theorem State.pair_setPair (s : State) (v : Nat) (x : Pair) : (s.setPair v x).pair v = x := Tab.get_set_same _ _ _ _
theorem State.pair_setPair_other (s : State) (v w : Nat) (x : Pair) (h : w ≠ v) : (s.setPair v x).pair w = s.pair w := Tab.get_set_other _ _ _ _ _ h
@[simp] theorem State.pf_setPf (s : State) (i : Fin 2) (x : Pf) : (s.setPf i x).pf i = x := by unfold State.setPf State.pf; split <;> simp_all
theorem State.pf_setPf_other (s : State) (i j : Fin 2) (x : Pf) (h : j ≠ i) : (s.setPf i x).pf j = s.pf j := by
  unfold State.setPf State.pf; split <;> split <;> simp_all; omega

/-! ### Teams, groups, threads -/

theorem find_map_replace {α : Type} (l : List α) (p : α → Bool) (x : α) (f : α → α) (hx : p x = true) (hin : ∀ y ∈ l, p y = true → f y = x)
    (hout : ∀ y ∈ l, p y = false → f y = y) (h : (l.find? p).isSome = true) : (l.map f).find? p = some x := by
  induction l with
  | nil => simp at h
  | cons y rest ih =>
    cases hy : p y with
    | true => simp [hin y (by simp) hy, hx]
    | false =>
      simp only [List.map_cons, hout y (by simp) hy, List.find?_cons, hy] at h ⊢
      exact ih (fun z hz => hin z (by simp [hz])) (fun z hz => hout z (by simp [hz])) h

theorem State.ref_of_team {s : State} {r : TeamRef} {t : Team} (h : s.team? r = some t) : t.ref = r := by
  unfold State.team? at h
  split at h
  · have := List.find?_some h; simpa using this
  · cases h

/-- A record set for a resident team is read back. -/
theorem State.team_setTeam {s : State} {r : TeamRef} {t t' : Team} (h : s.team? r = some t) (k : t'.ref = r) : (s.setTeam t').team? r = some t' := by
  subst k
  unfold State.team? State.clusterOf State.cluster? at *
  cases hc : s.clusters.find? (fun c => c.is t'.ref.vf t'.ref.launch t'.ref.cluster) with
  | none => simp [hc] at h
  | some c =>
    simp only [hc] at h
    have hk : (s.setTeam t').clusters.find? (fun c => c.is t'.ref.vf t'.ref.launch t'.ref.cluster) = some (c.setTeam t') := by
      have hmem := List.find?_some hc
      unfold State.setTeam
      simp only [List.find?_map]
      have : (fun c : Cluster => c.is t'.ref.vf t'.ref.launch t'.ref.cluster) ∘
          (fun c : Cluster => if c.is t'.ref.vf t'.ref.launch t'.ref.cluster then c.setTeam t' else c) =
          (fun c : Cluster => c.is t'.ref.vf t'.ref.launch t'.ref.cluster) := by
        funext d; simp only [Function.comp]; split
        · simp [Cluster.setTeam, Cluster.is]
        · rfl
      rw [this, hc]; simp only [Option.map_some]; rw [if_pos hmem]
    rw [hk]
    simp only [Cluster.setTeam]
    refine find_map_replace _ _ _ _ (by simp) ?_ ?_ (by rw [h]; rfl)
    · intro y _ hy; simp only [hy, if_true]
    · intro y _ hy; simp only [hy]; rfl

/-- Another team's record stays. -/
theorem State.team_setTeam_other {s : State} {r : TeamRef} {t' : Team} (h : r ≠ t'.ref) : (s.setTeam t').team? r = s.team? r := by
  unfold State.team? State.clusterOf State.cluster? State.setTeam
  simp only [List.find?_map]
  have : (fun c : Cluster => c.is r.vf r.launch r.cluster) ∘
      (fun c : Cluster => if c.is t'.ref.vf t'.ref.launch t'.ref.cluster then c.setTeam t' else c) = (fun c : Cluster => c.is r.vf r.launch r.cluster) := by
    funext d; simp only [Function.comp]; split <;> rfl
  rw [this]
  cases s.clusters.find? (fun c => c.is r.vf r.launch r.cluster) with
  | none => rfl
  | some c =>
    simp only [Option.map_some]
    split
    · simp only [Cluster.setTeam, List.find?_map]
      have h2 : (fun t : Team => t.ref == r) ∘ (fun x : Team => if x.ref == t'.ref then t' else x) = (fun t : Team => t.ref == r) := by
        funext d; simp only [Function.comp]; split
        · rename_i hd; simp only [beq_iff_eq] at hd; rw [hd]
        · rfl
      rw [h2]
      cases hf : c.teams.find? (fun t => t.ref == r) with
      | none => rfl
      | some d =>
        have hd := List.find?_some hf
        simp only [beq_iff_eq] at hd
        simp only [Option.map_some]; rw [if_neg (by simp [hd, h])]
    · rfl

theorem State.team_updTeam {s : State} {r : TeamRef} {t : Team} {f : Team → Team} (h : s.team? r = some t) (k : (f t).ref = t.ref) :
    (s.updTeam r f).team? r = some (f t) := by
  unfold State.updTeam; rw [h]; exact State.team_setTeam h (k.trans (State.ref_of_team h))

/-- What does not touch the clusters leaves every team. -/
theorem State.team_congr {s s' : State} (r : TeamRef) (h : s'.clusters = s.clusters) : s'.team? r = s.team? r := by
  unfold State.team? State.clusterOf State.cluster?; rw [h]

/-- A group's record set is read back. -/
theorem Team.group_setGroup {t : Team} {slot place : Nat} {g g' : Group} (h : t.group? slot place = some g) (hs : g'.slot = slot) (hp : g'.place = place) :
    (t.setGroup g').group? slot place = some g' := by
  unfold Team.group? Team.setGroup at *
  refine find_map_replace _ _ _ _ (by simp [hs, hp]) ?_ ?_ (by rw [h]; rfl)
  · intro y _ hy; simp only [Bool.and_eq_true, beq_iff_eq] at hy; simp [hy.1, hy.2, hs, hp]
  · intro y _ hy; rw [if_neg]; simp only [hs, hp, hy]; simp

theorem Team.slot_of_group {t : Team} {slot place : Nat} {g : Group} (h : t.group? slot place = some g) : g.slot = slot ∧ g.place = place := by
  have := List.find?_some h; simpa using this

/-! ### Registers -/

theorem Group.sreg_setS_same (g : Group) (n : Nat) (x : SReg) (h : n ≠ 0) (k : n < g.s.length) : (g.setS n x).sreg n = x := by
  unfold Group.setS Group.sreg; simp [h, List.getD_eq_getElem?_getD, k]

theorem Group.sreg_setS_zero (g : Group) (x : SReg) : g.setS 0 x = g := rfl

theorem Group.sreg_setS_other (g : Group) (n m : Nat) (x : SReg) (h : m ≠ n) : (g.setS n x).sreg m = g.sreg m := by
  unfold Group.setS Group.sreg
  split
  · rfl
  · split
    · rfl
    · simp [List.getD_eq_getElem?_getD, List.getElem?_set_ne (Ne.symm h)]

theorem Thread.vreg_setV_same (t : Thread) (n : Nat) (x : VReg) (k : n < t.v.length) : (t.setV n x).vreg n = x := by
  unfold Thread.setV Thread.vreg; simp [List.getD_eq_getElem?_getD, k]

theorem Thread.vreg_setV_other (t : Thread) (n m : Nat) (x : VReg) (h : m ≠ n) : (t.setV n x).vreg m = t.vreg m := by
  unfold Thread.setV Thread.vreg; simp [List.getD_eq_getElem?_getD, List.getElem?_set_ne (Ne.symm h)]

end Sys2Proof.Machine
end

