-- ==== Sys2Proof/Safety.lean ====
section
/-! DEFINITION. What counts as a safe run, and the conditions under which an instruction issues, in the terms the statements use. -/
namespace Sys2Proof.Machine

/-- Every byte store of the module is in its canonical form: device and host memory, and the scratchpads and B-SRAM shares of resident teams. -/
def State.storesWf (s : State) : Bool :=
  s.mem.wf && s.clusters.all (fun c => c.teams.all (fun t => t.spad.wf && t.bsram.all (fun (e : Nat × Memory) => Memory.wf e.2)))

/-- The model's own numbers are in order: a load on its way has a number given out before, and group places are 0 to 15 (R121). -/
def State.numbersWf (s : State) : Bool :=
  s.clusters.all (fun c => c.teams.all (fun t => t.pend.all (fun p => decide (p.id < s.nextId)) && t.groups.all (fun g => decide (g.place < 16)) &&
    t.places.all (fun l => l.all (fun p => decide (p < 16)))))

/-- The step neither faults nor is refused. -/
def State.Goes (s : State) : Prop := ∃ t, step s = .next t

/-- The group that `cur` names issues an instruction: it is legal there (R119), its scope is not trapped (R317), no operand is pending (R231), and under verified execution the load-value queue has room (R369); with
the context in which its own meaning runs. -/
def State.issuing (s : State) (i : Instr) : Option GCtx :=
  match i.form, s.gctx? with
  | some (fm, f), some g =>
    match g.legal fm f with
    | (some _, _) => none
    | (none, f) =>
      match { g with f := f }.checkScope fm with
      | .inl _ => none
      | .inr g =>
        let lanes := if fm.guarded && !readsOthers fm then g.actives else g.lanes
        if (g.team.pendingOps g.grp lanes (operandsOf fm f)).isEmpty && !g.queueFull g.takenValues.length then some g else none
  | _, _ => none

/-- The sequencer that `cur` names issues an instruction: it is legal there. -/
def State.seqIssuing (s : State) (i : Instr) : Option SCtx :=
  match s.gctx? with
  | some _ => none
  | none =>
    match i.form, s.sctx? with
    | some (fm, f), some c =>
      match (match c.seq.repNow with
        | none => (illegal c.issueCtx fm f, f)
        | some r => (lowestIll (repReasons c.issueCtx fm f r (seqRepeatable fm f)), (stepFields r f r.idx).1)) with
      | (some _, _) => none
      | (none, f) => some { c with f := f }
    | _, _ => none

/-- The issuing group as a later state has it. -/
def State.groupOf (t : State) (g : GCtx) : Option Group := (t.team? g.ref).bind (fun x => x.group? g.grp.slot g.grp.place)

/-- A thread of the issuing group's team as a later state has it. -/
def State.threadOf (t : State) (g : GCtx) (block lane : Nat) : Option Thread := (t.team? g.ref).bind (fun x => x.thread? block lane)

/-- The issuing sequencer as a later state has it. -/
def State.seqOf (t : State) (c : SCtx) : Option Seq := (t.team? c.ref).bind (fun x => x.seqs.find? (fun y => y.slot == c.seq.slot))

/-- Two states differ at most in the teams and in the schedulers of quadrants: memory, every function, context and module register, and every other unit is
the same. -/
def State.sameButTeams (s t : State) : Prop := t = { s with clusters := t.clusters, quads := t.quads }

/-- The context names a team that is resident in its state and a group of that team. -/
def GCtx.placed (g : GCtx) : Prop :=
  (g.s.team? g.ref).isSome = true ∧ (g.team.group? g.grp.slot g.grp.place).isSome = true ∧ g.team.slotOf g.quad = g.grp.slot

/-- What a state holds after an instruction of a group that changes its executing threads by `onLane`, which moves their program counters on in sequence unless
the instruction repeats, and its group to `grp'`: nothing else of the team, no other group, no other team, and outside teams and schedulers nothing at all has
changed but the count of refused scopes; of the group, beside `grp'`, its run, repetitions, drain-port binding, what its second takes, and the s-value of before;
of the group's other threads their loop buffers, which another group's run had filled before. -/
structure GCtx.After (g : GCtx) (onLane : Thread → Thread) (grp' : Group) (t : State) : Prop where
  rest : g.base.sameButTeams t
  others : ∀ r, r ≠ g.ref → t.team? r = g.s.team? r
  team : ∃ T, t.team? g.ref = some T ∧ T = { g.team with threads := T.threads, groups := T.groups } ∧
    (∃ G, T.group? g.grp.slot g.grp.place = some G ∧
      G = { grp' with reps := g.repsAfter, runLen := G.runLen, bound := G.bound, lbCycles := G.lbCycles, midRun := G.midRun, lbAt := G.lbAt, sOld := G.sOld,
                      valueQueue := grp'.valueQueue ++ g.takenValues }) ∧
    (∀ slot place, ¬(slot = g.grp.slot ∧ place = g.grp.place) → T.group? slot place = g.team.group? slot place) ∧
    ∀ b l x, g.team.thread? b l = some x → ∃ y, T.thread? b l = some y ∧
      y = (if g.runs x then { onLane x with pc := if g.more.isSome then (onLane x).pc else nextSeq g.pc, lbuf := y.lbuf }
           else { x with lbuf := if g.grp.owns x then y.lbuf else x.lbuf })

/-- What a state holds of the issuing group after an instruction that changes its executing threads by `onLane`, program counters included, and its group to
`grp'`, whatever it does elsewhere: of the group, beside `grp'`, its run, repetitions, drain-port binding, what its second takes, and the s-value of before; of the
group's other threads their loop buffers; of other groups' threads, of other groups and of other teams nothing. -/
structure GCtx.Moves (g : GCtx) (onLane : Thread → Thread) (grp' : Group) (t : State) : Prop where
  others : ∀ r, r ≠ g.ref → t.team? r = g.s.team? r
  group : ∃ G, t.groupOf g = some G ∧ G = { grp' with reps := g.repsAfter, runLen := G.runLen, bound := G.bound, lbCycles := G.lbCycles, midRun := G.midRun, lbAt := G.lbAt,
                                                           sOld := G.sOld, valueQueue := grp'.valueQueue ++ g.takenValues }
  groups : ∃ T, t.team? g.ref = some T ∧ ∀ slot place, ¬(slot = g.grp.slot ∧ place = g.grp.place) → T.group? slot place = g.team.group? slot place
  threads : ∀ b l x, g.team.thread? b l = some x → ∃ y, t.threadOf g b l = some y ∧ y = (if g.runs x then { onLane x with lbuf := y.lbuf }
    else { x with lbuf := if g.grp.owns x then y.lbuf else x.lbuf })

/-- The sequencer's record after an instruction that changed it to `q`: the program counter moves on in sequence unless the instruction repeats. -/
def SCtx.on (c : SCtx) (q : Seq) : Seq := { q with rep := c.more, pfx := none, pc := if c.more.isSome then q.pc else nextSeq c.seq.pc }

/-- What a state holds after an instruction of a sequencer that leaves its record as `q`: nothing else of the team, no other sequencer, no other team, and nothing
outside the teams has changed. -/
structure SCtx.After (c : SCtx) (q : Seq) (t : State) : Prop where
  rest : c.s.sameButTeams t
  others : ∀ r, r ≠ c.ref → t.team? r = c.s.team? r
  team : ∃ T, t.team? c.ref = some T ∧ T = { c.team with seqs := T.seqs } ∧ T.seqs.find? (fun x => x.slot == c.seq.slot) = some q ∧
    ∀ slot, slot ≠ c.seq.slot → T.seqs.find? (fun x => x.slot == slot) = c.team.seqs.find? (fun x => x.slot == slot)

end Sys2Proof.Machine
end

