-- ==== Sys2Proof/Laws/Issue.lean ====
section
/-! SUPPORT. What the issue of a program instruction does, said once: it runs its meaning in the issuing context, and its end changes program counters,
loop buffers, the group's run and the quadrant's scheduler only. -/
namespace Sys2Proof.Machine

/-- The context `cur` names is the resident team's and group's. -/
theorem State.gctx_resident {s : State} {g : GCtx} (h : s.gctx? = some g) : g.s = s ∧ s.team? g.ref = some g.team ∧ g.team.group? g.grp.slot g.grp.place = some g.grp ∧
    g.team.slotOf g.quad = g.grp.slot := by
  unfold State.gctx? at h
  have key : ∀ q r place lb, (match s.team? r with
    | none => none
    | some t => match t.group? (t.slotOf q) place with
      | none => none
      | some x => some ({ s := s, team := t, grp := x, quad := q, lb := lb, scope := 0, refused := false, f := { er := false, pg := { neg := false, p := 7 }, d := .none, a := .none, b := .none, c := .none, mod := 0, imm := 0 } } : GCtx)) = some g →
      g.s = s ∧ s.team? g.ref = some g.team ∧ g.team.group? g.grp.slot g.grp.place = some g.grp ∧ g.team.slotOf g.quad = g.grp.slot := by
    intro q r place lb hh
    cases ht : s.team? r with
    | none => simp [ht] at hh
    | some t =>
      simp only [ht] at hh
      cases hg : t.group? (t.slotOf q) place with
      | none => simp [hg] at hh
      | some x =>
        simp only [hg, Option.some.injEq] at hh
        subst hh
        have hr := State.ref_of_team ht
        have hs := Team.slot_of_group hg
        refine ⟨rfl, ?_, ?_, hs.1.symm⟩
        · simp only [GCtx.ref]; rw [hr, ht]
        · simp only; rw [hs.1, hs.2, hg]
  split at h
  · exact key _ _ _ none h
  · exact key _ _ _ (some _) h
  · cases h

/-- A context is the record of a resident team and group in its own state. -/
def GCtx.resident (g : GCtx) : Prop :=
  g.s.team? g.ref = some g.team ∧ g.team.group? g.grp.slot g.grp.place = some g.grp ∧ g.team.slotOf g.quad = g.grp.slot

/-- The policy in force changes at most the group's note of the policy it has seen. -/
theorem GCtx.policy_resident {g : GCtx} (h : g.resident) : g.policy.2.resident := by
  unfold GCtx.policy State.freeBool
  dsimp only
  split
  · exact h
  · split
    · exact h
    · split
      · exact h
      · refine ⟨?_, ?_, h.2.2⟩
        · exact State.team_setTeam (s := (g.s.freeBool).2) (by exact h.1) rfl
        · exact Team.group_setGroup h.2.1 rfl rfl

theorem GCtx.scope_resident {g g' : GCtx} {fm : Form} (h : g.resident) (k : g.checkScope fm = .inr g') : g'.resident := by
  unfold GCtx.checkScope at k
  simp only at k
  split at k
  · cases k; exact h
  · have hp := GCtx.policy_resident h
    revert k
    generalize g.policy = p at hp
    obtain ⟨⟨d, y, a⟩, g1⟩ := p
    simp only
    intro k
    split at k
    · cases k; exact hp
    · split at k
      · cases k
      · cases k; exact hp

/-- An instruction that issues has a resident group. -/
theorem State.issuing_resident {s : State} {i : Instr} {g : GCtx} (h : s.issuing i = some g) : g.resident := by
  unfold State.issuing at h
  split at h
  · rename_i fm f g0 hf hg
    have r0 := State.gctx_resident hg
    split at h
    · cases h
    · rename_i f' hl
      split at h
      · cases h
      · rename_i g1 hc
        dsimp only at h
        rw [Option.ite_none_right_eq_some] at h
        obtain ⟨-, h⟩ := h
        cases h
        refine GCtx.scope_resident (g := { g0 with f := f' }) ?_ hc
        exact ⟨by simpa [GCtx.ref, r0.1] using r0.2.1, r0.2.2.1, r0.2.2.2⟩
  · cases h

theorem pendingOps_sources {t : Team} {g : Group} {l : List Thread} {fm : Form} {f : Fields} (h : (t.pendingOps g l (operandsOf fm f)).isEmpty = true) :
    t.pendingOps g l (sourcesOf fm f) = [] := by
  unfold Team.pendingOps at *
  simp only [List.isEmpty_iff, List.map_eq_nil_iff, List.filter_eq_nil_iff, List.any_eq_true, not_exists, not_and] at *
  intro op ho x hx o hm
  refine h op ho x hx o ?_
  unfold sourcesOf at hm; unfold operandsOf
  split at hm <;> simp_all

/-- An instruction that issues answers with its meaning in the issuing context. -/
theorem issue_of_issuing {s : State} {i : Instr} {g : GCtx} (h : s.issuing i = some g) (body : GCtx → State) (onSeq : SCtx → State) :
    issue i s body onSeq = .next (body g) := by
  unfold State.issuing at h
  unfold issue
  split at h
  · rename_i fm f g0 hf hg
    try rw [hg]
    simp only [issueGroup, hf]
    split at h
    · cases h
    · rename_i f' hl
      try rw [hl]
      split at h
      · cases h
      · rename_i g1 hc
        simp only [hc] at h ⊢
        rw [Option.ite_none_right_eq_some] at h
        obtain ⟨he, h⟩ := h
        cases h
        rw [Bool.and_eq_true, Bool.not_eq_true'] at he
        rw [pendingOps_sources he.1]; simp only [he.1, he.2, Bool.not_true, Bool.false_eq_true, if_false]
  · cases h

theorem issueG_of_issuing {s : State} {i : Instr} {g : GCtx} (h : s.issuing i = some g) (body : GCtx → State) : issueG i s body = .next (body g) :=
  issue_of_issuing h body _

/-- A sequencer instruction that issues answers with its meaning in the issuing context. -/
theorem issue_of_seqIssuing {s : State} {i : Instr} {c : SCtx} (h : s.seqIssuing i = some c) (body : GCtx → State) (onSeq : SCtx → State) :
    issue i s body onSeq = .next (onSeq c) := by
  unfold State.seqIssuing at h
  unfold issue
  split at h
  · cases h
  · rename_i hg
    try rw [hg]
    split at h
    · rename_i fm f c0 hf hs
      rw [hs]
      simp only [issueSeq, hf]
      cases hr : c0.seq.repNow with
      | none =>
        simp only [hr] at h ⊢
        cases hi : illegal c0.issueCtx fm f with
        | some r => simp [hi] at h
        | none => simp only [hi, Option.some.injEq] at h ⊢; rw [h]
      | some r =>
        simp only [hr] at h ⊢
        cases hi : lowestIll (repReasons c0.issueCtx fm f r (seqRepeatable fm f)) with
        | some r => simp [hi] at h
        | none => simp only [hi, Option.some.injEq] at h ⊢; rw [h]
    · cases h

theorem issueS_of_seqIssuing {s : State} {i : Instr} {c : SCtx} (h : s.seqIssuing i = some c) (onSeq : SCtx → State) : issueS i s onSeq = .next (onSeq c) :=
  issue_of_seqIssuing h _ onSeq

/-! ### The end of an instruction -/

/-- A team after threads have changed keeps its groups. -/
theorem State.sameButTeams_trans {s t u : State} (h : s.sameButTeams t) (k : t.sameButTeams u) : s.sameButTeams u := by
  unfold State.sameButTeams at *; rw [k, h]

theorem State.sameButTeams_setTeam (s : State) (t : Team) : s.sameButTeams (s.setTeam t) := rfl
theorem State.sameButTeams_updTeam (s : State) (r : TeamRef) (f : Team → Team) : s.sameButTeams (s.updTeam r f) := by
  unfold State.sameButTeams State.updTeam; split <;> rfl
theorem State.sameButTeams_diag (s : State) (q v n : Nat) (f : DWord → DWord) : s.sameButTeams (s.diag q v n f) := rfl

/-- The end of a run leaves the team as it was but for the group's run, and the group in place. -/
theorem State.endRun_spec {s : State} {r : TeamRef} {T : Team} {G : Group} {q place : Nat} (h : s.team? r = some T) (hg : T.group? (T.slotOf q) place = some G) :
    s.sameButTeams (s.endRun r q place) ∧ ∃ G', G' = { G with runLen := 0, midRun := false, lbCycles := 0 } ∧
      (s.endRun r q place).team? r = some (T.setGroup G') ∧ (T.setGroup G').group? (T.slotOf q) place = some G' := by
  have hs := Team.slot_of_group hg
  unfold State.endRun; simp only [h, hg]
  refine ⟨rfl, _, rfl, ?_, Team.group_setGroup hg hs.1 hs.2⟩
  rw [State.team_congr (s := s.setTeam (T.setGroup { G with runLen := 0, midRun := false, lbCycles := 0 }))]
  · exact State.team_setTeam (t' := T.setGroup _) h (show T.ref = r from State.ref_of_team h)
  · rfl

theorem Team.group_setGroup_other {t : Team} {g' : Group} {slot place : Nat} (h : ¬(slot = g'.slot ∧ place = g'.place)) :
    (t.setGroup g').group? slot place = t.group? slot place := by
  unfold Team.group? Team.setGroup
  simp only [List.find?_map]
  have : (fun g : Group => g.slot == slot && g.place == place) ∘ (fun x : Group => if x.slot == g'.slot && x.place == g'.place then g' else x) =
      (fun g : Group => g.slot == slot && g.place == place) := by
    funext x; simp only [Function.comp]; split
    · rename_i hx; simp only [Bool.and_eq_true, beq_iff_eq] at hx; rw [hx.1, hx.2]
    · rfl
  rw [this]
  cases hf : t.groups.find? (fun g => g.slot == slot && g.place == place) with
  | none => rfl
  | some x =>
    have := List.find?_some hf
    simp only [Bool.and_eq_true, beq_iff_eq] at this
    simp only [Option.map_some]; rw [if_neg]
    simp only [Bool.and_eq_true, beq_iff_eq, this.1, this.2]; exact h

/-- What the end of an instruction makes of a thread: its registers stay, its program counter moves on where it executed, and its loop buffer changes only if
the group owns it. -/
theorem GCtx.closeThread_spec (g : GCtx) (w : IWord) (own moved : Bool) (x : Thread) :
    g.closeThread w own moved x = (if g.runs x then { x with lbuf := (g.closeThread w own moved x).lbuf, pc := if moved || g.more.isSome then x.pc else nextSeq g.pc }
      else { x with lbuf := if g.grp.owns x then (g.closeThread w own moved x).lbuf else x.lbuf }) := by
  have hc : ∀ (y : Thread) pc w, y.capture pc w = { y with lbuf := (y.capture pc w).lbuf } := by intro y pc w; unfold Thread.capture; split <;> rfl
  have hr : g.refill own x = { x with lbuf := (g.refill own x).lbuf } := by unfold GCtx.refill; split <;> rfl
  have ho : g.grp.owns x = false → g.refill own x = x := by intro h; simp [GCtx.refill, h]
  unfold GCtx.closeThread
  by_cases hx : g.runs x = true
  · simp only [hx, if_true]
    unfold GCtx.endThread
    cases g.lb.isNone <;> cases (moved || g.more.isSome) <;> simp only [if_true, if_false, Bool.false_eq_true]
    · rw [hr]
    · exact hr
    · rw [hc, hr]
    · rw [hc, hr]
  · simp only [hx, if_false, Bool.false_eq_true]
    by_cases h : g.grp.owns x = true
    · rw [if_pos h]; exact hr
    · rw [if_neg h]; exact ho (by simpa using h)

/-- Counting a refused scope changes nothing of the teams and of the schedulers, and does not depend on them. -/
theorem GCtx.withCount_with (g : GCtx) (s : State) (c : List Cluster) (q : Tab Quad) :
    g.withCount { s with clusters := c, quads := q } = { g.withCount s with clusters := c, quads := q } := by unfold GCtx.withCount; split <;> rfl

theorem GCtx.withCount_clusters (g : GCtx) (s : State) : (g.withCount s).clusters = s.clusters := by unfold GCtx.withCount; split <;> rfl
theorem GCtx.withCount_quads (g : GCtx) (s : State) : (g.withCount s).quads = s.quads := by unfold GCtx.withCount; split <;> rfl

theorem GCtx.withCount_same {g : GCtx} {s t : State} (h : s.sameButTeams t) : (g.withCount s).sameButTeams (g.withCount t) := by
  unfold State.sameButTeams at *
  rw [g.withCount_clusters t, g.withCount_quads t, ← g.withCount_with, ← h]

/-- The counters of an issue change no team, and nothing outside the schedulers but the count of a refused scope. -/
theorem GCtx.counted_spec (g : GCtx) (s : State) : (g.withCount s).sameButTeams (g.counted s) ∧ (g.counted s).clusters = s.clusters := by
  have h : ∃ q, g.counted s = g.withCount { s with clusters := s.clusters, quads := q } := by
    unfold GCtx.counted; cases g.lb.isNone <;> exact ⟨_, rfl⟩
  obtain ⟨q, e⟩ := h
  refine ⟨?_, ?_⟩
  · unfold State.sameButTeams; rw [e, g.withCount_with]
  · rw [e, g.withCount_clusters]

/-- The group after an instruction: beside its run, repetitions, drain-port binding, what its second takes and the s-value of before it is as it was. -/
def GCtx.closedGroup (g : GCtx) (G G' : Group) : Prop :=
  G' = { G with reps := if g.lb.isNone then g.repsAfter else G.reps, runLen := G'.runLen, bound := G'.bound, lbCycles := G'.lbCycles, midRun := G'.midRun,
                lbAt := G'.lbAt, sOld := G'.sOld, valueQueue := G.valueQueue ++ g.takenValues }

/-- The threads and the group's run after an instruction, and no other group. -/
theorem GCtx.closed_spec {g : GCtx} {s : State} {T : Team} {G : Group} (moved : Bool) (h : s.team? g.ref = some T) (hg : T.group? g.grp.slot g.grp.place = some G) :
    (g.withCount s).sameButTeams (g.closed s moved) ∧ ∃ T' G', (g.closed s moved).team? g.ref = some T' ∧ T'.group? g.grp.slot g.grp.place = some G' ∧
      T' = { T with threads := T.threads.map (g.closeThread s.curWord (s.ownsBuffers g.quad g.ref g.grp.place) moved), groups := T'.groups } ∧ g.closedGroup G G' ∧
      ∀ slot place, ¬(slot = g.grp.slot ∧ place = g.grp.place) → T'.group? slot place = T.group? slot place := by
  have hs := Team.slot_of_group hg
  obtain ⟨hc, hcl⟩ := g.counted_spec s
  unfold GCtx.closed
  dsimp only
  generalize g.closeThread s.curWord (s.ownsBuffers g.quad g.ref g.grp.place) moved = f
  have h1 : ((g.counted s).updTeam g.ref (fun t => { t with threads := t.threads.map f })).team? g.ref = some { T with threads := T.threads.map f } :=
    State.team_updTeam (t := T) (by rw [State.team_congr (s := s)]; exact h; exact hcl) rfl
  have hsame := State.sameButTeams_trans hc (State.sameButTeams_updTeam _ g.ref (fun t => { t with threads := t.threads.map f }))
  generalize (g.counted s).updTeam g.ref (fun t => { t with threads := t.threads.map f }) = s1 at h1 hsame
  have hg1 : Team.group? { T with threads := T.threads.map f } g.grp.slot g.grp.place = some G := hg
  have key : ∀ w : Group → Group, (w G).slot = G.slot → (w G).place = G.place → g.closedGroup G (w G) →
      (g.withCount s).sameButTeams (g.updGroup s1 w) ∧ ∃ T' G', (g.updGroup s1 w).team? g.ref = some T' ∧ T'.group? g.grp.slot g.grp.place = some G' ∧
        T' = { T with threads := T.threads.map f, groups := T'.groups } ∧ g.closedGroup G G' ∧
        ∀ slot place, ¬(slot = g.grp.slot ∧ place = g.grp.place) → T'.group? slot place = T.group? slot place := by
    intro w ws wp wc
    refine ⟨State.sameButTeams_trans hsame (State.sameButTeams_updTeam _ _ _), Team.setGroup { T with threads := T.threads.map f } (w G), w G, ?_,
      Team.group_setGroup hg1 (ws.trans hs.1) (wp.trans hs.2), rfl, wc, ?_⟩
    · unfold GCtx.updGroup
      refine (State.team_updTeam h1 ?_).trans ?_
      · simp only [hg1]; rfl
      · simp only [hg1]
    · intro slot place hne
      exact Team.group_setGroup_other (by rw [ws, wp, hs.1, hs.2]; exact hne)
  cases hl : g.lb.isNone
  · exact key (g.endLane g.team) rfl rfl (by unfold GCtx.closedGroup GCtx.endLane; simp only [hl, Bool.false_eq_true, if_false])
  · exact key g.endGroup rfl rfl (by unfold GCtx.closedGroup GCtx.endGroup; simp only [hl, if_true])

/-- Threads looked up after a change that keeps their positions. -/
theorem thread_map {t : Team} {l : List Thread} (f : Thread → Thread) (hf : ∀ x, (f x).block = x.block ∧ (f x).lane = x.lane) (b n : Nat)
    (h : t.threads = l.map f) : t.thread? b n = (l.find? (fun x => x.block == b && x.lane == n)).map f := by
  unfold Team.thread?; rw [h, List.find?_map]
  have : (fun x : Thread => x.block == b && x.lane == n) ∘ f = (fun x : Thread => x.block == b && x.lane == n) := by
    funext x; simp only [Function.comp, (hf x).1, (hf x).2]
  rw [this]

theorem State.setTeam_others {s : State} {t' : Team} (r : TeamRef) (h : r ≠ t'.ref) : (s.setTeam t').team? r = s.team? r := State.team_setTeam_other h
theorem State.updTeam_others {s : State} {r r' : TeamRef} {f : Team → Team} (hf : ∀ t, (f t).ref = t.ref) (h : r' ≠ r) : (s.updTeam r f).team? r' = s.team? r' := by
  unfold State.updTeam
  split
  · rename_i t ht; exact State.team_setTeam_other (by rw [hf, State.ref_of_team ht]; exact h)
  · rfl

/-- The end of a run touches no other team and no other group. -/
theorem State.endRun_others {s : State} {r r' : TeamRef} {q place : Nat} (h : r' ≠ r) : (s.endRun r q place).team? r' = s.team? r' := by
  unfold State.endRun
  split
  · rfl
  · rename_i t ht
    split
    · rfl
    · rename_i g hg
      rw [State.team_congr (s := s.setTeam (t.setGroup { g with runLen := 0, midRun := false, lbCycles := 0 }))]
      · exact State.team_setTeam_other (t' := t.setGroup _) (by intro e; exact h (e.trans (show t.ref = r from State.ref_of_team ht)))
      · rfl

theorem GCtx.updGroup_ref (g : GCtx) (h : Group → Group) (t : Team) : (match t.group? g.grp.slot g.grp.place with | some x => t.setGroup (h x) | none => t).ref = t.ref := by
  split <;> rfl

theorem GCtx.closed_others {g : GCtx} {s : State} {moved : Bool} {r : TeamRef} (h : r ≠ g.ref) : (g.closed s moved).team? r = s.team? r := by
  have h1 : ∀ f : Thread → Thread, ((g.counted s).updTeam g.ref (fun t => { t with threads := t.threads.map f })).team? r = s.team? r := by
    intro f
    rw [State.updTeam_others (f := fun t => { t with threads := t.threads.map f }) (fun _ => rfl) h]
    exact State.team_congr _ (g.counted_spec s).2
  unfold GCtx.closed
  dsimp only
  split <;>
  · unfold GCtx.updGroup
    exact (State.updTeam_others (fun t => GCtx.updGroup_ref g _ t) h).trans (h1 _)

theorem GCtx.finish_others {g : GCtx} {s : State} {moved : Bool} {r : TeamRef} (h : r ≠ g.ref) (k : lastSlot g.pc = false) :
    (g.finish s moved).team? r = s.team? r := by
  unfold GCtx.finish
  simp only [k, Bool.and_false, Bool.false_eq_true, if_false]
  split
  · exact GCtx.closed_others h
  · split
    · exact GCtx.closed_others h
    · split
      · rw [State.endRun_others h]; exact GCtx.closed_others h
      · exact GCtx.closed_others h

/-- The end of an instruction: the team, its other groups, the group's own record, and nothing outside teams and schedulers but the count of a refused scope. -/
theorem GCtx.finish_spec {g : GCtx} {s : State} {T : Team} {G : Group} (moved : Bool) (h : s.team? g.ref = some T)
    (hg : T.group? g.grp.slot g.grp.place = some G) (hq : T.slotOf g.quad = g.grp.slot) (k : lastSlot g.pc = false) :
    (g.withCount s).sameButTeams (g.finish s moved) ∧ ∃ T' G', (g.finish s moved).team? g.ref = some T' ∧ T'.group? g.grp.slot g.grp.place = some G' ∧
      T' = { T with threads := T.threads.map (g.closeThread s.curWord (s.ownsBuffers g.quad g.ref g.grp.place) moved), groups := T'.groups } ∧ g.closedGroup G G' ∧
      ∀ slot place, ¬(slot = g.grp.slot ∧ place = g.grp.place) → T'.group? slot place = T.group? slot place := by
  obtain ⟨hsame, T2, G2, hT2, hG2, eT, eG, eO⟩ := GCtx.closed_spec moved h hg
  unfold GCtx.finish
  simp only [k, Bool.and_false, Bool.false_eq_true, if_false, hT2, hG2]
  have hq2 : T2.slotOf g.quad = g.grp.slot := by rw [eT]; exact hq
  have hs2 := Team.slot_of_group hG2
  split
  · have hG2' := hG2
    rw [← hq2] at hG2'
    obtain ⟨e1, G3, e2, e3, e4⟩ := State.endRun_spec hT2 hG2'
    refine ⟨State.sameButTeams_trans hsame e1, T2.setGroup G3, G3, e3, by rw [← hq2]; exact e4, ?_, ?_, ?_⟩
    · rw [eT]; rfl
    · unfold GCtx.closedGroup at *; rw [e2, eG]
    · intro slot place hne
      rw [Team.group_setGroup_other, eO slot place hne]
      rw [e2]; simp only [hs2.1, hs2.2]; exact hne
  · exact ⟨hsame, T2, G2, hT2, hG2, eT, eG, eO⟩

/-- An instruction that changes its executing threads and its group only, and is over. -/
theorem GCtx.done_after {g : GCtx} (r : g.placed) (k : lastSlot g.pc = false) {onLane : Thread → Thread} {onGroup : Group → Group}
    (hl : ∀ x, (onLane x).block = x.block ∧ (onLane x).lane = x.lane ∧ (onLane x).st = x.st)
    (hs : (onGroup g.grp).slot = g.grp.slot) (hp : (onGroup g.grp).place = g.grp.place) (hr : (onGroup g.grp).reps = g.grp.reps) :
    g.After onLane (onGroup g.grp) (g.done onLane onGroup) := by
  obtain ⟨T0, hT0⟩ := Option.isSome_iff_exists.mp r.1
  obtain ⟨G0, hG0⟩ := Option.isSome_iff_exists.mp r.2.1
  have hT : (g.s.setTeam ((g.mapLanes onLane).setGroup (onGroup g.grp))).team? g.ref = some ((g.mapLanes onLane).setGroup (onGroup g.grp)) :=
    State.team_setTeam hT0 (show g.team.ref = g.ref from rfl)
  have hG : ((g.mapLanes onLane).setGroup (onGroup g.grp)).group? g.grp.slot g.grp.place = some (onGroup g.grp) :=
    Team.group_setGroup (t := g.mapLanes onLane) hG0 hs hp
  obtain ⟨hsame, T', G', e1, e2, e3, e4, e5⟩ := GCtx.finish_spec (g := g) false hT hG r.2.2 k
  refine ⟨State.sameButTeams_trans (GCtx.withCount_same (State.sameButTeams_setTeam _ _)) hsame, ?_, T', e1, ?_, ⟨G', e2, ?_⟩, ?_, ?_⟩
  · intro r' hr'
    unfold GCtx.done
    rw [GCtx.finish_others hr' k]; exact State.team_setTeam_other (t' := (g.mapLanes onLane).setGroup (onGroup g.grp)) hr'
  · rw [e3]; rfl
  · refine Eq.trans (show G' = _ from e4) ?_
    cases hb : g.lb.isNone
    · simp only [GCtx.repsAfter, hb, hr, Bool.false_eq_true, if_false]
    · simp only [if_true]
  · intro slot place hne
    rw [e5 slot place hne]
    exact Team.group_setGroup_other (by rw [hs, hp]; exact hne)
  · intro b l x hx
    generalize hown : State.ownsBuffers (g.s.setTeam ((g.mapLanes onLane).setGroup (onGroup g.grp))) g.quad g.ref g.grp.place = own at e3
    have hth : T'.threads = g.team.threads.map (fun x => g.closeThread g.s.curWord own false (if g.runs x then onLane x else x)) := by
      rw [e3]
      simp only [GCtx.mapLanes, Team.setGroup, List.map_map]
      rfl
    have key := thread_map (fun x => g.closeThread g.s.curWord own false (if g.runs x then onLane x else x)) (by
      intro x
      rw [GCtx.closeThread_spec]
      split <;> split <;> first | exact ⟨(hl x).1, (hl x).2.1⟩ | exact ⟨rfl, rfl⟩) b l hth
    have hx' := hx
    unfold Team.thread? at hx'
    rw [hx'] at key
    refine ⟨_, key, ?_⟩
    have howns : g.grp.owns (onLane x) = g.grp.owns x := by unfold Group.owns; rw [(hl x).1, (hl x).2.1]
    have hruns : g.runs (onLane x) = g.runs x := by
      unfold GCtx.runs; rw [howns]
      first | rw [(hl x).1, (hl x).2.1, (hl x).2.2] | rw [(hl x).2.1, (hl x).2.2]
    by_cases hrx : g.runs x = true
    · simp only [hrx, if_true]
      refine (GCtx.closeThread_spec g g.s.curWord own false (onLane x)).trans ?_
      rw [hruns, hrx]; simp only [if_true, Bool.false_or]
    · simp only [hrx, if_false, Bool.false_eq_true]
      refine (GCtx.closeThread_spec g g.s.curWord own false x).trans ?_
      simp only [hrx, if_false, Bool.false_eq_true]

theorem GCtx.resident_placed {g : GCtx} (h : g.resident) : g.placed := by
  refine ⟨?_, ?_, h.2.2⟩
  · rw [h.1]; rfl
  · rw [h.2.1]; rfl

theorem State.issuing_placed {s : State} {i : Instr} {g : GCtx} (h : s.issuing i = some g) : g.placed := GCtx.resident_placed (State.issuing_resident h)

end Sys2Proof.Machine
end

