-- ==== Sys2Proof/Laws/PerInstr.lean ====
section
/-! SUPPORT. Per instruction: its class and opcode stand in the opcode map, and the opcode fits its ten bits (R110, R117). -/
namespace Sys2Proof.Laws

/-- An instruction with a 96-bit word has an opcode of ten bits, and the map of its class lists it. -/
def Opcode.Statement (i : Instr) : Prop := ∀ x, i.form = some x → x.1.op < 1024 ∧ (lookupOp (opMap x.1.cls) x.1.op).isSome = true

/-- What has no 96-bit word meets the statement. -/
theorem opcode_of_no_form {i : Instr} (h : i.form = none) : Opcode.Statement i := fun _ hx => absurd (h.symm.trans hx) (by simp)

theorem Opcode.vadd (f : Fields) : Opcode.Statement (.vadd f) := fun _ h => by cases h; exact (by decide : 0 < 1024 ∧ (lookupOp (opMap .vec) 0).isSome = true)
theorem Opcode.vsub (f : Fields) : Opcode.Statement (.vsub f) := fun _ h => by cases h; exact (by decide : 1 < 1024 ∧ (lookupOp (opMap .vec) 1).isSome = true)
theorem Opcode.vmul (f : Fields) : Opcode.Statement (.vmul f) := fun _ h => by cases h; exact (by decide : 2 < 1024 ∧ (lookupOp (opMap .vec) 2).isSome = true)
theorem Opcode.vmulhi (f : Fields) : Opcode.Statement (.vmulhi f) := fun _ h => by cases h; exact (by decide : 3 < 1024 ∧ (lookupOp (opMap .vec) 3).isSome = true)
theorem Opcode.vmad (f : Fields) : Opcode.Statement (.vmad f) := fun _ h => by cases h; exact (by decide : 4 < 1024 ∧ (lookupOp (opMap .vec) 4).isSome = true)
theorem Opcode.vfma (f : Fields) : Opcode.Statement (.vfma f) := fun _ h => by cases h; exact (by decide : 5 < 1024 ∧ (lookupOp (opMap .vec) 5).isSome = true)
theorem Opcode.vfms (f : Fields) : Opcode.Statement (.vfms f) := fun _ h => by cases h; exact (by decide : 6 < 1024 ∧ (lookupOp (opMap .vec) 6).isSome = true)
theorem Opcode.vfnma (f : Fields) : Opcode.Statement (.vfnma f) := fun _ h => by cases h; exact (by decide : 7 < 1024 ∧ (lookupOp (opMap .vec) 7).isSome = true)
theorem Opcode.vdiv (f : Fields) : Opcode.Statement (.vdiv f) := fun _ h => by cases h; exact (by decide : 8 < 1024 ∧ (lookupOp (opMap .vec) 8).isSome = true)
theorem Opcode.vrem (f : Fields) : Opcode.Statement (.vrem f) := fun _ h => by cases h; exact (by decide : 9 < 1024 ∧ (lookupOp (opMap .vec) 9).isSome = true)
theorem Opcode.vmin (f : Fields) : Opcode.Statement (.vmin f) := fun _ h => by cases h; exact (by decide : 10 < 1024 ∧ (lookupOp (opMap .vec) 10).isSome = true)
theorem Opcode.vmax (f : Fields) : Opcode.Statement (.vmax f) := fun _ h => by cases h; exact (by decide : 11 < 1024 ∧ (lookupOp (opMap .vec) 11).isSome = true)
theorem Opcode.vabs (f : Fields) : Opcode.Statement (.vabs f) := fun _ h => by cases h; exact (by decide : 12 < 1024 ∧ (lookupOp (opMap .vec) 12).isSome = true)
theorem Opcode.vneg (f : Fields) : Opcode.Statement (.vneg f) := fun _ h => by cases h; exact (by decide : 13 < 1024 ∧ (lookupOp (opMap .vec) 13).isSome = true)
theorem Opcode.vclamp (f : Fields) : Opcode.Statement (.vclamp f) := fun _ h => by cases h; exact (by decide : 14 < 1024 ∧ (lookupOp (opMap .vec) 14).isSome = true)
theorem Opcode.vavg (f : Fields) : Opcode.Statement (.vavg f) := fun _ h => by cases h; exact (by decide : 15 < 1024 ∧ (lookupOp (opMap .vec) 15).isSome = true)
theorem Opcode.vsad (f : Fields) : Opcode.Statement (.vsad f) := fun _ h => by cases h; exact (by decide : 16 < 1024 ∧ (lookupOp (opMap .vec) 16).isSome = true)
theorem Opcode.vdot4 (f : Fields) : Opcode.Statement (.vdot4 f) := fun _ h => by cases h; exact (by decide : 17 < 1024 ∧ (lookupOp (opMap .vec) 17).isSome = true)
theorem Opcode.vdot2 (f : Fields) : Opcode.Statement (.vdot2 f) := fun _ h => by cases h; exact (by decide : 18 < 1024 ∧ (lookupOp (opMap .vec) 18).isSome = true)
theorem Opcode.vsetp (f : Fields) : Opcode.Statement (.vsetp f) := fun _ h => by cases h; exact (by decide : 19 < 1024 ∧ (lookupOp (opMap .vec) 19).isSome = true)
theorem Opcode.vsel (f : Fields) : Opcode.Statement (.vsel f) := fun _ h => by cases h; exact (by decide : 20 < 1024 ∧ (lookupOp (opMap .vec) 20).isSome = true)
theorem Opcode.vmov (f : Fields) : Opcode.Statement (.vmov f) := fun _ h => by cases h; exact (by decide : 21 < 1024 ∧ (lookupOp (opMap .vec) 21).isSome = true)
theorem Opcode.vand (f : Fields) : Opcode.Statement (.vand f) := fun _ h => by cases h; exact (by decide : 22 < 1024 ∧ (lookupOp (opMap .vec) 22).isSome = true)
theorem Opcode.vor (f : Fields) : Opcode.Statement (.vor f) := fun _ h => by cases h; exact (by decide : 23 < 1024 ∧ (lookupOp (opMap .vec) 23).isSome = true)
theorem Opcode.vxor (f : Fields) : Opcode.Statement (.vxor f) := fun _ h => by cases h; exact (by decide : 24 < 1024 ∧ (lookupOp (opMap .vec) 24).isSome = true)
theorem Opcode.vnot (f : Fields) : Opcode.Statement (.vnot f) := fun _ h => by cases h; exact (by decide : 25 < 1024 ∧ (lookupOp (opMap .vec) 25).isSome = true)
theorem Opcode.vlut3 (f : Fields) : Opcode.Statement (.vlut3 f) := fun _ h => by cases h; exact (by decide : 26 < 1024 ∧ (lookupOp (opMap .vec) 26).isSome = true)
theorem Opcode.vshl (f : Fields) : Opcode.Statement (.vshl f) := fun _ h => by cases h; exact (by decide : 27 < 1024 ∧ (lookupOp (opMap .vec) 27).isSome = true)
theorem Opcode.vshr (f : Fields) : Opcode.Statement (.vshr f) := fun _ h => by cases h; exact (by decide : 28 < 1024 ∧ (lookupOp (opMap .vec) 28).isSome = true)
theorem Opcode.vsra (f : Fields) : Opcode.Statement (.vsra f) := fun _ h => by cases h; exact (by decide : 29 < 1024 ∧ (lookupOp (opMap .vec) 29).isSome = true)
theorem Opcode.vrotl (f : Fields) : Opcode.Statement (.vrotl f) := fun _ h => by cases h; exact (by decide : 30 < 1024 ∧ (lookupOp (opMap .vec) 30).isSome = true)
theorem Opcode.vfsh (f : Fields) : Opcode.Statement (.vfsh f) := fun _ h => by cases h; exact (by decide : 31 < 1024 ∧ (lookupOp (opMap .vec) 31).isSome = true)
theorem Opcode.vpopc (f : Fields) : Opcode.Statement (.vpopc f) := fun _ h => by cases h; exact (by decide : 32 < 1024 ∧ (lookupOp (opMap .vec) 32).isSome = true)
theorem Opcode.vclz (f : Fields) : Opcode.Statement (.vclz f) := fun _ h => by cases h; exact (by decide : 33 < 1024 ∧ (lookupOp (opMap .vec) 33).isSome = true)
theorem Opcode.vbrev (f : Fields) : Opcode.Statement (.vbrev f) := fun _ h => by cases h; exact (by decide : 34 < 1024 ∧ (lookupOp (opMap .vec) 34).isSome = true)
theorem Opcode.vbfe (f : Fields) : Opcode.Statement (.vbfe f) := fun _ h => by cases h; exact (by decide : 35 < 1024 ∧ (lookupOp (opMap .vec) 35).isSome = true)
theorem Opcode.vbfi (f : Fields) : Opcode.Statement (.vbfi f) := fun _ h => by cases h; exact (by decide : 36 < 1024 ∧ (lookupOp (opMap .vec) 36).isSome = true)
theorem Opcode.vbytesel (f : Fields) : Opcode.Statement (.vbytesel f) := fun _ h => by cases h; exact (by decide : 37 < 1024 ∧ (lookupOp (opMap .vec) 37).isSome = true)
theorem Opcode.vrcp (f : Fields) : Opcode.Statement (.vrcp f) := fun _ h => by cases h; exact (by decide : 64 < 1024 ∧ (lookupOp (opMap .vec) 64).isSome = true)
theorem Opcode.vrsqrt (f : Fields) : Opcode.Statement (.vrsqrt f) := fun _ h => by cases h; exact (by decide : 65 < 1024 ∧ (lookupOp (opMap .vec) 65).isSome = true)
theorem Opcode.vsqrt (f : Fields) : Opcode.Statement (.vsqrt f) := fun _ h => by cases h; exact (by decide : 66 < 1024 ∧ (lookupOp (opMap .vec) 66).isSome = true)
theorem Opcode.vexp2 (f : Fields) : Opcode.Statement (.vexp2 f) := fun _ h => by cases h; exact (by decide : 67 < 1024 ∧ (lookupOp (opMap .vec) 67).isSome = true)
theorem Opcode.vlog2 (f : Fields) : Opcode.Statement (.vlog2 f) := fun _ h => by cases h; exact (by decide : 68 < 1024 ∧ (lookupOp (opMap .vec) 68).isSome = true)
theorem Opcode.vsin (f : Fields) : Opcode.Statement (.vsin f) := fun _ h => by cases h; exact (by decide : 69 < 1024 ∧ (lookupOp (opMap .vec) 69).isSome = true)
theorem Opcode.vcos (f : Fields) : Opcode.Statement (.vcos f) := fun _ h => by cases h; exact (by decide : 70 < 1024 ∧ (lookupOp (opMap .vec) 70).isSome = true)
theorem Opcode.vtanh (f : Fields) : Opcode.Statement (.vtanh f) := fun _ h => by cases h; exact (by decide : 71 < 1024 ∧ (lookupOp (opMap .vec) 71).isSome = true)
theorem Opcode.vrint (f : Fields) : Opcode.Statement (.vrint f) := fun _ h => by cases h; exact (by decide : 72 < 1024 ∧ (lookupOp (opMap .vec) 72).isSome = true)
theorem Opcode.vfrac (f : Fields) : Opcode.Statement (.vfrac f) := fun _ h => by cases h; exact (by decide : 73 < 1024 ∧ (lookupOp (opMap .vec) 73).isSome = true)
theorem Opcode.vldexp (f : Fields) : Opcode.Statement (.vldexp f) := fun _ h => by cases h; exact (by decide : 74 < 1024 ∧ (lookupOp (opMap .vec) 74).isSome = true)
theorem Opcode.vgetexp (f : Fields) : Opcode.Statement (.vgetexp f) := fun _ h => by cases h; exact (by decide : 75 < 1024 ∧ (lookupOp (opMap .vec) 75).isSome = true)
theorem Opcode.vclass (f : Fields) : Opcode.Statement (.vclass f) := fun _ h => by cases h; exact (by decide : 76 < 1024 ∧ (lookupOp (opMap .vec) 76).isSome = true)
theorem Opcode.vcpsgn (f : Fields) : Opcode.Statement (.vcpsgn f) := fun _ h => by cases h; exact (by decide : 77 < 1024 ∧ (lookupOp (opMap .vec) 77).isSome = true)
theorem Opcode.vcvt (f : Fields) : Opcode.Statement (.vcvt f) := fun _ h => by cases h; exact (by decide : 128 < 1024 ∧ (lookupOp (opMap .vec) 128).isSome = true)
theorem Opcode.vcvtp (f : Fields) : Opcode.Statement (.vcvtp f) := fun _ h => by cases h; exact (by decide : 129 < 1024 ∧ (lookupOp (opMap .vec) 129).isSome = true)
theorem Opcode.vqn8 (f : Fields) : Opcode.Statement (.vqn8 f) := fun _ h => by cases h; exact (by decide : 130 < 1024 ∧ (lookupOp (opMap .vec) 130).isSome = true)
theorem Opcode.vqn4 (f : Fields) : Opcode.Statement (.vqn4 f) := fun _ h => by cases h; exact (by decide : 131 < 1024 ∧ (lookupOp (opMap .vec) 131).isSome = true)
theorem Opcode.vbpack (f : Fields) : Opcode.Statement (.vbpack f) := fun _ h => by cases h; exact (by decide : 132 < 1024 ∧ (lookupOp (opMap .vec) 132).isSome = true)
theorem Opcode.vbunpack (f : Fields) : Opcode.Statement (.vbunpack f) := fun _ h => by cases h; exact (by decide : 133 < 1024 ∧ (lookupOp (opMap .vec) 133).isSome = true)
theorem Opcode.vbscale (f : Fields) : Opcode.Statement (.vbscale f) := fun _ h => by cases h; exact (by decide : 134 < 1024 ∧ (lookupOp (opMap .vec) 134).isSome = true)
theorem Opcode.vbfmt (f : Fields) : Opcode.Statement (.vbfmt f) := fun _ h => by cases h; exact (by decide : 135 < 1024 ∧ (lookupOp (opMap .vec) 135).isSome = true)
theorem Opcode.vbzero (f : Fields) : Opcode.Statement (.vbzero f) := fun _ h => by cases h; exact (by decide : 136 < 1024 ∧ (lookupOp (opMap .vec) 136).isSome = true)
theorem Opcode.vcairn (f : Fields) : Opcode.Statement (.vcairn f) := fun _ h => by cases h; exact (by decide : 137 < 1024 ∧ (lookupOp (opMap .vec) 137).isSome = true)
theorem Opcode.vshfl (f : Fields) : Opcode.Statement (.vshfl f) := fun _ h => by cases h; exact (by decide : 192 < 1024 ∧ (lookupOp (opMap .vec) 192).isSome = true)
theorem Opcode.vshfup (f : Fields) : Opcode.Statement (.vshfup f) := fun _ h => by cases h; exact (by decide : 193 < 1024 ∧ (lookupOp (opMap .vec) 193).isSome = true)
theorem Opcode.vshfdn (f : Fields) : Opcode.Statement (.vshfdn f) := fun _ h => by cases h; exact (by decide : 194 < 1024 ∧ (lookupOp (opMap .vec) 194).isSome = true)
theorem Opcode.vshfx (f : Fields) : Opcode.Statement (.vshfx f) := fun _ h => by cases h; exact (by decide : 195 < 1024 ∧ (lookupOp (opMap .vec) 195).isSome = true)
theorem Opcode.vballot (f : Fields) : Opcode.Statement (.vballot f) := fun _ h => by cases h; exact (by decide : 196 < 1024 ∧ (lookupOp (opMap .vec) 196).isSome = true)
theorem Opcode.vpoll (f : Fields) : Opcode.Statement (.vpoll f) := fun _ h => by cases h; exact (by decide : 197 < 1024 ∧ (lookupOp (opMap .vec) 197).isSome = true)
theorem Opcode.vredadd (f : Fields) : Opcode.Statement (.vredadd f) := fun _ h => by cases h; exact (by decide : 198 < 1024 ∧ (lookupOp (opMap .vec) 198).isSome = true)
theorem Opcode.vredmin (f : Fields) : Opcode.Statement (.vredmin f) := fun _ h => by cases h; exact (by decide : 199 < 1024 ∧ (lookupOp (opMap .vec) 199).isSome = true)
theorem Opcode.vredmax (f : Fields) : Opcode.Statement (.vredmax f) := fun _ h => by cases h; exact (by decide : 200 < 1024 ∧ (lookupOp (opMap .vec) 200).isSome = true)
theorem Opcode.vscan (f : Fields) : Opcode.Statement (.vscan f) := fun _ h => by cases h; exact (by decide : 201 < 1024 ∧ (lookupOp (opMap .vec) 201).isSome = true)
theorem Opcode.vmatch (f : Fields) : Opcode.Statement (.vmatch f) := fun _ h => by cases h; exact (by decide : 202 < 1024 ∧ (lookupOp (opMap .vec) 202).isSome = true)
theorem Opcode.sadd (f : Fields) : Opcode.Statement (.sadd f) := fun _ h => by cases h; exact (by decide : 0 < 1024 ∧ (lookupOp (opMap .scl) 0).isSome = true)
theorem Opcode.ssub (f : Fields) : Opcode.Statement (.ssub f) := fun _ h => by cases h; exact (by decide : 1 < 1024 ∧ (lookupOp (opMap .scl) 1).isSome = true)
theorem Opcode.smul (f : Fields) : Opcode.Statement (.smul f) := fun _ h => by cases h; exact (by decide : 2 < 1024 ∧ (lookupOp (opMap .scl) 2).isSome = true)
theorem Opcode.smulhi (f : Fields) : Opcode.Statement (.smulhi f) := fun _ h => by cases h; exact (by decide : 3 < 1024 ∧ (lookupOp (opMap .scl) 3).isSome = true)
theorem Opcode.sdiv (f : Fields) : Opcode.Statement (.sdiv f) := fun _ h => by cases h; exact (by decide : 4 < 1024 ∧ (lookupOp (opMap .scl) 4).isSome = true)
theorem Opcode.srem (f : Fields) : Opcode.Statement (.srem f) := fun _ h => by cases h; exact (by decide : 5 < 1024 ∧ (lookupOp (opMap .scl) 5).isSome = true)
theorem Opcode.smin (f : Fields) : Opcode.Statement (.smin f) := fun _ h => by cases h; exact (by decide : 6 < 1024 ∧ (lookupOp (opMap .scl) 6).isSome = true)
theorem Opcode.smax (f : Fields) : Opcode.Statement (.smax f) := fun _ h => by cases h; exact (by decide : 7 < 1024 ∧ (lookupOp (opMap .scl) 7).isSome = true)
theorem Opcode.sabs (f : Fields) : Opcode.Statement (.sabs f) := fun _ h => by cases h; exact (by decide : 8 < 1024 ∧ (lookupOp (opMap .scl) 8).isSome = true)
theorem Opcode.sand (f : Fields) : Opcode.Statement (.sand f) := fun _ h => by cases h; exact (by decide : 9 < 1024 ∧ (lookupOp (opMap .scl) 9).isSome = true)
theorem Opcode.sor (f : Fields) : Opcode.Statement (.sor f) := fun _ h => by cases h; exact (by decide : 10 < 1024 ∧ (lookupOp (opMap .scl) 10).isSome = true)
theorem Opcode.sxor (f : Fields) : Opcode.Statement (.sxor f) := fun _ h => by cases h; exact (by decide : 11 < 1024 ∧ (lookupOp (opMap .scl) 11).isSome = true)
theorem Opcode.snot (f : Fields) : Opcode.Statement (.snot f) := fun _ h => by cases h; exact (by decide : 12 < 1024 ∧ (lookupOp (opMap .scl) 12).isSome = true)
theorem Opcode.sshl (f : Fields) : Opcode.Statement (.sshl f) := fun _ h => by cases h; exact (by decide : 13 < 1024 ∧ (lookupOp (opMap .scl) 13).isSome = true)
theorem Opcode.sshr (f : Fields) : Opcode.Statement (.sshr f) := fun _ h => by cases h; exact (by decide : 14 < 1024 ∧ (lookupOp (opMap .scl) 14).isSome = true)
theorem Opcode.ssra (f : Fields) : Opcode.Statement (.ssra f) := fun _ h => by cases h; exact (by decide : 15 < 1024 ∧ (lookupOp (opMap .scl) 15).isSome = true)
theorem Opcode.srotl (f : Fields) : Opcode.Statement (.srotl f) := fun _ h => by cases h; exact (by decide : 16 < 1024 ∧ (lookupOp (opMap .scl) 16).isSome = true)
theorem Opcode.spopc (f : Fields) : Opcode.Statement (.spopc f) := fun _ h => by cases h; exact (by decide : 17 < 1024 ∧ (lookupOp (opMap .scl) 17).isSome = true)
theorem Opcode.sclz (f : Fields) : Opcode.Statement (.sclz f) := fun _ h => by cases h; exact (by decide : 18 < 1024 ∧ (lookupOp (opMap .scl) 18).isSome = true)
theorem Opcode.sbfe (f : Fields) : Opcode.Statement (.sbfe f) := fun _ h => by cases h; exact (by decide : 19 < 1024 ∧ (lookupOp (opMap .scl) 19).isSome = true)
theorem Opcode.sbfi (f : Fields) : Opcode.Statement (.sbfi f) := fun _ h => by cases h; exact (by decide : 20 < 1024 ∧ (lookupOp (opMap .scl) 20).isSome = true)
theorem Opcode.scmp (f : Fields) : Opcode.Statement (.scmp f) := fun _ h => by cases h; exact (by decide : 21 < 1024 ∧ (lookupOp (opMap .scl) 21).isSome = true)
theorem Opcode.ssel (f : Fields) : Opcode.Statement (.ssel f) := fun _ h => by cases h; exact (by decide : 22 < 1024 ∧ (lookupOp (opMap .scl) 22).isSome = true)
theorem Opcode.smov (f : Fields) : Opcode.Statement (.smov f) := fun _ h => by cases h; exact (by decide : 23 < 1024 ∧ (lookupOp (opMap .scl) 23).isSome = true)
theorem Opcode.smovhi (f : Fields) : Opcode.Statement (.smovhi f) := fun _ h => by cases h; exact (by decide : 24 < 1024 ∧ (lookupOp (opMap .scl) 24).isSome = true)
theorem Opcode.sget (f : Fields) : Opcode.Statement (.sget f) := fun _ h => by cases h; exact (by decide : 25 < 1024 ∧ (lookupOp (opMap .scl) 25).isSome = true)
theorem Opcode.saddr (f : Fields) : Opcode.Statement (.saddr f) := fun _ h => by cases h; exact (by decide : 26 < 1024 ∧ (lookupOp (opMap .scl) 26).isSome = true)
theorem Opcode.sfirst (f : Fields) : Opcode.Statement (.sfirst f) := fun _ h => by cases h; exact (by decide : 27 < 1024 ∧ (lookupOp (opMap .scl) 27).isSome = true)
theorem Opcode.nop (f : Fields) : Opcode.Statement (.nop f) := fun _ h => by cases h; exact (by decide : 0 < 1024 ∧ (lookupOp (opMap .ctl) 0).isSome = true)
theorem Opcode.bra (f : Fields) : Opcode.Statement (.bra f) := fun _ h => by cases h; exact (by decide : 1 < 1024 ∧ (lookupOp (opMap .ctl) 1).isSome = true)
theorem Opcode.brai (f : Fields) : Opcode.Statement (.brai f) := fun _ h => by cases h; exact (by decide : 2 < 1024 ∧ (lookupOp (opMap .ctl) 2).isSome = true)
theorem Opcode.bany (f : Fields) : Opcode.Statement (.bany f) := fun _ h => by cases h; exact (by decide : 3 < 1024 ∧ (lookupOp (opMap .ctl) 3).isSome = true)
theorem Opcode.ball (f : Fields) : Opcode.Statement (.ball f) := fun _ h => by cases h; exact (by decide : 4 < 1024 ∧ (lookupOp (opMap .ctl) 4).isSome = true)
theorem Opcode.bdiv (f : Fields) : Opcode.Statement (.bdiv f) := fun _ h => by cases h; exact (by decide : 5 < 1024 ∧ (lookupOp (opMap .ctl) 5).isSome = true)
theorem Opcode.join (f : Fields) : Opcode.Statement (.join f) := fun _ h => by cases h; exact (by decide : 6 < 1024 ∧ (lookupOp (opMap .ctl) 6).isSome = true)
theorem Opcode.call (f : Fields) : Opcode.Statement (.call f) := fun _ h => by cases h; exact (by decide : 7 < 1024 ∧ (lookupOp (opMap .ctl) 7).isSome = true)
theorem Opcode.ret (f : Fields) : Opcode.Statement (.ret f) := fun _ h => by cases h; exact (by decide : 8 < 1024 ∧ (lookupOp (opMap .ctl) 8).isSome = true)
theorem Opcode.pause (f : Fields) : Opcode.Statement (.pause f) := fun _ h => by cases h; exact (by decide : 9 < 1024 ∧ (lookupOp (opMap .ctl) 9).isSome = true)
theorem Opcode.exit (f : Fields) : Opcode.Statement (.exit f) := fun _ h => by cases h; exact (by decide : 10 < 1024 ∧ (lookupOp (opMap .ctl) 10).isSome = true)
theorem Opcode.reorder (f : Fields) : Opcode.Statement (.reorder f) := fun _ h => by cases h; exact (by decide : 11 < 1024 ∧ (lookupOp (opMap .ctl) 11).isSome = true)
theorem Opcode.spawn (f : Fields) : Opcode.Statement (.spawn f) := fun _ h => by cases h; exact (by decide : 12 < 1024 ∧ (lookupOp (opMap .ctl) 12).isSome = true)
theorem Opcode.callr (f : Fields) : Opcode.Statement (.callr f) := fun _ h => by cases h; exact (by decide : 13 < 1024 ∧ (lookupOp (opMap .ctl) 13).isSome = true)
theorem Opcode.rep (f : Fields) : Opcode.Statement (.rep f) := fun _ h => by cases h; exact (by decide : 0 < 1024 ∧ (lookupOp (opMap .pfx) 0).isSome = true)
theorem Opcode.ld (f : Fields) : Opcode.Statement (.ld f) := fun _ h => by cases h; exact (by decide : 0 < 1024 ∧ (lookupOp (opMap .mem) 0).isSome = true)
theorem Opcode.st (f : Fields) : Opcode.Statement (.st f) := fun _ h => by cases h; exact (by decide : 1 < 1024 ∧ (lookupOp (opMap .mem) 1).isSome = true)
theorem Opcode.ldsp (f : Fields) : Opcode.Statement (.ldsp f) := fun _ h => by cases h; exact (by decide : 2 < 1024 ∧ (lookupOp (opMap .mem) 2).isSome = true)
theorem Opcode.stsp (f : Fields) : Opcode.Statement (.stsp f) := fun _ h => by cases h; exact (by decide : 3 < 1024 ∧ (lookupOp (opMap .mem) 3).isSome = true)
theorem Opcode.ldcl (f : Fields) : Opcode.Statement (.ldcl f) := fun _ h => by cases h; exact (by decide : 4 < 1024 ∧ (lookupOp (opMap .mem) 4).isSome = true)
theorem Opcode.stcl (f : Fields) : Opcode.Statement (.stcl f) := fun _ h => by cases h; exact (by decide : 5 < 1024 ∧ (lookupOp (opMap .mem) 5).isSome = true)
theorem Opcode.sld (f : Fields) : Opcode.Statement (.sld f) := fun _ h => by cases h; exact (by decide : 6 < 1024 ∧ (lookupOp (opMap .mem) 6).isSome = true)
theorem Opcode.sst (f : Fields) : Opcode.Statement (.sst f) := fun _ h => by cases h; exact (by decide : 7 < 1024 ∧ (lookupOp (opMap .mem) 7).isSome = true)
theorem Opcode.ldb (f : Fields) : Opcode.Statement (.ldb f) := fun _ h => by cases h; exact (by decide : 8 < 1024 ∧ (lookupOp (opMap .mem) 8).isSome = true)
theorem Opcode.stb (f : Fields) : Opcode.Statement (.stb f) := fun _ h => by cases h; exact (by decide : 9 < 1024 ∧ (lookupOp (opMap .mem) 9).isSome = true)
theorem Opcode.recld (f : Fields) : Opcode.Statement (.recld f) := fun _ h => by cases h; exact (by decide : 10 < 1024 ∧ (lookupOp (opMap .mem) 10).isSome = true)
theorem Opcode.recinv (f : Fields) : Opcode.Statement (.recinv f) := fun _ h => by cases h; exact (by decide : 11 < 1024 ∧ (lookupOp (opMap .mem) 11).isSome = true)
theorem Opcode.pref (f : Fields) : Opcode.Statement (.pref f) := fun _ h => by cases h; exact (by decide : 12 < 1024 ∧ (lookupOp (opMap .mem) 12).isSome = true)
theorem Opcode.resid (f : Fields) : Opcode.Statement (.resid f) := fun _ h => by cases h; exact (by decide : 13 < 1024 ∧ (lookupOp (opMap .mem) 13).isSome = true)
theorem Opcode.sptest (f : Fields) : Opcode.Statement (.sptest f) := fun _ h => by cases h; exact (by decide : 14 < 1024 ∧ (lookupOp (opMap .mem) 14).isSome = true)
theorem Opcode.acopy (f : Fields) : Opcode.Statement (.acopy f) := fun _ h => by cases h; exact (by decide : 0 < 1024 ∧ (lookupOp (opMap .asy) 0).isSome = true)
theorem Opcode.awrite (f : Fields) : Opcode.Statement (.awrite f) := fun _ h => by cases h; exact (by decide : 1 < 1024 ∧ (lookupOp (opMap .asy) 1).isSome = true)
theorem Opcode.agather (f : Fields) : Opcode.Statement (.agather f) := fun _ h => by cases h; exact (by decide : 2 < 1024 ∧ (lookupOp (opMap .asy) 2).isSome = true)
theorem Opcode.ascatter (f : Fields) : Opcode.Statement (.ascatter f) := fun _ h => by cases h; exact (by decide : 3 < 1024 ∧ (lookupOp (opMap .asy) 3).isSome = true)
theorem Opcode.astage (f : Fields) : Opcode.Statement (.astage f) := fun _ h => by cases h; exact (by decide : 4 < 1024 ∧ (lookupOp (opMap .asy) 4).isSome = true)
theorem Opcode.afill (f : Fields) : Opcode.Statement (.afill f) := fun _ h => by cases h; exact (by decide : 5 < 1024 ∧ (lookupOp (opMap .asy) 5).isSome = true)
theorem Opcode.ahut (f : Fields) : Opcode.Statement (.ahut f) := fun _ h => by cases h; exact (by decide : 6 < 1024 ∧ (lookupOp (opMap .asy) 6).isSome = true)
theorem Opcode.asummit (f : Fields) : Opcode.Statement (.asummit f) := fun _ h => by cases h; exact (by decide : 7 < 1024 ∧ (lookupOp (opMap .asy) 7).isSome = true)
theorem Opcode.hwait (f : Fields) : Opcode.Statement (.hwait f) := fun _ h => by cases h; exact (by decide : 8 < 1024 ∧ (lookupOp (opMap .asy) 8).isSome = true)
theorem Opcode.htest (f : Fields) : Opcode.Statement (.htest f) := fun _ h => by cases h; exact (by decide : 9 < 1024 ∧ (lookupOp (opMap .asy) 9).isSome = true)
theorem Opcode.hpass (f : Fields) : Opcode.Statement (.hpass f) := fun _ h => by cases h; exact (by decide : 10 < 1024 ∧ (lookupOp (opMap .asy) 10).isSome = true)
theorem Opcode.hcancel (f : Fields) : Opcode.Statement (.hcancel f) := fun _ h => by cases h; exact (by decide : 11 < 1024 ∧ (lookupOp (opMap .asy) 11).isSome = true)
theorem Opcode.barinit (f : Fields) : Opcode.Statement (.barinit f) := fun _ h => by cases h; exact (by decide : 12 < 1024 ∧ (lookupOp (opMap .asy) 12).isSome = true)
theorem Opcode.barexp (f : Fields) : Opcode.Statement (.barexp f) := fun _ h => by cases h; exact (by decide : 13 < 1024 ∧ (lookupOp (opMap .asy) 13).isSome = true)
theorem Opcode.mnop (f : Fields) : Opcode.Statement (.mnop f) := fun _ h => by cases h; exact (by decide : 0 < 1024 ∧ (lookupOp (opMap .mtx) 0).isSome = true)
theorem Opcode.mzero (f : Fields) : Opcode.Statement (.mzero f) := fun _ h => by cases h; exact (by decide : 1 < 1024 ∧ (lookupOp (opMap .mtx) 1).isSome = true)
theorem Opcode.mmac (f : Fields) : Opcode.Statement (.mmac f) := fun _ h => by cases h; exact (by decide : 2 < 1024 ∧ (lookupOp (opMap .mtx) 2).isSome = true)
theorem Opcode.mldacc (f : Fields) : Opcode.Statement (.mldacc f) := fun _ h => by cases h; exact (by decide : 3 < 1024 ∧ (lookupOp (opMap .mtx) 3).isSome = true)
theorem Opcode.mdrain (f : Fields) : Opcode.Statement (.mdrain f) := fun _ h => by cases h; exact (by decide : 4 < 1024 ∧ (lookupOp (opMap .mtx) 4).isSome = true)
theorem Opcode.mdradd (f : Fields) : Opcode.Statement (.mdradd f) := fun _ h => by cases h; exact (by decide : 5 < 1024 ∧ (lookupOp (opMap .mtx) 5).isSome = true)
theorem Opcode.mbarw (f : Fields) : Opcode.Statement (.mbarw f) := fun _ h => by cases h; exact (by decide : 6 < 1024 ∧ (lookupOp (opMap .mtx) 6).isSome = true)
theorem Opcode.mbara (f : Fields) : Opcode.Statement (.mbara f) := fun _ h => by cases h; exact (by decide : 7 < 1024 ∧ (lookupOp (opMap .mtx) 7).isSome = true)
theorem Opcode.mringw (f : Fields) : Opcode.Statement (.mringw f) := fun _ h => by cases h; exact (by decide : 8 < 1024 ∧ (lookupOp (opMap .mtx) 8).isSome = true)
theorem Opcode.mrings (f : Fields) : Opcode.Statement (.mrings f) := fun _ h => by cases h; exact (by decide : 9 < 1024 ∧ (lookupOp (opMap .mtx) 9).isSome = true)
theorem Opcode.mset (f : Fields) : Opcode.Statement (.mset f) := fun _ h => by cases h; exact (by decide : 10 < 1024 ∧ (lookupOp (opMap .mtx) 10).isSome = true)
theorem Opcode.msetBexp (f : Fields) : Opcode.Statement (.msetBexp f) := fun _ h => by cases h; exact (by decide : 10 < 1024 ∧ (lookupOp (opMap .mtx) 10).isSome = true)
theorem Opcode.msetRing (f : Fields) : Opcode.Statement (.msetRing f) := fun _ h => by cases h; exact (by decide : 10 < 1024 ∧ (lookupOp (opMap .mtx) 10).isSome = true)
theorem Opcode.madd (f : Fields) : Opcode.Statement (.madd f) := fun _ h => by cases h; exact (by decide : 11 < 1024 ∧ (lookupOp (opMap .mtx) 11).isSome = true)
theorem Opcode.mloop (f : Fields) : Opcode.Statement (.mloop f) := fun _ h => by cases h; exact (by decide : 12 < 1024 ∧ (lookupOp (opMap .mtx) 12).isSome = true)
theorem Opcode.mbra (f : Fields) : Opcode.Statement (.mbra f) := fun _ h => by cases h; exact (by decide : 13 < 1024 ∧ (lookupOp (opMap .mtx) 13).isSome = true)
theorem Opcode.mexit (f : Fields) : Opcode.Statement (.mexit f) := fun _ h => by cases h; exact (by decide : 14 < 1024 ∧ (lookupOp (opMap .mtx) 14).isSome = true)
theorem Opcode.mseed (f : Fields) : Opcode.Statement (.mseed f) := fun _ h => by cases h; exact (by decide : 15 < 1024 ∧ (lookupOp (opMap .mtx) 15).isSome = true)
theorem Opcode.gadd (f : Fields) : Opcode.Statement (.gadd f) := fun _ h => by cases h; exact (by decide : 0 < 1024 ∧ (lookupOp (opMap .sys) 0).isSome = true)
theorem Opcode.gaddf (f : Fields) : Opcode.Statement (.gaddf f) := fun _ h => by cases h; exact (by decide : 1 < 1024 ∧ (lookupOp (opMap .sys) 1).isSome = true)
theorem Opcode.gmin (f : Fields) : Opcode.Statement (.gmin f) := fun _ h => by cases h; exact (by decide : 2 < 1024 ∧ (lookupOp (opMap .sys) 2).isSome = true)
theorem Opcode.gmax (f : Fields) : Opcode.Statement (.gmax f) := fun _ h => by cases h; exact (by decide : 3 < 1024 ∧ (lookupOp (opMap .sys) 3).isSome = true)
theorem Opcode.gand (f : Fields) : Opcode.Statement (.gand f) := fun _ h => by cases h; exact (by decide : 4 < 1024 ∧ (lookupOp (opMap .sys) 4).isSome = true)
theorem Opcode.gor (f : Fields) : Opcode.Statement (.gor f) := fun _ h => by cases h; exact (by decide : 5 < 1024 ∧ (lookupOp (opMap .sys) 5).isSome = true)
theorem Opcode.gxor (f : Fields) : Opcode.Statement (.gxor f) := fun _ h => by cases h; exact (by decide : 6 < 1024 ∧ (lookupOp (opMap .sys) 6).isSome = true)
theorem Opcode.gxchg (f : Fields) : Opcode.Statement (.gxchg f) := fun _ h => by cases h; exact (by decide : 7 < 1024 ∧ (lookupOp (opMap .sys) 7).isSome = true)
theorem Opcode.gcas (f : Fields) : Opcode.Statement (.gcas f) := fun _ h => by cases h; exact (by decide : 8 < 1024 ∧ (lookupOp (opMap .sys) 8).isSome = true)
theorem Opcode.ginc (f : Fields) : Opcode.Statement (.ginc f) := fun _ h => by cases h; exact (by decide : 9 < 1024 ∧ (lookupOp (opMap .sys) 9).isSome = true)
theorem Opcode.padd (f : Fields) : Opcode.Statement (.padd f) := fun _ h => by cases h; exact (by decide : 16 < 1024 ∧ (lookupOp (opMap .sys) 16).isSome = true)
theorem Opcode.paddf (f : Fields) : Opcode.Statement (.paddf f) := fun _ h => by cases h; exact (by decide : 17 < 1024 ∧ (lookupOp (opMap .sys) 17).isSome = true)
theorem Opcode.pmin (f : Fields) : Opcode.Statement (.pmin f) := fun _ h => by cases h; exact (by decide : 18 < 1024 ∧ (lookupOp (opMap .sys) 18).isSome = true)
theorem Opcode.pmax (f : Fields) : Opcode.Statement (.pmax f) := fun _ h => by cases h; exact (by decide : 19 < 1024 ∧ (lookupOp (opMap .sys) 19).isSome = true)
theorem Opcode.pxchg (f : Fields) : Opcode.Statement (.pxchg f) := fun _ h => by cases h; exact (by decide : 20 < 1024 ∧ (lookupOp (opMap .sys) 20).isSome = true)
theorem Opcode.pcas (f : Fields) : Opcode.Statement (.pcas f) := fun _ h => by cases h; exact (by decide : 21 < 1024 ∧ (lookupOp (opMap .sys) 21).isSome = true)
theorem Opcode.fence (f : Fields) : Opcode.Statement (.fence f) := fun _ h => by cases h; exact (by decide : 32 < 1024 ∧ (lookupOp (opMap .sys) 32).isSome = true)
theorem Opcode.nbarr (f : Fields) : Opcode.Statement (.nbarr f) := fun _ h => by cases h; exact (by decide : 33 < 1024 ∧ (lookupOp (opMap .sys) 33).isSome = true)
theorem Opcode.nbwait (f : Fields) : Opcode.Statement (.nbwait f) := fun _ h => by cases h; exact (by decide : 34 < 1024 ∧ (lookupOp (opMap .sys) 34).isSome = true)
theorem Opcode.ringw (f : Fields) : Opcode.Statement (.ringw f) := fun _ h => by cases h; exact (by decide : 35 < 1024 ∧ (lookupOp (opMap .sys) 35).isSome = true)
theorem Opcode.rings (f : Fields) : Opcode.Statement (.rings f) := fun _ h => by cases h; exact (by decide : 36 < 1024 ∧ (lookupOp (opMap .sys) 36).isSome = true)
theorem Opcode.barwait (f : Fields) : Opcode.Statement (.barwait f) := fun _ h => by cases h; exact (by decide : 37 < 1024 ∧ (lookupOp (opMap .sys) 37).isSome = true)
theorem Opcode.sread (f : Fields) : Opcode.Statement (.sread f) := fun _ h => by cases h; exact (by decide : 64 < 1024 ∧ (lookupOp (opMap .sys) 64).isSome = true)
theorem Opcode.swrite (f : Fields) : Opcode.Statement (.swrite f) := fun _ h => by cases h; exact (by decide : 65 < 1024 ∧ (lookupOp (opMap .sys) 65).isSome = true)
theorem Opcode.trap (f : Fields) : Opcode.Statement (.trap f) := fun _ h => by cases h; exact (by decide : 66 < 1024 ∧ (lookupOp (opMap .sys) 66).isSome = true)
theorem Opcode.isync (f : Fields) : Opcode.Statement (.isync f) := fun _ h => by cases h; exact (by decide : 67 < 1024 ∧ (lookupOp (opMap .sys) 67).isSome = true)
theorem Opcode.icinv (f : Fields) : Opcode.Statement (.icinv f) := fun _ h => by cases h; exact (by decide : 68 < 1024 ∧ (lookupOp (opMap .sys) 68).isSome = true)
theorem Opcode.brk (f : Fields) : Opcode.Statement (.brk f) := fun _ h => by cases h; exact (by decide : 69 < 1024 ∧ (lookupOp (opMap .sys) 69).isSome = true)
theorem Opcode.diagrd (f : Fields) : Opcode.Statement (.diagrd f) := fun _ h => by cases h; exact (by decide : 70 < 1024 ∧ (lookupOp (opMap .sys) 70).isSome = true)
theorem Opcode.diagwr (f : Fields) : Opcode.Statement (.diagwr f) := fun _ h => by cases h; exact (by decide : 71 < 1024 ∧ (lookupOp (opMap .sys) 71).isSome = true)
theorem Opcode.errinj (f : Fields) : Opcode.Statement (.errinj f) := fun _ h => by cases h; exact (by decide : 72 < 1024 ∧ (lookupOp (opMap .sys) 72).isSome = true)
theorem Opcode.hadd (t : BitVec 2) (d a b : BitVec 5) : Opcode.Statement (.hadd t d a b) := opcode_of_no_form rfl
theorem Opcode.hsub (t : BitVec 2) (d a b : BitVec 5) : Opcode.Statement (.hsub t d a b) := opcode_of_no_form rfl
theorem Opcode.hmul (t : BitVec 2) (d a b : BitVec 5) : Opcode.Statement (.hmul t d a b) := opcode_of_no_form rfl
theorem Opcode.hfma (t : BitVec 2) (d a b c : BitVec 5) : Opcode.Statement (.hfma t d a b c) := opcode_of_no_form rfl
theorem Opcode.hmin (t : BitVec 2) (d a b : BitVec 5) : Opcode.Statement (.hmin t d a b) := opcode_of_no_form rfl
theorem Opcode.hmax (t : BitVec 2) (d a b : BitVec 5) : Opcode.Statement (.hmax t d a b) := opcode_of_no_form rfl
theorem Opcode.habs (t : BitVec 2) (d a : BitVec 5) : Opcode.Statement (.habs t d a) := opcode_of_no_form rfl
theorem Opcode.hand (d a b : BitVec 5) : Opcode.Statement (.hand d a b) := opcode_of_no_form rfl
theorem Opcode.hor (d a b : BitVec 5) : Opcode.Statement (.hor d a b) := opcode_of_no_form rfl
theorem Opcode.hxor (d a b : BitVec 5) : Opcode.Statement (.hxor d a b) := opcode_of_no_form rfl
theorem Opcode.hshl (t : BitVec 2) (d a b : BitVec 5) : Opcode.Statement (.hshl t d a b) := opcode_of_no_form rfl
theorem Opcode.hshr (t : BitVec 2) (d a b : BitVec 5) : Opcode.Statement (.hshr t d a b) := opcode_of_no_form rfl
theorem Opcode.hcmp (t : BitVec 2) (d a b : BitVec 5) (cc : BitVec 3) : Opcode.Statement (.hcmp t d a b cc) := opcode_of_no_form rfl
theorem Opcode.hsel (d a b c : BitVec 5) : Opcode.Statement (.hsel d a b c) := opcode_of_no_form rfl
theorem Opcode.hcvt (t : BitVec 2) (d a : BitVec 5) (u : BitVec 2) : Opcode.Statement (.hcvt t d a u) := opcode_of_no_form rfl
theorem Opcode.hmov (d a : BitVec 5) : Opcode.Statement (.hmov d a) := opcode_of_no_form rfl
theorem Opcode.hbcast (d a : BitVec 5) (e : BitVec 3) : Opcode.Statement (.hbcast d a e) := opcode_of_no_form rfl
theorem Opcode.hsum (t : BitVec 2) (d a : BitVec 5) : Opcode.Statement (.hsum t d a) := opcode_of_no_form rfl
theorem Opcode.hld (d k : BitVec 5) (n : BitVec 2) : Opcode.Statement (.hld d k n) := opcode_of_no_form rfl
theorem Opcode.hst (src k : BitVec 5) (n : BitVec 2) : Opcode.Statement (.hst src k n) := opcode_of_no_form rfl
theorem Opcode.hseti (t : BitVec 2) (d : BitVec 5) (imm : BitVec 19) : Opcode.Statement (.hseti t d imm) := opcode_of_no_form rfl
theorem Opcode.hloop (lv cs : Bool) (n : BitVec 12) (bl : BitVec 7) : Opcode.Statement (.hloop lv cs n bl) := opcode_of_no_form rfl
theorem Opcode.hidx (t : BitVec 2) (d : BitVec 5) (sel : BitVec 2) : Opcode.Statement (.hidx t d sel) := opcode_of_no_form rfl
theorem Opcode.hnop : Opcode.Statement (.hnop) := opcode_of_no_form rfl
theorem Opcode.hend : Opcode.Statement (.hend) := opcode_of_no_form rfl
theorem Opcode.icacheFill (core ctx line : Nat) (glitch : BitVec 5) : Opcode.Statement (.icacheFill core ctx line glitch) := opcode_of_no_form rfl
theorem Opcode.perst (port : Fin 2) : Opcode.Statement (.perst port) := opcode_of_no_form rfl
theorem Opcode.meminit (ok : Bool) : Opcode.Statement (.meminit ok) := opcode_of_no_form rfl
theorem Opcode.fabricTrain (ok : Bool) : Opcode.Statement (.fabricTrain ok) := opcode_of_no_form rfl
theorem Opcode.planeDark (plane : Fin 4) : Opcode.Statement (.planeDark plane) := opcode_of_no_form rfl
theorem Opcode.planeLit (plane : Fin 4) : Opcode.Statement (.planeLit plane) := opcode_of_no_form rfl
theorem Opcode.containerLoad (vf ctr : Nat) (image : List Byte) (places : List (Nat × Nat)) : Opcode.Statement (.containerLoad vf ctr image places) := opcode_of_no_form rfl
theorem Opcode.registerWrite (fn : Fn) (off : Nat) (value : BitVec 64) : Opcode.Statement (.registerWrite fn off value) := opcode_of_no_form rfl
theorem Opcode.deviceStatusReset (vf : Nat) : Opcode.Statement (.deviceStatusReset vf) := opcode_of_no_form rfl
theorem Opcode.vfFunctionLevelReset (vf : Nat) : Opcode.Statement (.vfFunctionLevelReset vf) := opcode_of_no_form rfl
theorem Opcode.pfFunctionLevelReset (pf : Fin 2) : Opcode.Statement (.pfFunctionLevelReset pf) := opcode_of_no_form rfl
theorem Opcode.featuresOk (fn : Fn) (accepted : BitVec 128) : Opcode.Statement (.featuresOk fn accepted) := opcode_of_no_form rfl
theorem Opcode.driverOk (fn : Fn) : Opcode.Statement (.driverOk fn) := opcode_of_no_form rfl
theorem Opcode.vfEnable (pf : Fin 2) (on : Bool) : Opcode.Statement (.vfEnable pf on) := opcode_of_no_form rfl
theorem Opcode.numvfsWrite (pf : Fin 2) (n : Nat) : Opcode.Statement (.numvfsWrite pf n) := opcode_of_no_form rfl
theorem Opcode.notify (fn : Fn) (queue : Nat) (posted : List Chain) : Opcode.Statement (.notify fn queue posted) := opcode_of_no_form rfl
theorem Opcode.queueReset (vf queue : Nat) : Opcode.Statement (.queueReset vf queue) := opcode_of_no_form rfl
theorem Opcode.launch (vf queue : Nat) : Opcode.Statement (.launch vf queue) := opcode_of_no_form rfl
theorem Opcode.signal (vf queue : Nat) : Opcode.Statement (.signal vf queue) := opcode_of_no_form rfl
theorem Opcode.createPart (pf : Fin 2) : Opcode.Statement (.createPart pf) := opcode_of_no_form rfl
theorem Opcode.createVf (pf : Fin 2) : Opcode.Statement (.createVf pf) := opcode_of_no_form rfl
theorem Opcode.destroyVf (pf : Fin 2) : Opcode.Statement (.destroyVf pf) := opcode_of_no_form rfl
theorem Opcode.clusterPlace (chiplet : Nat) : Opcode.Statement (.clusterPlace chiplet) := opcode_of_no_form rfl
theorem Opcode.eventDeliver (vf : Nat) : Opcode.Statement (.eventDeliver vf) := opcode_of_no_form rfl
theorem Opcode.laneFailure (quad lane : Nat) : Opcode.Statement (.laneFailure quad lane) := opcode_of_no_form rfl
theorem Opcode.laneSteer (quad : Nat) : Opcode.Statement (.laneSteer quad) := opcode_of_no_form rfl
theorem Opcode.laneGo (pf : Fin 2) (quad lane : Nat) : Opcode.Statement (.laneGo pf quad lane) := opcode_of_no_form rfl
theorem Opcode.compactionTimeout (team : TeamRef) (entry : Nat) : Opcode.Statement (.compactionTimeout team entry) := opcode_of_no_form rfl
theorem Opcode.emittedGroupPlace (team : TeamRef) : Opcode.Statement (.emittedGroupPlace team) := opcode_of_no_form rfl
theorem Opcode.reorderTimeout (team : TeamRef) (slot : Nat) : Opcode.Statement (.reorderTimeout team slot) := opcode_of_no_form rfl
theorem Opcode.spawnPoolEmit (team : TeamRef) : Opcode.Statement (.spawnPoolEmit team) := opcode_of_no_form rfl
theorem Opcode.spawnLeftoverTimeout (team : TeamRef) (slot : Nat) : Opcode.Statement (.spawnLeftoverTimeout team slot) := opcode_of_no_form rfl
theorem Opcode.lodgeReply (quad entry : Nat) (error : Bool) : Opcode.Statement (.lodgeReply quad entry error) := opcode_of_no_form rfl
theorem Opcode.lodgeTimeout (quad entry : Nat) : Opcode.Statement (.lodgeTimeout quad entry) := opcode_of_no_form rfl
theorem Opcode.scratchpadLoadReturn (quad op : Nat) : Opcode.Statement (.scratchpadLoadReturn quad op) := opcode_of_no_form rfl
theorem Opcode.pageWalk (core ctx page : Nat) : Opcode.Statement (.pageWalk core ctx page) := opcode_of_no_form rfl
theorem Opcode.storeQueueDrain (quad place : Nat) : Opcode.Statement (.storeQueueDrain quad place) := opcode_of_no_form rfl
theorem Opcode.bellDeliver (chiplet : Nat) : Opcode.Statement (.bellDeliver chiplet) := opcode_of_no_form rfl
theorem Opcode.signatureRebuild (core : Nat) : Opcode.Statement (.signatureRebuild core) := opcode_of_no_form rfl
theorem Opcode.homeRead (stack : Nat) : Opcode.Statement (.homeRead stack) := opcode_of_no_form rfl
theorem Opcode.homeOwnership (stack : Nat) : Opcode.Statement (.homeOwnership stack) := opcode_of_no_form rfl
theorem Opcode.homeNotice (stack : Nat) : Opcode.Statement (.homeNotice stack) := opcode_of_no_form rfl
theorem Opcode.homeAtomic (stack : Nat) : Opcode.Statement (.homeAtomic stack) := opcode_of_no_form rfl
theorem Opcode.homeHutRead (stack : Nat) : Opcode.Statement (.homeHutRead stack) := opcode_of_no_form rfl
theorem Opcode.homeHst (stack : Nat) : Opcode.Statement (.homeHst stack) := opcode_of_no_form rfl
theorem Opcode.homeUncachedRead (stack : Nat) : Opcode.Statement (.homeUncachedRead stack) := opcode_of_no_form rfl
theorem Opcode.forward (chiplet : Nat) : Opcode.Statement (.forward chiplet) := opcode_of_no_form rfl
theorem Opcode.noticeAck (chiplet block : Nat) : Opcode.Statement (.noticeAck chiplet block) := opcode_of_no_form rfl
theorem Opcode.snpinv (port : Fin 2) (block : Nat) : Opcode.Statement (.snpinv port block) := opcode_of_no_form rfl
theorem Opcode.snpdata (port : Fin 2) (block : Nat) : Opcode.Statement (.snpdata port block) := opcode_of_no_form rfl
theorem Opcode.snpcur (port : Fin 2) (block : Nat) : Opcode.Statement (.snpcur port block) := opcode_of_no_form rfl
theorem Opcode.cxlCacheResponse (port : Fin 2) (block : Nat) (granted : Mesi) (data : List Byte) : Opcode.Statement (.cxlCacheResponse port block granted data) := opcode_of_no_form rfl
theorem Opcode.hostM2sRequest (port : Fin 2) (block : Nat) (req : HostReq) : Opcode.Statement (.hostM2sRequest port block req) := opcode_of_no_form rfl
theorem Opcode.birsp (port : Fin 2) (block : Nat) (data : Option (List Byte)) : Opcode.Statement (.birsp port block data) := opcode_of_no_form rfl
theorem Opcode.peerRequest (port pa : Nat) (req : PeerReq) : Opcode.Statement (.peerRequest port pa req) := opcode_of_no_form rfl
theorem Opcode.fecWindowEnd (lane : LaneRef) (corrected : Nat) : Opcode.Statement (.fecWindowEnd lane corrected) := opcode_of_no_form rfl
theorem Opcode.resend (dir : DirRef) (charged : List Nat) : Opcode.Statement (.resend dir charged) := opcode_of_no_form rfl
theorem Opcode.laneDrainEnd (lane : LaneRef) : Opcode.Statement (.laneDrainEnd lane) := opcode_of_no_form rfl
theorem Opcode.laneTrainPass (lane : LaneRef) : Opcode.Statement (.laneTrainPass lane) := opcode_of_no_form rfl
theorem Opcode.laneTrainFail (lane : LaneRef) : Opcode.Statement (.laneTrainFail lane) := opcode_of_no_form rfl
theorem Opcode.laneHandback (lane : LaneRef) : Opcode.Statement (.laneHandback lane) := opcode_of_no_form rfl
theorem Opcode.colourLost (dir : DirRef) (colour : Fin 2) : Opcode.Statement (.colourLost dir colour) := opcode_of_no_form rfl
theorem Opcode.colourRegained (dir : DirRef) (colour : Fin 2) : Opcode.Statement (.colourRegained dir colour) := opcode_of_no_form rfl
theorem Opcode.routingApply (dir : DirRef) : Opcode.Statement (.routingApply dir) := opcode_of_no_form rfl
theorem Opcode.storeDarkTimeout (quad place : Nat) : Opcode.Statement (.storeDarkTimeout quad place) := opcode_of_no_form rfl
theorem Opcode.asyncDarkTimeout (cmd : Nat) : Opcode.Statement (.asyncDarkTimeout cmd) := opcode_of_no_form rfl
theorem Opcode.walkDarkTimeout (core ctx page : Nat) : Opcode.Statement (.walkDarkTimeout core ctx page) := opcode_of_no_form rfl
theorem Opcode.hostDarkTimeout (port : Fin 2) (block : Nat) : Opcode.Statement (.hostDarkTimeout port block) := opcode_of_no_form rfl
theorem Opcode.peerDarkTimeout (port pa : Nat) : Opcode.Statement (.peerDarkTimeout port pa) := opcode_of_no_form rfl
theorem Opcode.noticeResend (chiplet block : Nat) : Opcode.Statement (.noticeResend chiplet block) := opcode_of_no_form rfl
theorem Opcode.asyncAccept (core : Nat) : Opcode.Statement (.asyncAccept core) := opcode_of_no_form rfl
theorem Opcode.asyncBlockWrite (cmd : Nat) : Opcode.Statement (.asyncBlockWrite cmd) := opcode_of_no_form rfl
theorem Opcode.asyncComplete (cmd : Nat) : Opcode.Statement (.asyncComplete cmd) := opcode_of_no_form rfl
theorem Opcode.ahutLoad (core : Nat) : Opcode.Statement (.ahutLoad core) := opcode_of_no_form rfl
theorem Opcode.ahutRun (core : Nat) : Opcode.Statement (.ahutRun core) := opcode_of_no_form rfl
theorem Opcode.ahutReduce (core : Nat) : Opcode.Statement (.ahutReduce core) := opcode_of_no_form rfl
theorem Opcode.asummitPred (core : Nat) : Opcode.Statement (.asummitPred core) := opcode_of_no_form rfl
theorem Opcode.asummitTopk (core : Nat) : Opcode.Statement (.asummitTopk core) := opcode_of_no_form rfl
theorem Opcode.hutLoadArrive (hut cmd : Nat) : Opcode.Statement (.hutLoadArrive hut cmd) := opcode_of_no_form rfl
theorem Opcode.hutCommandStart (hut : Nat) : Opcode.Statement (.hutCommandStart hut) := opcode_of_no_form rfl
theorem Opcode.commandSlotGrant (stack channel : Nat) : Opcode.Statement (.commandSlotGrant stack channel) := opcode_of_no_form rfl
theorem Opcode.hutDeadline (cmd : Nat) : Opcode.Statement (.hutDeadline cmd) := opcode_of_no_form rfl
theorem Opcode.summitScanDone (stack cmd : Nat) : Opcode.Statement (.summitScanDone stack cmd) := opcode_of_no_form rfl
theorem Opcode.stackListArrive (stack cmd : Nat) : Opcode.Statement (.stackListArrive stack cmd) := opcode_of_no_form rfl
theorem Opcode.drainCapture (team : TeamRef) (slot acc : Nat) : Opcode.Statement (.drainCapture team slot acc) := opcode_of_no_form rfl
theorem Opcode.drainEntry (team : TeamRef) (slot acc : Nat) : Opcode.Statement (.drainEntry team slot acc) := opcode_of_no_form rfl
theorem Opcode.draddApply (tile : Nat) : Opcode.Statement (.draddApply tile) := opcode_of_no_form rfl
theorem Opcode.draddLateFailure (tile : Nat) : Opcode.Statement (.draddLateFailure tile) := opcode_of_no_form rfl
theorem Opcode.preempt (vf : Nat) : Opcode.Statement (.preempt vf) := opcode_of_no_form rfl
theorem Opcode.haltComplete (quad : Nat) : Opcode.Statement (.haltComplete quad) := opcode_of_no_form rfl
theorem Opcode.resumego (vf : Nat) : Opcode.Statement (.resumego vf) := opcode_of_no_form rfl
theorem Opcode.restoreComplete (quad : Nat) : Opcode.Statement (.restoreComplete quad) := opcode_of_no_form rfl
theorem Opcode.runstateRunning (vf : Nat) : Opcode.Statement (.runstateRunning vf) := opcode_of_no_form rfl
theorem Opcode.runstateDesched (vf : Nat) : Opcode.Statement (.runstateDesched vf) := opcode_of_no_form rfl
theorem Opcode.runstatePaused (vf : Nat) : Opcode.Statement (.runstatePaused vf) := opcode_of_no_form rfl
theorem Opcode.kick (vf : Nat) : Opcode.Statement (.kick vf) := opcode_of_no_form rfl
theorem Opcode.trapResume (ctx : Nat) : Opcode.Statement (.trapResume ctx) := opcode_of_no_form rfl
theorem Opcode.trapRelaunch (ctx : Nat) : Opcode.Statement (.trapRelaunch ctx) := opcode_of_no_form rfl
theorem Opcode.trapEnd (ctx : Nat) : Opcode.Statement (.trapEnd ctx) := opcode_of_no_form rfl
theorem Opcode.brkResume (ctx : Nat) : Opcode.Statement (.brkResume ctx) := opcode_of_no_form rfl
theorem Opcode.verifyTimeout (quad place : Nat) : Opcode.Statement (.verifyTimeout quad place) := opcode_of_no_form rfl
theorem Opcode.invalidateGo (ctx : Nat) : Opcode.Statement (.invalidateGo ctx) := opcode_of_no_form rfl
theorem Opcode.invalidateComplete (ctx : Nat) : Opcode.Statement (.invalidateComplete ctx) := opcode_of_no_form rfl
theorem Opcode.harvestGo (ctx : Nat) : Opcode.Statement (.harvestGo ctx) := opcode_of_no_form rfl
theorem Opcode.harvestComplete (ctx : Nat) : Opcode.Statement (.harvestComplete ctx) := opcode_of_no_form rfl
theorem Opcode.collapseBegin (vf : Nat) : Opcode.Statement (.collapseBegin vf) := opcode_of_no_form rfl
theorem Opcode.collapseComplete (vf : Nat) : Opcode.Statement (.collapseComplete vf) := opcode_of_no_form rfl
theorem Opcode.wakeComplete (vf : Nat) : Opcode.Statement (.wakeComplete vf) := opcode_of_no_form rfl
theorem Opcode.selfRefreshEntry (stack : Nat) : Opcode.Statement (.selfRefreshEntry stack) := opcode_of_no_form rfl
theorem Opcode.monitorClr (monitor : Nat) : Opcode.Statement (.monitorClr monitor) := opcode_of_no_form rfl
theorem Opcode.linkUp (pf : Fin 2) (cxl : Bool) : Opcode.Statement (.linkUp pf cxl) := opcode_of_no_form rfl
theorem Opcode.arrayFree (quad : Nat) : Opcode.Statement (.arrayFree quad) := opcode_of_no_form rfl
theorem Opcode.icacheLinesDropped (quad place : Nat) : Opcode.Statement (.icacheLinesDropped quad place) := opcode_of_no_form rfl
theorem Opcode.powerOn : Opcode.Statement (.powerOn) := opcode_of_no_form rfl
theorem Opcode.oobReset : Opcode.Statement (.oobReset) := opcode_of_no_form rfl
theorem Opcode.bootRom : Opcode.Statement (.bootRom) := opcode_of_no_form rfl
theorem Opcode.fwverify : Opcode.Statement (.fwverify) := opcode_of_no_form rfl
theorem Opcode.repair : Opcode.Statement (.repair) := opcode_of_no_form rfl
theorem Opcode.junctionThrottle : Opcode.Statement (.junctionThrottle) := opcode_of_no_form rfl
theorem Opcode.junctionRecover : Opcode.Statement (.junctionRecover) := opcode_of_no_form rfl
theorem Opcode.thermalTrip : Opcode.Statement (.thermalTrip) := opcode_of_no_form rfl
theorem Opcode.priorityAging : Opcode.Statement (.priorityAging) := opcode_of_no_form rfl
theorem Opcode.energyRefill : Opcode.Statement (.energyRefill) := opcode_of_no_form rfl

end Sys2Proof.Laws
end

