-- ==== Sys2Proof/Certificates/Slice0/Obligations.lean ====
section
/-! DEFINITION. The statements for the provers, from the numbered rules of the spec. The tables in `Sys2Proof.Stated` say results in the words of the rules,
in bit-vector arithmetic, beside the model's own operations. -/
namespace Sys2Proof.Stated
open Sys2Proof.Machine

/-! ### Scalar results (R139 to R143) -/

/-- An integer saturated to 64 signed bits, and to 64 unsigned bits (R8). -/
def satSigned (x : Int) : BitVec 64 := BitVec.ofInt 64 (max (-(2 ^ 63)) (min x (2 ^ 63 - 1)))
def satUnsigned (x : Int) : BitVec 64 := BitVec.ofInt 64 (max 0 (min x (2 ^ 64 - 1)))

/-- A sum or difference under MOD[1:0]. -/
def sumOrSat (mod : BitVec 6) (wrap : BitVec 64) (signed unsigned : Int) : BitVec 64 :=
  if mod = 1 then satSigned signed else if mod = 2 then satUnsigned unsigned else wrap

/-- The table of R139 with R140: MOD and the 64-bit sources give the result. -/
def scalarOp : Instr → Option (BitVec 6 → BitVec 64 → BitVec 64 → BitVec 64)
  | .sadd _ => some fun m a b => sumOrSat m (a + b) (a.toInt + b.toInt) ((a.toNat : Int) + b.toNat)
  | .ssub _ => some fun m a b => sumOrSat m (a - b) (a.toInt - b.toInt) ((a.toNat : Int) - b.toNat)
  | .smul _ => some fun _ a b => a * b
  | .smulhi _ => some fun m a b => if m.getLsbD 0 then ((a.zeroExtend 128 * b.zeroExtend 128) >>> 64).truncate 64
      else ((a.signExtend 128 * b.signExtend 128) >>> 64).truncate 64
  | .sdiv _ => some fun m a b => if b = 0 then BitVec.allOnes 64 else if m.getLsbD 0 then a / b else a.sdiv b
  | .srem _ => some fun m a b => if b = 0 then a else if m.getLsbD 0 then a % b else a.srem b
  | .smin _ => some fun m a b => if (if m.getLsbD 0 then b.ult a else b.slt a) then b else a
  | .smax _ => some fun m a b => if (if m.getLsbD 0 then a.ult b else a.slt b) then b else a
  | .sabs _ => some fun m a _ => if a = BitVec.intMin 64 then (if m.getLsbD 0 then BitVec.intMax 64 else a) else if a.msb then -a else a
  | .sand _ => some fun _ a b => a &&& b
  | .sor _ => some fun _ a b => a ||| b
  | .sxor _ => some fun _ a b => a ^^^ b
  | .snot _ => some fun _ a _ => ~~~a
  | .sshl _ => some fun _ a b => a <<< (b.toNat % 64)
  | .sshr _ => some fun _ a b => a >>> (b.toNat % 64)
  | .ssra _ => some fun _ a b => a.sshiftRight (b.toNat % 64)
  | .srotl _ => some fun _ a b => a.rotateLeft (b.toNat % 64)
  | .spopc _ => some fun _ a _ => BitVec.ofNat 64 ((List.range 64).filter (fun i => a.getLsbD i)).length
  | .sclz _ => some fun _ a _ => BitVec.ofNat 64 ((List.range 64).takeWhile (fun i => !a.getMsbD i)).length
  | .smov _ => some fun _ a _ => a
  | _ => none

/-- The width of the field of R141, cut at bit 63; none where nothing is extracted or inserted. -/
def fieldWidth (n : Nat) (pos len : Nat) : Option Nat := if n ≤ pos ∨ len = 0 then none else some (min len (n - pos))

/-- `sbfe` and `vbfe` at a width of n bits (R141). -/
def extract (n : Nat) (signed : Bool) (a : BitVec n) (pos len : Nat) : BitVec n :=
  match fieldWidth n pos len with
  | none => 0
  | some w => if signed then (a.extractLsb' pos w).signExtend n else (a.extractLsb' pos w).zeroExtend n

/-- `sbfi` and `vbfi` at a width of n bits (R141): the field of d replaced by the low bits of a. -/
def insert (n : Nat) (d a : BitVec n) (pos len : Nat) : BitVec n :=
  match fieldWidth n pos len with
  | none => d
  | some w =>
    let m : BitVec n := BitVec.ofNat n (2 ^ w - 1)
    (d &&& ~~~(m <<< pos)) ||| ((a &&& m) <<< pos)

/-- The relations of R142, signed or unsigned. -/
def relation (n : Nat) (cc : Nat) (unsigned : Bool) (a b : BitVec n) : Bool :=
  let lt (x y : BitVec n) : Bool := if unsigned then x.ult y else x.slt y
  match cc with
  | 0 => a == b
  | 1 => a != b
  | 2 => lt a b
  | 3 => a == b || lt a b
  | 4 => lt b a
  | _ => a == b || lt b a

/-! ### Vector results (R163 to R166) -/

/-- Saturation or wrapping of an exact integer at the element width (R163). -/
def narrow (n : Nat) (signed sat : Bool) (x : Int) : BitVec n :=
  if !sat then BitVec.ofInt n x
  else if signed then BitVec.ofInt n (max (-(2 ^ (n - 1))) (min x (2 ^ (n - 1) - 1)))
  else BitVec.ofInt n (max 0 (min x (2 ^ n - 1)))

/-- The value of an element of a signed or unsigned type. -/
def value {n : Nat} (signed : Bool) (x : BitVec n) : Int := if signed then x.toInt else x.toNat

/-- The integer rows of R163 and R166 on one element of n bits: signedness, SAT, and the elements of A, B and C. -/
def intOp : Instr → Option ((n : Nat) → Bool → Bool → BitVec n → BitVec n → BitVec n → BitVec n)
  | .vadd _ => some fun n sg sat a b _ => narrow n sg sat (value sg a + value sg b)
  | .vsub _ => some fun n sg sat a b _ => narrow n sg sat (value sg a - value sg b)
  | .vmul _ => some fun n sg sat a b _ => narrow n sg sat (value sg a * value sg b)
  | .vmulhi _ => some fun n sg _ a b _ =>
      if sg then ((a.signExtend (2 * n) * b.signExtend (2 * n)) >>> n).truncate n else ((a.zeroExtend (2 * n) * b.zeroExtend (2 * n)) >>> n).truncate n
  | .vmad _ => some fun n sg sat a b c => narrow n sg sat (value sg a * value sg b + value sg c)
  | .vdiv _ => some fun n sg _ a b _ => if b = 0 then BitVec.allOnes n else if sg then a.sdiv b else a / b
  | .vrem _ => some fun _ sg _ a b _ => if b = 0 then a else if sg then a.srem b else a % b
  | .vmin _ => some fun _ sg _ a b _ => if value sg b < value sg a then b else a
  | .vmax _ => some fun _ sg _ a b _ => if value sg a < value sg b then b else a
  | .vabs _ => some fun n sg sat a _ _ => narrow n sg sat (value sg a).natAbs
  | .vneg _ => some fun n sg sat a _ _ => narrow n sg sat (-value sg a)
  | .vclamp _ => some fun _ sg _ a b c => let x := if value sg a < value sg b then b else a; if value sg c < value sg x then c else x
  | .vavg _ => some fun n sg _ a b _ => BitVec.ofInt n ((value sg a + value sg b + 1) / 2)
  | .vand _ => some fun _ _ _ a b _ => a &&& b
  | .vor _ => some fun _ _ _ a b _ => a ||| b
  | .vxor _ => some fun _ _ _ a b _ => a ^^^ b
  | .vnot _ => some fun _ _ _ a _ _ => ~~~a
  | .vshl _ => some fun n _ _ a b _ => a <<< (b.toNat % n)
  | .vshr _ => some fun n _ _ a b _ => a >>> (b.toNat % n)
  | .vsra _ => some fun n _ _ a b _ => a.sshiftRight (b.toNat % n)
  | .vrotl _ => some fun n _ _ a b _ => a.rotateLeft (b.toNat % n)
  | .vpopc _ => some fun n _ _ a _ _ => BitVec.ofNat n ((List.range n).filter (fun i => a.getLsbD i)).length
  | .vclz _ => some fun n _ _ a _ _ => BitVec.ofNat n ((List.range n).takeWhile (fun i => !a.getMsbD i)).length
  | .vbrev _ => some fun n _ _ a _ _ => BitVec.ofNat n ((List.range n).foldl (fun x i => if a.getMsbD i then x + 2 ^ i else x) 0)
  | .vbfe _ => some fun n sg _ a b c => extract n sg a b.toNat c.toNat
  | .vfsh _ => some fun n _ _ a b c => ((a ++ b) >>> (c.toNat % 32)).truncate n
  | _ => none

/-- Signed integer types: `.i32`, `.i64` and `.i16x2` (R116). -/
def signedType (ty : Nat) : Bool := ty == 3 || ty == 5 || ty == 7

/-- An element operation on a register value: one element of 32 or 64 bits, or the two halves of `.i16x2` (R116). -/
def onElements (ty : Nat) (h : (n : Nat) → BitVec n → BitVec n → BitVec n → BitVec n) (a b c : Nat) : Nat :=
  let at' (n x y z : Nat) : Nat := (h n (BitVec.ofNat n x) (BitVec.ofNat n y) (BitVec.ofNat n z)).toNat
  if ty = 7 then at' 16 a b c + 65536 * at' 16 (a / 65536) (b / 65536) (c / 65536)
  else if ty = 5 ∨ ty = 6 then at' 64 a b c else at' 32 a b c

/-- A thread with a result of one register, or of a pair, in D, poisoned or not (R157, R158). -/
def writeD (g : GCtx) (x : Nat) (p : Option PoisonKind) (t : Thread) : Thread := t.writeV g.f.wide (opNum g.f.d) x p

/-- A change of the active lanes only (R112, R157). -/
def onActive (g : GCtx) (h : Thread → Thread) (t : Thread) : Thread := if guardOn g.f.pg t then h t else t

/-- The registers of D: one, or a pair where the instruction's form says so. -/
def widthOfD (i : Instr) (f : Fields) : Nat := match i.form with | some (fm, _) => formWidth fm f f.d | none => 1

end Sys2Proof.Stated

open Sys2Proof Sys2Proof.Machine

/-! ### Scalar instructions -/

/-- R139, R140, R137: each scalar arithmetic, logic and shift instruction (`sadd`, `ssub`, `smul`, `smulhi`, `sdiv`, `srem`, `smin`, `smax`, `sabs`, `sand`, `sor`,
`sxor`, `snot`, `sshl`, `sshr`, `ssra`, `srotl`, `spopc`, `sclz`, `smov`) completes with its result and poison; nothing but D changes, and s0 discards it. -/
def Stated.ScalarArithmetic : Prop :=
  ∀ (f : Fields) (s : State) (g : GCtx), lastSlot g.pc = false →
    ∀ i ∈ [Instr.sadd f, .ssub f, .smul f, .smulhi f, .sdiv f, .srem f, .smin f, .smax f, .sabs f, .sand f, .sor f, .sxor f, .snot f, .sshl f, .sshr f, .ssra f,
        .srotl f, .spopc f, .sclz f, .smov f], s.issuing i = some g →
      ∃ h t, Stated.scalarOp i = some h ∧ exec i s = .next t ∧ s.sameButTeams t ∧
        g.After id (g.grp.setS (opNum g.f.d)
          { val := h g.f.mod (BitVec.ofNat 64 (g.once g.f.a).1) (BitVec.ofNat 64 (g.once g.f.b).1)
            poison := worst (g.once g.f.a).2 (g.once g.f.b).2 }) t

/-- R141 to R143: `sbfe`, `sbfi`, `ssel`, `smovhi`, `sget`, `saddr` and `sfirst` complete, each with its result and poison (R137); what a verified leader reads by `sget`
goes to its load-value queue (R369). A negative offset of `saddr` is bounds poison by itself (R244), and the highest-ranked kind is written (R355). Value bits under a
tag, and the choice `ssel` and `sget` make by the bits of a poisoned source, are the model's (log 10). -/
def Stated.ScalarFieldResults : Prop :=
  ∀ (f : Fields) (s : State) (g : GCtx), lastSlot g.pc = false →
    let x (o : Operand) : BitVec 64 := BitVec.ofNat 64 (g.once o).1
    let p (o : Operand) : Option PoisonKind := (g.once o).2
    let gives (i : Instr) (r : SReg) : Prop := ∃ t, exec i s = .next t ∧ s.sameButTeams t ∧ g.After id (g.grp.setS (opNum g.f.d) r) t
    let room : Prop := g.verified = true → g.queueFull (g.takenValues.length + 1) = false
    let receives (i : Instr) (r : SReg) (x : Nat × Option PoisonKind) : Prop := ∃ t, exec i s = .next t ∧ s.sameButTeams t ∧
      g.After id (let G := g.grp.setS (opNum g.f.d) r; if g.verified then G.pushValues [[x]] else G) t
    (s.issuing (.sbfe f) = some g → gives (.sbfe f)
      { val := Stated.extract 64 (g.f.mod.getLsbD 0) (x g.f.a) (x g.f.b).toNat (x g.f.c).toNat, poison := worst (p g.f.a) (worst (p g.f.b) (p g.f.c)) }) ∧
    (s.issuing (.sbfi f) = some g → gives (.sbfi f)
      { val := Stated.insert 64 (x g.f.d) (x g.f.a) (x g.f.b).toNat (x g.f.c).toNat
        poison := worst (worst (p g.f.a) (p g.f.d)) (worst (p g.f.b) (p g.f.c)) }) ∧
    (s.issuing (.ssel f) = some g → gives (.ssel f)
      { val := if x g.f.c = 0 then x g.f.b else x g.f.a, poison := worst (p g.f.c) (if x g.f.c = 0 then p g.f.b else p g.f.a) }) ∧
    (s.issuing (.smovhi f) = some g → gives (.smovhi f) { val := g.f.imm ++ (x g.f.d).truncate 32, poison := p g.f.d }) ∧
    (s.issuing (.sget f) = some g → room → ∀ u, g.lanes.find? (fun y => g.virt y == (g.once g.f.b).1) = some u → receives (.sget f)
      { val := if g.f.mod.getLsbD 0 then (u.vreg (opNum g.f.a + 1)).val ++ (u.vreg (opNum g.f.a)).val else (u.vreg (opNum g.f.a)).val.zeroExtend 64
        poison := worst (p g.f.b) (if g.f.mod.getLsbD 0 then worst (u.vreg (opNum g.f.a)).poison (u.vreg (opNum g.f.a + 1)).poison
          else (u.vreg (opNum g.f.a)).poison) }
      (if g.f.mod.getLsbD 0 then u.vpair (opNum g.f.a) else ((u.vreg (opNum g.f.a)).val.toNat, (u.vreg (opNum g.f.a)).poison))) ∧
    (s.issuing (.sget f) = some g → room → g.lanes.all (fun y => g.virt y != (g.once g.f.b).1) = true → receives (.sget f) { val := 0, poison := p g.f.b } (0, none)) ∧
    (s.issuing (.saddr f) = some g →
      let r := BufRec.of (g.record g.f.a).bits
      let tag := (g.record g.f.a).poison
      let off : Int := (x g.f.b).toNat * r.step + (x g.f.c).toInt
      let outside := (tag = none ∧ r.extent = 0) ∨ (p g.f.c = none ∧ (x g.f.c).toInt < 0)
      let kind := worst (worst tag (worst (p g.f.b) (p g.f.c))) (if outside then some .bounds else none)
      gives (.saddr f) (if kind.isSome then { val := 0, poison := kind }
        else if (r.extent : Int) < off + r.bytes then { val := 0, poison := some .bounds }
        else { val := BitVec.ofNat 64 (r.base + swizzle r.swz off.toNat), poison := none })) ∧
    (s.issuing (.sfirst f) = some g →
      let hits := (g.lanes.filter (fun y => y.pred (opPreg g.f.a) != g.f.mod.getLsbD 0)).map g.virt
      gives (.sfirst f) { val := BitVec.ofNat 64 (hits.headD 32), poison := none })

/-- R137, R139 to R141, R143, R244, R355: the result and the poison of each scalar instruction that writes an s-register; nothing but D changes, and s0
discards it. The value bits under poison, and that ssel chooses by the bits of a poisoned c and sget by those of a poisoned lane operand, are the
model's choice (log 10). -/
def Obligations.ScalarResults : Prop := Stated.ScalarArithmetic ∧ Stated.ScalarFieldResults

/-- R142: `scmp` compares its sources as CC and U say and writes p(D) of every SUB thread, and nothing else; p7 stays true. With a CC of 6 or 7, otherwise legal, it
traps with ILLMOD once every earlier instruction of its group has completed. -/
def Stated.ScalarCompare : Prop :=
  (∀ (f : Fields) (s : State) (g : GCtx) (fm : Form), (Instr.scmp f).form = some (fm, f) → s.gctx? = some g → g.repNow = none → 6 ≤ f.mod.toNat % 8 →
    illegal g.issueCtx fm { f with mod := f.mod &&& 8 } = none → s.quiet g.site = true →
    exec (.scmp f) s = .next (s.takeTrap g.site (g.trapInfo 0x15 g.lanes 0 0 0))) ∧
  ∀ (f : Fields) (s : State) (g : GCtx), s.issuing (.scmp f) = some g → lastSlot g.pc = false →
    (g.once g.f.a).2 = none → (g.once g.f.b).2 = none →
    ∃ t, exec (.scmp f) s = .next t ∧ s.sameButTeams t ∧
      g.After (fun x => x.setPred (opPreg g.f.d)
        (Stated.relation 64 (g.f.mod.toNat % 8) (g.f.mod.getLsbD 3) (BitVec.ofNat 64 (g.once g.f.a).1) (BitVec.ofNat 64 (g.once g.f.b).1))) g.grp t

/-- R142: `scmp` compares its sources as CC and U say and writes p(D) of every SUB thread, and nothing else; p7 stays true. With a CC of 6 or 7, otherwise
legal, it traps with ILLMOD once every earlier instruction of its group has completed. -/
def Obligations.ScalarCompares : Prop := Stated.ScalarCompare

/-- R137, R357: a poisoned source of `scmp` raises the poison-consumption trap: the trap is taken for every SUB thread with the code of the higher-ranked kind. -/
def Stated.ScalarComparePoison : Prop :=
  ∀ (f : Fields) (s : State) (g : GCtx) (k : PoisonKind), s.issuing (.scmp f) = some g → worst (g.once g.f.a).2 (g.once g.f.b).2 = some k → g.s.quiet g.site = true →
    exec (.scmp f) s = .next (g.s.takeTrap g.site (g.trapInfo k.code g.lanes 0 0 0))

/-! ### Vector instructions -/

/-- R112, R157, R160: each vector instruction (`vadd`, `vsub`, `vmul`, `vmulhi`, `vmad`, `vfma`, `vfms`, `vfnma`, `vdiv`, `vrem`, `vmin`, `vmax`, `vabs`,
`vneg`, `vclamp`, `vavg`, `vsad`, `vdot4`, `vdot2`, `vsetp`, `vsel`, `vmov`, `vand`, `vor`, `vxor`, `vnot`, `vlut3`, `vshl`, `vshr`, `vsra`, `vrotl`,
`vfsh`, `vpopc`, `vclz`, `vbrev`, `vbfe`, `vbfi`, `vbytesel`, `vrcp`, `vrsqrt`, `vsqrt`, `vexp2`, `vlog2`, `vsin`, `vcos`, `vtanh`, `vrint`, `vfrac`,
`vldexp`, `vgetexp`, `vclass`, `vcpsgn`, `vcvt`, `vcvtp`, `vqn8`, `vqn4`, `vbpack`, `vbunpack`, `vbscale`, `vbfmt`, `vbzero`, `vcairn`, `vshfl`,
`vshfup`, `vshfdn`, `vshfx`, `vballot`, `vpoll`, `vredadd`, `vredmin`, `vredmax`, `vscan`, `vmatch`) completes where it consumes no poison and finds
its drain-port entry. In each active lane it changes only the registers of D, or p(D), and sets conditions in fstat; inactive lanes, s-, b- and
h-registers and everything else stay. That the value bits under poison are 0 is the model's choice (log 10). -/
def Obligations.VectorFrame : Prop :=
  ∀ (f : Fields) (s : State) (g g' : GCtx), g.takeEntry = some g' → lastSlot g.pc = false →
    ∀ i ∈ [Instr.vadd f, .vsub f, .vmul f, .vmulhi f, .vmad f, .vfma f, .vfms f, .vfnma f, .vdiv f, .vrem f, .vmin f, .vmax f, .vabs f, .vneg f, .vclamp f,
        .vavg f, .vsad f, .vdot4 f, .vdot2 f, .vsetp f, .vsel f, .vmov f, .vand f, .vor f, .vxor f, .vnot f, .vlut3 f, .vshl f, .vshr f, .vsra f, .vrotl f,
        .vfsh f, .vpopc f, .vclz f, .vbrev f, .vbfe f, .vbfi f, .vbytesel f, .vrcp f, .vrsqrt f, .vsqrt f, .vexp2 f, .vlog2 f, .vsin f, .vcos f, .vtanh f,
        .vrint f, .vfrac f, .vldexp f, .vgetexp f, .vclass f, .vcpsgn f, .vcvt f, .vcvtp f, .vqn8 f, .vqn4 f, .vbpack f, .vbunpack f, .vbscale f, .vbfmt f,
        .vbzero f, .vcairn f, .vshfl f, .vshfup f, .vshfdn f, .vshfx f, .vballot f, .vpoll f, .vredadd f, .vredmin f, .vredmax f, .vscan f, .vmatch f],
    s.issuing i = some g →
    (i = .vsetp f → worstLanes (g'.actives.map (fun t => (t, worst (g'.typed t g'.f.type g'.f.a).2 (g'.typed t g'.f.type g'.f.b).2))) = none) →
    ∃ t h, exec i s = .next t ∧ s.sameButTeams t ∧ g'.After (Stated.onActive g' h) g'.grp t ∧
      ∀ x, h x = { x with v := (h x).v, p := (h x).p, fstat := (h x).fstat } ∧
        (∀ m, (∀ n, g'.f.d = .v n → m < n.toNat ∨ n.toNat + Stated.widthOfD i g'.f ≤ m) → (h x).vreg m = x.vreg m) ∧
        (∀ q, g'.f.d ≠ .p q → (h x).pred q = x.pred q) ∧
        (h x).fstat &&& ~~~(0x1F : Word) = x.fstat &&& ~~~(0x1F : Word) ∧ (h x).fstat &&& x.fstat = x.fstat

/-- R163, R166, R158: each integer vector instruction (`vadd`, `vsub`, `vmul`, `vmulhi`, `vmad`, `vdiv`, `vrem`, `vmin`, `vmax`, `vabs`, `vneg`, `vclamp`, `vavg`, `vand`,
`vor`, `vxor`, `vnot`, `vshl`, `vshr`, `vsra`, `vrotl`, `vpopc`, `vclz`, `vbrev`, `vbfe`, `vfsh` on an integer type) completes with its result in each active lane, element by
element, and the highest-ranked poison of its sources. -/
def Stated.VectorIntegerRows : Prop :=
  ∀ (f : Fields) (s : State) (g g' : GCtx), g.takeEntry = some g' → lastSlot g.pc = false → 3 ≤ g.f.type →
    ∀ i ∈ [Instr.vadd f, .vsub f, .vmul f, .vmulhi f, .vmad f, .vdiv f, .vrem f, .vmin f, .vmax f, .vabs f, .vneg f, .vclamp f, .vavg f, .vand f, .vor f, .vxor f,
        .vnot f, .vshl f, .vshr f, .vsra f, .vrotl f, .vpopc f, .vclz f, .vbrev f, .vbfe f, .vfsh f], s.issuing i = some g →
    ∃ h t, Stated.intOp i = some h ∧ exec i s = .next t ∧ s.sameButTeams t ∧
      g'.After (Stated.onActive g' (fun x =>
        let v (o : Operand) := g'.typed x g'.f.type o
        Stated.writeD g' (Stated.onElements g'.f.type (fun n => h n (Stated.signedType g'.f.type) (g'.f.mod.getLsbD 0)) (v g'.f.a).1 (v g'.f.b).1 (v g'.f.c).1)
          (worst (v g'.f.a).2 (worst (v g'.f.b).2 (v g'.f.c).2)) x)) g'.grp t

/-- R166, R167: the remaining bit and comparison instructions in each active lane. `vsetp` combines its relation with p(C), and a p7 destination stays true; a
value of `vsel` takes its poison from the operand selected only (R158). -/
def Stated.VectorSelectResults : Prop :=
  ∀ (f : Fields) (s : State) (g g' : GCtx), g.takeEntry = some g' → lastSlot g.pc = false →
    let v (x : Thread) (o : Operand) := g'.typed x g'.f.type o
    let word (x : Thread) (o : Operand) : Word := BitVec.ofNat 32 (v x o).1
    let sg := Stated.signedType g'.f.type
    let sat := g'.f.mod.getLsbD 0
    let three (x : Thread) := worst (v x g'.f.a).2 (worst (v x g'.f.b).2 (v x g'.f.c).2)
    let gives (i : Instr) (h : Thread → Thread) : Prop := s.issuing i = some g → ∃ t, exec i s = .next t ∧ s.sameButTeams t ∧ g'.After (Stated.onActive g' h) g'.grp t
    let byte (x : Word) (k : Nat) : BitVec 8 := x.extractLsb' (8 * k) 8
    gives (.vsad f) (fun x =>
      let d : Int := (Stated.value sg (word x g'.f.a) - Stated.value sg (word x g'.f.b)).natAbs + (word x g'.f.c).toNat
      Stated.writeD g' (Stated.narrow 32 false sat d).toNat (three x) x) ∧
    gives (.vdot4 f) (fun x =>
      let part (k : Nat) : Int := Stated.value sg (byte (word x g'.f.a) k) * Stated.value sg (byte (word x g'.f.b) k)
      Stated.writeD g' (Stated.narrow 32 sg sat (Stated.value sg (word x g'.f.c) + part 0 + part 1 + part 2 + part 3)).toNat (three x) x) ∧
    gives (.vlut3 f) (fun x =>
      let look (n : Nat) (a b c : BitVec n) : BitVec n := BitVec.ofNat n ((List.range n).foldl (fun r j =>
        if g'.f.imm.getLsbD ((a.getLsbD j).toNat + 2 * (b.getLsbD j).toNat + 4 * (c.getLsbD j).toNat) then r + 2 ^ j else r) 0)
      Stated.writeD g' (Stated.onElements g'.f.type look (v x g'.f.a).1 (v x g'.f.b).1 (v x g'.f.c).1) (three x) x) ∧
    gives (.vbfi f) (fun x =>
      let n := widthOf g'.f.type
      let old : BitVec n := BitVec.ofNat n (v x g'.f.d).1
      Stated.writeD g' (Stated.insert n old (BitVec.ofNat n (v x g'.f.a).1) (v x g'.f.b).1 (v x g'.f.c).1).toNat
        (worst (three x) (v x g'.f.d).2) x) ∧
    gives (.vbytesel f) (fun x =>
      let pick (i : Nat) : BitVec 8 :=
        let sel := byte (word x g'.f.c) i
        let k := byte (if sel.getLsbD 2 then word x g'.f.b else word x g'.f.a) (sel.toNat % 4)
        match sel.toNat / 8 % 4 with
        | 0 => k
        | 1 => 0
        | 2 => if k.msb then 0xFF else 0
        | _ => 0xFF
      Stated.writeD g' (pick 3 ++ pick 2 ++ pick 1 ++ pick 0 : Word).toNat (three x) x) ∧
    gives (.vsel f) (fun x =>
      let o := if x.pred (opPreg g'.f.c) then g'.f.a else g'.f.b
      Stated.writeD g' (v x o).1 (v x o).2 x) ∧
    gives (.vmov f) (fun x => Stated.writeD g' (v x g'.f.a).1 (v x g'.f.a).2 x) ∧
    (3 ≤ g'.f.type → worstLanes (g'.actives.map (fun x => (x, worst (v x g'.f.a).2 (v x g'.f.b).2))) = none →
      gives (.vsetp f) (fun x =>
        let n := widthOf g'.f.type
        let r := Stated.relation n (g'.f.imm.toNat % 16) (!sg) (BitVec.ofNat n (v x g'.f.a).1) (BitVec.ofNat n (v x g'.f.b).1)
        let c := x.pred (opPreg g'.f.c)
        x.setPred (opPreg g'.f.d) (match g'.f.imm.toNat / 16 % 4 with | 0 => r | 1 => r && c | 2 => r || c | _ => xor r c)))

/-- R158, R163, R166, R167: the result of each integer, bit and comparison instruction of the vector class in each active lane. -/
def Obligations.VectorIntegerResults : Prop := Stated.VectorIntegerRows ∧ Stated.VectorSelectResults

namespace Sys2Proof.Stated

/-- The float rows of R163, R164, R168, R170 and R171 on one element: the format and the mode, and the encodings of A, B and C, give an encoding and its
conditions; each is one rounding of an exact value (R51, R52) or a bit operation. -/
def floatOp : Instr → Option (Fmt → RMode → Nat → Nat → Nat → Nat × FFlags)
  | .vadd _ => some fun F m a b _ => F.add m (F.unpack a) (F.unpack b)
  | .vsub _ => some fun F m a b _ => F.add m (F.unpack a) (F.unpack b).negate
  | .vmul _ => some fun F m a b _ => F.mul m (F.unpack a) (F.unpack b)
  | .vdiv _ => some fun F m a b _ => F.div m (F.unpack a) (F.unpack b)
  | .vfma _ => some fun F m a b c => F.fma m (F.unpack a) (F.unpack b) (F.unpack c)
  | .vfms _ => some fun F m a b c => F.fma m (F.unpack a) (F.unpack b) (F.unpack c).negate
  | .vfnma _ => some fun F m a b c => F.fma m (F.unpack a).negate (F.unpack b) (F.unpack c)
  | .vmin _ => some fun F _ a b _ => F.minmax false a b
  | .vmax _ => some fun F _ a b _ => F.minmax true a b
  | .vclamp _ => some fun F _ a b c => let x := F.minmax true a b; let y := F.minmax false x.1 c; (y.1, x.2 ||| y.2)
  | .vabs _ => some fun F _ a _ _ => (a % F.signBit, 0)
  | .vneg _ => some fun F _ a _ _ => (a ^^^ F.signBit, 0)
  | .vsqrt _ => some fun F m a _ _ => F.sqrt m (F.unpack a)
  | .vrint _ => some fun F m a _ _ => F.rint m a
  | .vfrac _ => some fun F m a _ _ => F.frac m (F.unpack a)
  | .vclass _ => some fun F _ a _ _ => (2 ^ F.classBit a, 0)
  | .vcpsgn _ => some fun F _ a b _ => (a % F.signBit + b / F.signBit % 2 * F.signBit, 0)
  | _ => none

/-- The special operands of R169 and some exact results, in FP32 encodings: result and conditions (1 NV, 2 DZ). -/
def specialResult : Instr → Word → Option (Word × FFlags)
  | .vrcp _, w => [(0x00000000, 0x7F800000, 2), (0x80000000, 0xFF800000, 2), (0x7F800000, 0, 0), (0xFF800000, 0x80000000, 0), (0x40000000, 0x3F000000, 0)].lookup w
  | .vrsqrt _, w => [(0x00000000, 0x7F800000, 2), (0x80000000, 0xFF800000, 2), (0x7F800000, 0, 0), (0xBF800000, 0x7FC00000, 1), (0x40800000, 0x3F000000, 0)].lookup w
  | .vexp2 _, w => [(0xFF800000, 0, 0), (0x7F800000, 0x7F800000, 0), (0x00000000, 0x3F800000, 0), (0x80000000, 0x3F800000, 0), (0x40000000, 0x40800000, 0)].lookup w
  | .vlog2 _, w => [(0x00000000, 0xFF800000, 2), (0x80000000, 0xFF800000, 2), (0x3F800000, 0, 0), (0x7F800000, 0x7F800000, 0), (0xBF800000, 0x7FC00000, 1)].lookup w
  | .vsin _, w => [(0x00000000, 0, 0), (0x80000000, 0x80000000, 0), (0x7F800000, 0x7FC00000, 1), (0xFF800000, 0x7FC00000, 1)].lookup w
  | .vcos _, w => [(0x00000000, 0x3F800000, 0), (0x80000000, 0x3F800000, 0), (0x7F800000, 0x7FC00000, 1), (0xFF800000, 0x7FC00000, 1)].lookup w
  | .vtanh _, w => [(0x00000000, 0, 0), (0x80000000, 0x80000000, 0), (0x7F800000, 0x3F800000, 0), (0xFF800000, 0xBF800000, 0)].lookup w
  | .vsqrt _, w => [(0x00000000, 0, 0), (0x80000000, 0x80000000, 0), (0x7F800000, 0x7F800000, 0), (0xBF800000, 0x7FC00000, 1), (0x40800000, 0x40000000, 0)].lookup w
  | _, _ => none

/-- A float operation on both halves of a packed type, or on one FP32 element; conditions of both halves are raised (R160). -/
def onFloats (ty : Nat) (h : Fmt → Nat → Nat → Nat → Nat × FFlags) (a b c : Nat) : Nat × FFlags :=
  if ty = 0 then h fp32 a b c
  else
    let F := if ty = 1 then fp16 else bf16
    let lo := h F (a % 65536) (b % 65536) (c % 65536)
    let hi := h F (a / 65536 % 65536) (b / 65536 % 65536) (c / 65536 % 65536)
    (lo.1 + 65536 * hi.1, lo.2 ||| hi.2)

end Sys2Proof.Stated

/-- R51, R158, R160, R163: each float vector instruction (`vadd`, `vsub`, `vmul`, `vdiv`, `vfma`, `vfms`, `vfnma`, `vmin`, `vmax`, `vclamp`, `vabs`, `vneg`, `vsqrt`,
`vrint`, `vfrac`, `vclass`, `vcpsgn` on a float type) completes with its result in each active lane under the lane's rounding mode; a poisoned result raises no condition. -/
def Stated.VectorFloatRows : Prop :=
  ∀ (f : Fields) (s : State) (g g' : GCtx), g.takeEntry = some g' → lastSlot g.pc = false → g.f.type ≤ 2 →
    ∀ i ∈ [Instr.vadd f, .vsub f, .vmul f, .vdiv f, .vfma f, .vfms f, .vfnma f, .vmin f, .vmax f, .vclamp f, .vabs f, .vneg f, .vsqrt f, .vrint f, .vfrac f, .vclass f,
        .vcpsgn f],
    s.issuing i = some g →
    ∃ h t, Stated.floatOp i = some h ∧ exec i s = .next t ∧ s.sameButTeams t ∧
      g'.After (Stated.onActive g' (fun x =>
        let v (o : Operand) := g'.typed x g'.f.type o
        let r := Stated.onFloats g'.f.type (fun F => h F (x.mode g'.f.rnd)) (v g'.f.a).1 (v g'.f.b).1 (v g'.f.c).1
        let p := worst (v g'.f.a).2 (worst (v g'.f.b).2 (v g'.f.c).2)
        let y := Stated.writeD g' r.1 p x
        if p.isSome then y else y.raise r.2)) g'.grp t

/-- R169: an FP32 elementary function completes, and an active lane with a special operand gets the result and the conditions the table gives. -/
def Stated.ElementarySpecials : Prop :=
  ∀ (i : Instr) (s : State) (g g' : GCtx), (∃ f, i ∈ [.vrcp f, .vrsqrt f, .vsqrt f, .vexp2 f, .vlog2 f, .vsin f, .vcos f, .vtanh f]) →
    s.issuing i = some g → g.takeEntry = some g' → lastSlot g.pc = false → g.f.type = 0 →
    ∃ (t : State) (h : Thread → Thread), exec i s = .next t ∧ s.sameButTeams t ∧
      g'.After (Stated.onActive g' (fun x =>
        let v := g'.typed x 0 g'.f.a
        match v.2, Stated.specialResult i (BitVec.ofNat 32 v.1) with
        | none, some (r, fl) => (x.writeV false (opNum g'.f.d) r.toNat none).raise fl
        | _, _ => h x)) g'.grp t

namespace Sys2Proof.Stated

/-- A lane's result in one register, with its poison, or with its conditions (R158, R160). -/
def laneResult (g : GCtx) (r : Nat × FFlags) (p : Option PoisonKind) (x : Thread) : Thread :=
  let y := x.writeV false (opNum g.f.d) r.1 p
  if p.isSome then y else y.raise r.2

/-- The relations of R167 on FP32 values: a NaN is unordered, and only `.ne` and `.un` then hold. -/
def floatRelation (cc : Nat) (a b : FVal) : Bool :=
  let ordered := !a.isNan && !b.isNan
  match cc with
  | 0 => ordered && !a.lt b && !b.lt a
  | 1 => !ordered || a.lt b || b.lt a
  | 2 => ordered && a.lt b
  | 3 => ordered && !b.lt a
  | 4 => ordered && b.lt a
  | 5 => ordered && !a.lt b
  | 6 => !ordered
  | _ => ordered

end Sys2Proof.Stated

/-- R158, R160, R165 to R167, R170: `vdot2` of every type rounds its sum of products once, or narrows it once; `vldexp` rounds a × 2^b, b signed at the element's width;
`vgetexp` gives the exponent, or an end of the integer range; the float form of `vsetp` is unordered on a NaN, and only a signalling NaN raises NV. -/
def Stated.FloatProductsAndExponents : Prop :=
  ∀ (f : Fields) (s : State) (g g' : GCtx), g.takeEntry = some g' → lastSlot g.pc = false →
    let ty := g'.f.type
    let v (x : Thread) (o : Operand) := g'.typed x ty o
    let gives (i : Instr) (h : Thread → Thread) : Prop := s.issuing i = some g → ∃ t, exec i s = .next t ∧ s.sameButTeams t ∧ g'.After (Stated.onActive g' h) g'.grp t
    gives (.vdot2 f) (fun x =>
      let a := v x g'.f.a
      let b := v x g'.f.b
      let c := g'.typed x (if ty = 7 then 3 else 0) g'.f.c
      let half (n : Nat) : Int := (BitVec.ofNat 16 n).toInt
      let F := if ty = 1 then fp16 else bf16
      let lo := mulVal (F.unpack (a.1 % 65536)) (F.unpack (b.1 % 65536))
      let hi := mulVal (F.unpack (a.1 / 65536)) (F.unpack (b.1 / 65536))
      let sum := fp32.fsum (x.mode g'.f.rnd) [lo.1, hi.1, fp32.unpack c.1]
      Stated.laneResult g' (if ty = 7
        then ((Stated.narrow 32 true (g'.f.mod.getLsbD 0) ((BitVec.ofNat 32 c.1).toInt + half a.1 * half b.1 + half (a.1 / 65536) * half (b.1 / 65536))).toNat, 0)
        else (sum.1, lo.2 ||| hi.2 ||| sum.2)) (worst a.2 (worst b.2 c.2)) x) ∧
    gives (.vldexp f) (fun x =>
      let a := v x g'.f.a
      let b := g'.typed x (if ty = 0 then 3 else 7) g'.f.b
      let amount (n : Nat) : Int := if ty = 0 then (BitVec.ofNat 32 n).toInt else (BitVec.ofNat 16 n).toInt
      Stated.laneResult g' (Stated.onFloats ty (fun F a b _ => F.round (x.mode g'.f.rnd) ((F.unpack a).scale (amount b))) a.1 b.1 0) (worst a.2 b.2) x) ∧
    gives (.vgetexp f) (fun x =>
      let w := if ty = 0 then 32 else 16
      Stated.laneResult g' (Stated.onFloats ty (fun F a _ _ => match F.unpack a with
        | .nan sg => ((BitVec.intMin w).toNat, if sg then flagNv else 0)
        | .inf _ => ((BitVec.intMax w).toNat, 0)
        | .fin _ m e => ((if m = 0 then BitVec.intMin w else BitVec.ofInt w (e + (Nat.log2 m : Int))).toNat, 0)) (v x g'.f.a).1 0 0)
        (worst (v x g'.f.a).2 (worst (v x g'.f.b).2 (v x g'.f.c).2)) x) ∧
    (ty = 0 → worstLanes (g'.actives.map (fun x => (x, worst (v x g'.f.a).2 (v x g'.f.b).2))) = none →
      gives (.vsetp f) (fun x =>
        let a := fp32.unpack (v x g'.f.a).1
        let b := fp32.unpack (v x g'.f.b).1
        let r := Stated.floatRelation (g'.f.imm.toNat % 16) a b
        let c := x.pred (opPreg g'.f.c)
        (x.setPred (opPreg g'.f.d) (match g'.f.imm.toNat / 16 % 4 with | 0 => r | 1 => r && c | 2 => r || c | _ => xor r c)).raise
          (if a.isSnan || b.isSnan then flagNv else 0)))

/-- R51, R158, R160, R163 to R171: the results of the float vector instructions, of the elementary functions at their special operands, and of `vdot2`,
`vldexp`, `vgetexp` and the float `vsetp`. That vabs and vneg take the rounding codes 000 to 100, with no effect, is the model's reading (log 29). -/
def Obligations.VectorFloatResults : Prop := Stated.VectorFloatRows ∧ Stated.ElementarySpecials ∧ Stated.FloatProductsAndExponents

/-- R180, R181: ballots, polls, matches and shuffles over the active lanes, in virtual lane numbers. -/
def Stated.LaneMoves : Prop :=
  ∀ (f : Fields) (s : State) (g g' : GCtx), g.takeEntry = some g' → lastSlot g.pc = false →
    let v (x : Thread) := g'.typed x g'.f.type g'.f.a
    let yes (x : Thread) : Bool := x.pred (opPreg g'.f.a) != g'.f.mod.getLsbD 0
    let mask (l : List Thread) : Nat := (l.foldl (fun (m : BitVec 32) x => m ||| BitVec.ofNat 32 (2 ^ (g'.virt x % 32))) 0).toNat
    let gives (i : Instr) (h : Thread → Thread) : Prop := s.issuing i = some g → ∃ t, exec i s = .next t ∧ s.sameButTeams t ∧ g'.After (Stated.onActive g' h) g'.grp t
    let source (x : Thread) (j : Option Nat) : Thread := match j with
      | some j => if j < 32 then (g'.lanes.find? (fun y => g'.virt y == j)).getD x else x
      | none => x
    let amount (x : Thread) : Nat := (g'.typed x 4 g'.f.b).1
    let moves (h : Nat → Nat → Option Nat) (i : Instr) : Prop := (∀ x ∈ g'.actives, (g'.typed x 4 g'.f.b).2 = none) →
      gives i (fun x => let u := source x (h (g'.virt x) (amount x)); Stated.writeD g' (v u).1 (v u).2 x)
    gives (.vballot f) (fun x => x.writeV false (opNum g'.f.d) (mask (g'.actives.filter yes)) none) ∧
    gives (.vpoll f) (fun x => x.setPred (opPreg g'.f.d) (match g'.f.mod.toNat % 8 / 2 with
      | 0 => g'.actives.any yes
      | 1 => g'.actives.all yes
      | 2 => g'.actives.all yes || !g'.actives.any yes
      | _ => !g'.actives.any yes)) ∧
    gives (.vmatch f) (fun x => Stated.writeD g' (mask (g'.actives.filter (fun y => (v y).2.isNone && (v y).1 == (v x).1))) (v x).2 x) ∧
    moves (fun _ b => some b) (.vshfl f) ∧
    moves (fun k b => if b ≤ k then some (k - b) else none) (.vshfup f) ∧
    moves (fun k b => some (k + b)) (.vshfdn f) ∧
    moves (fun k b => some (Nat.xor k b)) (.vshfx f)

namespace Sys2Proof.Stated

/-- A float type: `.f32`, `.f16` or `.bf16`, with its format (R116). -/
def floatFmt (ty : Nat) : Option Fmt := match ty with | 0 => some fp32 | 1 => some fp16 | 2 => some bf16 | _ => none

/-- The bits of an element (R116). -/
def elementBits (ty : Nat) : Nat := if ty = 5 ∨ ty = 6 then 64 else if ty = 1 ∨ ty = 2 ∨ ty = 7 then 16 else 32

/-- A sum over a set of elements: a float sum rounded once (R165), +0 for the empty set, or the exact integer sum narrowed once (R181). -/
def sumOver (ty : Nat) (mode : RMode) (sat : Bool) (l : List Nat) : Nat × FFlags :=
  match floatFmt ty with
  | some F => if l = [] then (0, 0) else F.fsum mode (l.map F.unpack)
  | none => ((narrow (elementBits ty) (signedType ty) sat (l.map (fun x => value (signedType ty) (BitVec.ofNat (elementBits ty) x))).sum).toNat, 0)

/-- The least or the greatest of the elements (R163); of floats under R164, whose conditions are raised. -/
def bestOver (wantMax : Bool) (ty : Nat) : List Nat → Nat × FFlags
  | [] => (0, 0)
  | x :: l =>
    match floatFmt ty with
    | some F => l.foldl (fun r y => let z := F.minmax wantMax r.1 y; (z.1, r.2 ||| z.2)) (F.minmax wantMax x x)
    | none =>
      let less (a b : Nat) : Bool := value (signedType ty) (BitVec.ofNat (elementBits ty) a) < value (signedType ty) (BitVec.ofNat (elementBits ty) b)
      (l.foldl (fun a y => if wantMax = less a y then y else a) x, 0)

/-- A reduction of register values: each half of a packed type by itself (R181). -/
def onHalves (ty : Nat) (h : List Nat → Nat × FFlags) (l : List Nat) : Nat × FFlags :=
  if elementBits ty = 16 then
    let lo := h (l.map (· % 65536))
    let hi := h (l.map (· / 65536))
    (lo.1 + 65536 * hi.1, lo.2 ||| hi.2)
  else h l

end Sys2Proof.Stated

/-- R181: `vredadd`, `vredmin`, `vredmax` and `vscan` of every type complete: each active lane receives the reduction of its set of lanes, packed halves apart, with its
conditions; a poisoned term poisons it. -/
def Stated.LaneSums : Prop :=
  ∀ (f : Fields) (s : State) (g g' : GCtx), g.takeEntry = some g' → lastSlot g.pc = false →
    let ty := g'.f.type
    let v (x : Thread) := g'.typed x ty g'.f.a
    let gives (i : Instr) (set : Thread → List Thread) (h : Thread → List Nat → Nat × FFlags) : Prop := s.issuing i = some g →
      ∃ t, exec i s = .next t ∧ s.sameButTeams t ∧ g'.After (Stated.onActive g' (fun x =>
        let r := Stated.onHalves ty (h x) ((set x).map (fun y => (v y).1))
        let p := worstOf ((set x).map (fun y => (v y).2))
        let y := Stated.writeD g' r.1 p x
        if p.isSome then y else y.raise r.2)) g'.grp t
    let sum (x : Thread) := Stated.sumOver ty (x.mode g'.f.rnd) (g'.f.mod.getLsbD 0)
    gives (.vredadd f) (fun _ => g'.actives) sum ∧
    gives (.vredmin f) (fun _ => g'.actives) (fun _ => Stated.bestOver false ty) ∧
    gives (.vredmax f) (fun _ => g'.actives) (fun _ => Stated.bestOver true ty) ∧
    gives (.vscan f) (fun x => g'.actives.filter (fun y => if g'.f.imm.getLsbD 0 then g'.virt y < g'.virt x else g'.virt y ≤ g'.virt x)) sum

/-- R164, R165, R180, R181: ballots, polls, matches, shuffles, and the sums, scans, minima and maxima of every type over the active lanes. The value bits
under poison are the model's choice (log 10). -/
def Obligations.LaneResults : Prop := Stated.LaneMoves ∧ Stated.LaneSums

namespace Sys2Proof.Stated

/-- The integer nearest to m × 2^e, ties to even, and whether it differs from it (R51, RNE). -/
def nearestEven (m : Nat) (e : Int) : Nat × Bool :=
  if 0 ≤ e then (m * 2 ^ e.toNat, false)
  else
    let d := 2 ^ (-e).toNat
    let k := m / d
    (if d < 2 * (m % d) ∨ (2 * (m % d) = d ∧ k % 2 = 1) then k + 1 else k, m % d != 0)

/-- The code of a value under scale byte s, within ±lim in w bits, with its conditions (R56, R175). -/
def quantised (lim w : Nat) (v : FVal) (s : Nat) : Nat × FFlags :=
  let code (n : Bool) (k : Nat) : Nat := (BitVec.ofInt w (if n then -(k : Int) else k)).toNat
  match v with
  | .nan _ => (2 ^ (w - 1), flagNv)
  | .inf n => if s = 255 then (2 ^ (w - 1), flagNv) else (code n lim, flagOf ||| flagNx)
  | .fin n m e =>
    let q := nearestEven m (e + 127 - s)
    if s = 255 then (2 ^ (w - 1), flagNv)
    else if lim < q.1 then (code n lim, flagOf ||| flagNx)
    else (code n q.1, if q.2 then flagNx else 0)

/-- The width and the signedness of an integer destination of R172. -/
def destination (d : Nat) : Nat × Bool :=
  if d ≤ 4 then (32, d = 3) else if d ≤ 6 then (64, d = 5) else if d ≤ 8 then (16, d = 7) else (8, d = 9)

/-- One element converted from a source type to a destination of R172 (R54). -/
def converted (src dst : Nat) (mode : RMode) (sat : Bool) (x : Nat) : Nat × FFlags :=
  let k : Int := value (signedType src) (BitVec.ofNat (elementBits src) x)
  let d := destination dst
  match floatFmt src, floatFmt dst with
  | some F, some D => D.round mode (F.unpack x)
  | none, some D => D.round mode (.fin (k < 0) k.natAbs 0)
  | some F, none =>
    let ends : Int × Int := if d.2 then (-(2 ^ (d.1 - 1)), 2 ^ (d.1 - 1) - 1) else (0, 2 ^ d.1 - 1)
    let r := toIntSat mode ends.1 ends.2 (F.unpack x)
    ((BitVec.ofInt d.1 r.1).toNat, r.2)
  | none, none => ((narrow d.1 d.2 sat k).toNat, 0)

/-- Byte i of the word `vbpack` builds at position w of its block, the source registers it uses, and its conditions (R176). -/
def packedByte (fmt s w : Nat) (mode : RMode) (v : Nat → VReg) (i : Nat) : List VReg × Nat × FFlags :=
  let k := 4 * w + i
  let code (lim n : Nat) (x : VReg) := quantised lim n (fp32.unpack x.val.toNat) s
  if k = 0 then ([], fmt, 0)
  else if k = 1 then ([], s, 0)
  else if s = 255 then ([], 0, flagNv)
  else match fmt with
    | 0x10 => ([v i], code 127 8 (v i))
    | 0x11 => let lo := code 7 4 (v (2 * i)); let hi := code 7 4 (v (2 * i + 1)); ([v (2 * i), v (2 * i + 1)], lo.1 + 16 * hi.1, lo.2 ||| hi.2)
    | _ =>
      let r := (if fmt = 0x20 then bf16 else fp16).round mode ((fp32.unpack (v (i / 2)).val.toNat).scale (127 - s))
      ([v (i / 2)], if k % 2 = 0 then r.1 % 256 else r.1 / 256, r.2)

/-- One element of a word under a format and a scale byte, as FP32 with its conditions (R55, R178). -/
def unpacked (fmt s sel : Nat) (mode : RMode) (x : Nat) : Nat × FFlags :=
  let signed (w code : Nat) : Nat × FFlags :=
    if s = 255 ∨ code = 2 ^ (w - 1) then (0x7FC00000, 0)
    else let k := (BitVec.ofNat w code).toInt; fp32.round mode (FVal.scale (.fin (k < 0) k.natAbs 0) (s - 127))
  let half (F : Fmt) : Nat × FFlags :=
    if s = 255 then (0x7FC00000, 0) else fp32.round mode ((F.unpack (x / 65536 ^ (sel % 2) % 65536)).scale (s - 127))
  match fmt with
  | 0x10 => signed 8 (x / 256 ^ (sel % 4) % 256)
  | 0x11 => signed 4 (x / 16 ^ (sel % 8) % 16)
  | 0x20 => half bf16
  | _ => half fp16

/-- The largest value of a format at scale 1 (R177). -/
def largestOf (fmt : Nat) : FVal :=
  match fmt with | 0x10 => .fin false 127 0 | 0x11 => .fin false 7 0 | 0x20 => .fin false 255 120 | _ => .fin false 65504 0

/-- The smallest scale byte at which the magnitude fits (R177). -/
def leastScale (fmt : Nat) (v : FVal) : Nat × FFlags :=
  match v with
  | .nan sg => (255, if sg then flagNv else 0)
  | .inf _ => (254, flagOf)
  | .fin _ m e =>
    match (List.range 255).find? (fun (s : Nat) => !(largestOf fmt).lt (.fin false m (e + 127 - (s : Int)))) with
    | some s => (s, 0)
    | none => (254, flagOf)

end Sys2Proof.Stated

/-- R54 to R57, R67, R172, R174 to R179: conversions, quantisation and tensor-block words. `vcvt` and `vcvtp` convert under their mode, or round
stochastically; `vqn8`, `vqn4` and `vbpack` quantise; `vbunpack` decodes one element; `vbscale` gives the smallest scale byte that fits; `vbzero` and
`vbfmt` write and read a format code; `vcairn` writes the hash. The value bits under poison are the model's choice (log 10), and that scale, word and
format sources are integers its reading (log 71). -/
def Obligations.BlockResults : Prop :=
  ∀ (f : Fields) (s : State) (g g' : GCtx), g.takeEntry = some g' → lastSlot g.pc = false →
    let v (x : Thread) (o : Operand) := g'.typed x 4 o
    let fl (x : Thread) (o : Operand) := g'.typed x 0 o
    let imm := g'.f.imm.toNat
    let mode (x : Thread) := x.mode g'.f.rnd
    let gives (i : Instr) (h : Thread → Thread) : Prop := s.issuing i = some g → ∃ t, exec i s = .next t ∧ s.sameButTeams t ∧ g'.After (Stated.onActive g' h) g'.grp t
    let sr := g'.f.type = 0 ∧ imm % 16 = 2 ∧ g'.f.rnd = 5
    (¬sr → gives (.vcvt f) (fun x =>
      let a := g'.typed x g'.f.type g'.f.a
      let r := Stated.converted g'.f.type (imm % 16) (mode x) (g'.f.mod.getLsbD 0) (if Stated.elementBits g'.f.type = 16 then a.1 % 65536 else a.1)
      let y := x.writeV (imm % 16 = 5 ∨ imm % 16 = 6) (opNum g'.f.d) r.1 a.2
      if a.2.isSome then y else y.raise r.2)) ∧
    (sr → gives (.vcvt f) (fun x => Stated.laneResult g' (srBf16 (fl x g'.f.a).1 g'.cairnkey (imm / 65536) (v x g'.f.b).1 (v x g'.f.c).1)
      (worst (fl x g'.f.a).2 (worst (v x g'.f.b).2 (v x g'.f.c).2)) x)) ∧
    gives (.vcvtp f) (fun x =>
      let a := g'.typed x (if g'.f.type = 7 then 3 else 0) g'.f.a
      let b := g'.typed x (if g'.f.type = 7 then 3 else 0) g'.f.b
      let half (n : Nat) : Nat × FFlags := match Stated.floatFmt g'.f.type with
        | some F => F.round (mode x) (fp32.unpack n)
        | none => ((Stated.narrow 16 true (g'.f.mod.getLsbD 0) (BitVec.ofNat 32 n).toInt).toNat, 0)
      Stated.laneResult g' ((half a.1).1 + 65536 * (half b.1).1, (half a.1).2 ||| (half b.1).2) (worst a.2 b.2) x) ∧
    gives (.vqn8 f) (fun x => Stated.laneResult g' (Stated.quantised 127 8 (fp32.unpack (fl x g'.f.a).1) ((v x g'.f.b).1 % 256)) (worst (fl x g'.f.a).2 (v x g'.f.b).2) x) ∧
    gives (.vqn4 f) (fun x => Stated.laneResult g' (Stated.quantised 7 4 (fp32.unpack (fl x g'.f.a).1) ((v x g'.f.b).1 % 256)) (worst (fl x g'.f.a).2 (v x g'.f.b).2) x) ∧
    gives (.vbpack f) (fun x =>
      let byte := Stated.packedByte (imm % 256) ((v x g'.f.b).1 % 256) (g'.virt x % 16) (mode x) (fun n => x.vreg (opNum g'.f.a + n))
      Stated.laneResult g' ((byte 0).2.1 + 2 ^ 8 * (byte 1).2.1 + 2 ^ 16 * (byte 2).2.1 + 2 ^ 24 * (byte 3).2.1,
          (byte 0).2.2 ||| (byte 1).2.2 ||| (byte 2).2.2 ||| (byte 3).2.2)
        (worst (v x g'.f.b).2 (worstOf ((List.range 4).flatMap (fun i => (byte i).1.map (·.poison))))) x) ∧
    gives (.vbunpack f) (fun x =>
      let fmt := (v x g'.f.b).1 % 256
      let p := worst (v x g'.f.a).2 (v x g'.f.b).2
      if fmt ∈ [0x31, 0x32, 0x34] then Stated.laneResult g' (0, 0) p x
      else if fmt ∈ [0x10, 0x11, 0x20, 0x21] then Stated.laneResult g' (Stated.unpacked fmt ((v x g'.f.b).1 / 256 % 256) (imm % 8) (mode x) (v x g'.f.a).1) p x
      else Stated.laneResult g' (0, 0) (worst p (some .format)) x) ∧
    gives (.vbscale f) (fun x => Stated.laneResult g' (Stated.leastScale (imm % 256) (fp32.unpack (fl x g'.f.a).1)) (fl x g'.f.a).2 x) ∧
    gives (.vbzero f) (fun x => x.writeV false (opNum g'.f.d) (if g'.virt x % 16 = 0 then imm % 256 else 0) none) ∧
    gives (.vbfmt f) (fun x =>
      let fmt := (v x g'.f.a).1 % 256
      let scale := (v x g'.f.a).1 / 256 % 256
      let nae := if scale = 255 then 2 ^ 10 else 0
      x.writeV false (opNum g'.f.d) (match fmt with
        | 0x10 => 62 + 2 ^ 8 + nae
        | 0x11 => 124 + 2 ^ 8 + nae
        | 0x20 => 31 + nae
        | 0x21 => 31 + nae
        | 0x31 => 31 + 2 ^ 9
        | 0x32 => 62 + 2 ^ 8 + 2 ^ 9
        | 0x34 => 124 + 2 ^ 8 + 2 ^ 9
        | _ => 2 ^ 11) (v x g'.f.a).2) ∧
    gives (.vcairn f) (fun x => x.writeV false (opNum g'.f.d) (cairn g'.cairnkey (imm % 65536) (v x g'.f.a).1 (v x g'.f.b).1) (worst (v x g'.f.a).2 (v x g'.f.b).2))

/-! ### Memory instructions -/

namespace Sys2Proof.Stated

/-- The issuing context after one more load has become pending (R231). -/
def withPend (g : GCtx) (op : PendOp) : GCtx :=
  let t : Team := { g.team with pend := g.team.pend ++ [op] }
  { g with team := t, s := { g.s with nextId := g.s.nextId + 1 }.setTeam t }

/-- The issuing context in a later state of everything outside the team. -/
def inState (g : GCtx) (s : State) : GCtx := { g with s := s }

/-- Word i of what a load of n bytes puts into a lane (R243): fewer than four bytes are sign- or zero-extended. -/
def loadedWord (n : Nat) (sx : Bool) (bs : List Byte) (i : Nat) : Word :=
  if n < 4 && sx then (BitVec.ofNat (8 * n) (natOfBytes bs)).signExtend 32 else BitVec.ofNat 32 (natOfBytes bs / 2 ^ (32 * i))

/-- The register values of a lane's load: one v-register, a pair or four (R243, R247). -/
def laneLoad (x : Thread) (d n : Nat) (w : Nat → VReg) : List PendVal := (List.range (max 1 (n / 4))).map (fun i => PendVal.v x.block x.lane (d + i) (w i))

/-- A group under verified execution has room in its load-value queue for one more value (R369). -/
def roomForValue (g : GCtx) : Bool := !(g.verified && g.queueFull (g.takenValues.length + 1))

/-- A load that does not wait for an earlier acquire and finds a place in its load-value queue. -/
def loadMayIssue (g : GCtx) : Bool := g.acquires.isEmpty && roomForValue g && g.grp.armed.isNone && !lastSlot g.pc

/-- A store that does not wait for an earlier acquire and finds a place in its store queue. -/
def storeMayIssue (g : GCtx) : Bool := g.acquires.isEmpty && decide (g.grp.storeQ.length < 32) && !lastSlot g.pc

/-- A value is on its way to its register, or has reached it (R230, R231). -/
def landed (t : State) (g : GCtx) (vals : List PendVal) : Prop :=
  (∃ T op, t.team? g.ref = some T ∧ op ∈ T.pend ∧ op.place = g.grp.key ∧ op.vals = vals) ∨
    ∀ x ∈ vals, match x with
      | .v b l n y => ∃ th, t.threadOf g b l = some th ∧ th.setV n y = th
      | .s _ n y => ∃ G, t.groupOf g = some G ∧ G.setS n y = G
      | .b _ n y => ∃ G, t.groupOf g = some G ∧ G.setB n y = G

/-- What a load leaves: other teams, and of its own every register it does not load, every predicate, handle, store-queue entry and status. -/
def loadFrame (t : State) (g : GCtx) (vals : List PendVal) : Prop :=
  (∀ r, r ≠ g.ref → t.team? r = g.s.team? r) ∧
    (∃ G, t.groupOf g = some G ∧ G.h = g.grp.h ∧ G.storeQ = g.grp.storeQ ∧ G.lp = g.grp.lp ∧
      (∀ n, vals.all (fun x => match x with | .s _ m _ => m != n | _ => true) = true → G.sreg n = g.grp.sreg n) ∧
      ∀ n, vals.all (fun x => match x with | .b _ m _ => m != n | _ => true) = true → G.breg n = g.grp.breg n) ∧
    ∀ b l x, g.team.thread? b l = some x → ∃ y, t.threadOf g b l = some y ∧ y.p = x.p ∧ y.fstat = x.fstat ∧ y.st = x.st ∧
      y.pc = (if g.runs x && g.more.isNone then nextSeq g.pc else x.pc) ∧
      ∀ n, vals.all (fun z => match z with | .v b' l' m _ => !(b' == b && l' == l && m == n) | _ => true) = true → y.vreg n = x.vreg n

end Sys2Proof.Stated

/-- R243, R249, R250: the registers a load's bytes give: `.u8` to `.b128` in a lane, sign- or zero-extended below 32 bits, `sld` to 64 bits, and a valid record. -/
def Stated.LoadedValues : Prop :=
  (∀ (x : Thread) (d : Nat) (sx : Bool) (bs : List Byte) (n : Nat), n ∈ [1, 2, 4, 8, 16] → bs.length = n →
    loadVals (.lane x.block x.lane d n sx) bs = Stated.laneLoad x d n (fun i => { val := Stated.loadedWord n sx bs i, poison := none })) ∧
  (∀ (k d : Nat) (sx : Bool) (bs : List Byte) (n : Nat), n ∈ [1, 2, 4, 8] → bs.length = n →
    loadVals (.s k d n sx) bs =
      [.s k d { val := if sx then (BitVec.ofNat (8 * n) (natOfBytes bs)).signExtend 64 else BitVec.ofNat 64 (natOfBytes bs), poison := none }]) ∧
  ∀ (k d : Nat) (bs : List Byte), bs.length = 32 →
    let bits := BitVec.ofNat 256 (natOfBytes bs)
    loadVals (.b k d) bs = [.b k d (if bufReason bits = 0 then { bits := bits, poison := none, reason := 0 }
      else { bits := 0, poison := some .format, reason := BitVec.ofNat 8 (bufReason bits) })]

/-- R229, R246, R247: `ldsp` and `ldcl` read each active lane's bytes, in order with the group's own stores, and make the lane's registers pending; a lane out of
bounds or on a bad line takes poison, and no lane traps. Nothing else changes. -/
def Stated.LaneScratchpadLoads : Prop :=
  ∀ (i : Instr) (f : Fields) (s : State) (g : GCtx) (bs : Thread → List Byte), i = .ldsp f ∨ i = .ldcl f →
    s.issuing i = some g → Stated.loadMayIssue g = true →
    let n := 2 ^ (g.f.imm.toNat % 8)
    let d := opNum g.f.d
    let acc (x : Thread) := (g.s.spadAccess g.ref (i == .ldcl f) n (g.raw x false g.f.a) g.f.disp).2
    g.s.absentOf g.ref (distinct ((g.spadLanes (i == .ldcl f) n).flatMap Acc.lines)) = none →
    (∀ x ∈ g.actives, ∀ a, acc x = .ok a → g.s.seen g.ref g.grp.storeQ .spad a n = some (bs x)) → (∃ x ∈ g.actives, ∃ a, acc x = .ok a) →
    ∃ t op, exec i s = .next t ∧ (Stated.withPend g op).After id g.grp t ∧ op.place = g.grp.key ∧ op.bank = true ∧
      op.vals = g.actives.flatMap (fun x => Stated.laneLoad x d n (fun j => match acc x with
        | .error k => { val := 0, poison := some k }
        | .ok a => if g.s.badSpad g.ref a n then { val := 0, poison := some .uncorrectable }
          else { val := Stated.loadedWord n (g.f.imm.getLsbD 3) (bs x) j, poison := none }))

/-- R229, R243, R246, R247, R249, R250: what a load's bytes put into registers, and the loads of scratchpads. The value bits under poison are the model's
(log 10). -/
def Obligations.ScratchpadLoads : Prop := Stated.LoadedValues ∧ Stated.LaneScratchpadLoads

/-- R218, R229 to R231, R247, R249, R250: `ld`, `ldb`, `sld` and `recld` translate every line once, take one lodge entry per line, and give each lane or
register the bytes of its address, or its poison. Nothing else of the program's state changes; memory is as the translation left it. A load that needs
no line, all its lanes failing, is left out. The value bits under poison are the model's choice (log 10). That a load takes its bytes at issue from
the one coherent memory is the model's choice (log 23), and that a line a host must give up is read at its reply is its reading (log 24). -/
def Obligations.GlobalLoads : Prop :=
  ∀ (f : Fields) (s : State) (g : GCtx), s.numbersWf = true → Stated.loadMayIssue g = true →
    let r := BufRec.of (g.record g.f.a).bits
    let n := 2 ^ (g.f.imm.toNat % 8)
    let run (i : Instr) (accs : List Acc) : Prop :=
      s.issuing i = some g →
      let lines := distinct (accs.flatMap Acc.lines)
      let m := (g.s.mapLines g.team.core g.ref.vf .load lines).1
      let s1 := (g.s.mapLines g.team.core g.ref.vf .load lines).2
      let segs (a : Acc) : List Seg := match a.look m r.tb with | .ok l => l | .error _ => []
      let need := distinct ((accs.flatMap segs).map (·.no))
      let vals (a : Acc) : Option (List PendVal) := match a.look m r.tb with
        | .error k => some (poisonVals a.dst k)
        | .ok l => (s1.seenSegs g.ref g.grp.storeQ l).map (fun bs =>
            if l.any (fun y => decide (y.line.space = .phys) && s1.badAt y.pa y.len) then poisonVals a.dst .uncorrectable else loadVals a.dst bs)
      lines.all (fun x => !g.s.globalStuck g.team.core g.ref.vf (x * 128) .load) = true →
      s1.evictRoom (g.team.core / 32) (distinct ((accs.flatMap segs).flatMap (fun y => s1.bypassed (g.team.core / 32) r.cache y.line y.blocks))) = true →
      need ≠ [] → need.length + (g.s.quad g.quad).lodge.length ≤ 64 → accs.all (fun a => (vals a).isSome) = true →
      let all := accs.flatMap (fun a => (vals a).getD [])
      ∃ t, exec i s = .next t ∧ t.mem = s1.mem ∧ Stated.loadFrame t g all ∧
        ((accs.flatMap segs).all (fun y => !s1.lateSeg y) = true → Stated.landed t g all)
    run (.ld f) (g.recLanes false n) ∧ run (.ldb f) (g.blockLanes false) ∧
    run (.sld f) [g.groupAcc false n (.s g.grp.key (opNum g.f.d) n (g.f.imm.getLsbD 3))] ∧
    ((g.record g.f.a).poison = none →
      let a := g.groupAcc false 32 (.b g.grp.key (opNum g.f.d))
      run (.recld f) [{ a with out := match a.out with | .ok x => if x % 32 = 0 then .ok x else .error .bounds | e => e }])

/-- R248, R305: `stsp` and `stcl` put the bytes of every active lane, in lane order, into one entry of the group's store queue; scratchpads and memory keep
every byte until the entry leaves. -/
def Obligations.ScratchpadStores : Prop :=
  ∀ (i : Instr) (f : Fields) (s : State) (g : GCtx) (at' : Thread → Nat), i = .stsp f ∨ i = .stcl f →
    s.issuing i = some g → Stated.storeMayIssue g = true → g.actives ≠ [] →
    let n := 2 ^ (g.f.imm.toNat % 8)
    let data (x : Thread) : List Byte := bytesOfNat n (x.vreg (opNum g.f.d)).val.toNat
    let wide (x : Thread) : List Byte := ((List.range (n / 4)).flatMap (fun k => bytesOfNat 4 (x.vreg (opNum g.f.d + k)).val.toNat))
    (∀ x ∈ g.actives, (g.raw x false g.f.a).2 = none ∧ (x.data (opNum g.f.d) n).2 = none) →
    (∀ x ∈ g.actives, g.s.spadAddr g.ref (i == .stcl f) (((g.raw x false g.f.a).1 : Int) + g.f.disp) n = .ok (at' x)) →
    g.s.absentOf g.ref (distinct ((g.spadLanes (i == .stcl f) n).flatMap Acc.lines)) = none →
    let g1 := Stated.inState g (if g.f.ord = 2 then g.escaping g.s else g.s)
    ∃ t e, exec i s = .next t ∧ g1.After id { g.grp with storeQ := g.grp.storeQ ++ [e] } t ∧ e.space = .spad ∧ e.unverified = g.verified ∧
      e.item = .store (g.actives.flatMap (fun x => cellsOf (at' x) (if n < 4 then data x else wide x)))

/-- R218, R248, R249, R305: `st`, `stb` and `sst` check and translate every access first; without a failure all bytes enter the group's store queue together, each
at the physical address its segment gives, and memory keeps every byte until the entry leaves. -/
def Stated.StoresEnter : Prop :=
  ∀ (f : Fields) (s : State) (g : GCtx), Stated.storeMayIssue g = true →
    let rec' := g.record g.f.a
    let r := BufRec.of rec'.bits
    let n := 2 ^ (g.f.imm.toNat % 8)
    let run (i : Instr) (accs : List (Acc × List Byte)) : Prop :=
      s.issuing i = some g →
      let lines := distinct (accs.flatMap (fun a => a.1.lines))
      let m := (g.s.mapLines g.team.core g.ref.vf .store lines).1
      let s1 := (g.s.mapLines g.team.core g.ref.vf .store lines).2
      let segs (a : Acc) : List Seg := match a.look m r.tb with | .ok l => l | .error _ => []
      lines.all (fun x => !g.s.globalStuck g.team.core g.ref.vf (x * 128) .store) = true →
      accs ≠ [] → accs.all (fun a => (errOf (a.1.look m r.tb)).isNone) = true →
      let g1 := Stated.inState g (if g.f.ord = 2 then g.escaping s1 else s1)
      ∃ t e, exec i s = .next t ∧ g1.After id { g.grp with storeQ := g.grp.storeQ ++ [e] } t ∧ e.unverified = g.verified ∧
        ∃ cells, e.item = .store cells ∧ cells.map (·.2) = accs.flatMap (·.2) ∧
          cells.map (·.1) = accs.flatMap (fun a => (segs a.1).flatMap (fun y => List.range' y.pa y.len))
    rec'.poison = none →
    ((∀ x ∈ g.actives, worst (x.data (opNum g.f.d) n).2 (worst (g.raw x false g.f.b).2 (g.raw x false g.f.c).2) = none) →
      run (.st f) ((g.recLanes true n).zip (g.actives.map (fun x => (x.data (opNum g.f.d) n).1)))) ∧
    ((∀ x ∈ g.actives, worst (x.data (opNum g.f.d) 4).2 (worst (g.raw x false g.f.b).2 (g.raw x false g.f.c).2) = none) →
      run (.stb f) ((g.blockLanes true).zip (g.actives.map (fun x => (x.data (opNum g.f.d) 4).1)))) ∧
    (worst (g.once g.f.d).2 (worst (g.once g.f.b).2 (g.once g.f.c).2) = none →
      run (.sst f) [(g.groupAcc true n (.s g.grp.key 0 n false), bytesOfNat n (g.once g.f.d).1)])

/-- R333, R336, R337: one lane of an atomic reads the old value at its location, writes f(old, v) there and nowhere else, and returns the old value. -/
def Obligations.AtomicResults : Prop :=
  ∀ (k : AtomKind) (uns : Bool) (w : Nat) (m : Memory) (l : AtomLane), w = 4 ∨ (w = 8 ∧ k ≠ .addf) → m.wf = true →
    let n := 8 * w
    let old : BitVec n := BitVec.ofNat n (m.nat l.addr w)
    let v : BitVec n := BitVec.ofNat n l.val.toNat
    let e : BitVec n := BitVec.ofNat n l.cmp.toNat
    let less (x y : BitVec n) : Bool := if uns then x.ult y else x.slt y
    let new : BitVec n := match k with
      | .add => old + v
      | .addf => BitVec.ofNat n (atomFadd old.toNat v.toNat)
      | .min => if less v old then v else old
      | .max => if less old v then v else old
      | .and => old &&& v
      | .or => old ||| v
      | .xor => old ^^^ v
      | .xchg => v
      | .cas => if old = e then v else old
      | .inc => if v.ule old then 0 else old + 1
    (atomLane k uns w m l).2 = old.toNat ∧ (atomLane k uns w m l).1.wf = true ∧ (atomLane k uns w m l).1.nat l.addr w = new.toNat ∧
      ∀ a, a < l.addr ∨ l.addr + w ≤ a → (atomLane k uns w m l).1.read a = m.read a

namespace Sys2Proof.Stated

/-- The operation of a scratchpad atomic, and of a memory-side atomic (R333). -/
def spadAtom (f : Fields) : List (Instr × AtomKind) := [(.padd f, .add), (.paddf f, .addf), (.pmin f, .min), (.pmax f, .max), (.pxchg f, .xchg), (.pcas f, .cas)]
def memAtom (f : Fields) : List (Instr × AtomKind) :=
  [(.gadd f, .add), (.gaddf f, .addf), (.gmin f, .min), (.gmax f, .max), (.gand f, .and), (.gor f, .or), (.gxor f, .xor), (.gxchg f, .xchg), (.gcas f, .cas), (.ginc f, .inc)]

/-- What an atomic's store-queue entry holds of each active lane, in ascending order: location, value and comparison; the value of an `addf` is a float operand,
so that an inline constant is converted (R114, R333, R337). -/
def atomLanes (g : GCtx) (k : AtomKind) (val : Operand) (w : Nat) (locs : List Nat) : List AtomLane :=
  (g.actives.zip locs).map (fun x => { addr := x.2, val := BitVec.ofNat 64 (if k = .addf then g.typed x.1 0 val else g.raw x.1 (w == 8) val).1, cmp := BitVec.ofNat 64 (x.1.vpair (opNum g.f.d)).1, block := x.1.block, lane := x.1.lane })

end Sys2Proof.Stated

/-- R333 to R335, R338, R339: a scratchpad atomic (`padd`, `paddf`, `pmin`, `pmax`, `pxchg`, `pcas`) whose lanes all pass completes: it enters its group's store queue; with D, or with acquire order, it is also pending, and a
scope of tenant or wider marks the cluster ESCAPED. Registers, memory and scratchpads change only when it is performed. -/
def Stated.ScratchpadAtomics : Prop :=
  ∀ (f : Fields) (s : State) (g : GCtx) (locs : List Nat),
    ∀ i ∈ [Instr.padd f, .paddf f, .pmin f, .pmax f, .pxchg f, .pcas f], ∀ k, (Stated.spadAtom f).lookup i = some k → s.issuing i = some g →
    Stated.storeMayIssue g = true → Stated.roomForValue g = true → g.actives ≠ [] →
    let w := 2 ^ (g.f.imm.toNat % 8)
    let acc (x : Thread) : Except PoisonKind Nat := (g.s.spadAccess g.ref (g.f.imm.getLsbD 3) w (g.raw x false g.f.a) g.f.disp).2
    (∀ x ∈ g.actives, g.atomPoison k w g.f.a g.f.b x = none) → g.actives.map acc = locs.map .ok → (∀ a ∈ locs, a % w = 0) →
    g.s.absentOf g.ref (distinct (locs.flatMap (fun a => linesOf a w))) = none →
    let g1 := Stated.inState g (if 4 ≤ g.scope then g.s.escape g.ref else g.s)
    let keeps := (g.f.d == .none) && !(g.f.ord == 1 || g.f.ord == 3)
    ∃ t e op, exec i s = .next t ∧ (if keeps then g1 else Stated.withPend g1 op).After id { g.grp with storeQ := g.grp.storeQ ++ [e] } t ∧ e.space = .spad ∧
      e.item = .atomic k g.f.m5 w (Stated.atomLanes g k g.f.b w locs) (if g.f.d == .none then none else some (opNum g.f.d)) (if keeps then none else some op.id) ∧
      op.place = g.grp.key ∧ op.known = false ∧ op.acquire = (g.f.ord == 1 || g.f.ord == 3)

/-- R218, R333 to R335, R337 to R339: a memory-side atomic (`gadd`, `gaddf`, `gmin`, `gmax`, `gand`, `gor`, `gxor`, `gxchg`, `gcas`, `ginc`) translates every lane's line
once; when all lanes pass it completes: it enters its group's store queue with each lane's location and value, and nothing of the group's registers or of memory beside the page tables and the guest book changes before it is performed. -/
def Stated.MemoryAtomics : Prop :=
  ∀ (f : Fields) (s : State) (g : GCtx) (locs : List Nat),
    ∀ i ∈ [Instr.gadd f, .gaddf f, .gmin f, .gmax f, .gand f, .gor f, .gxor f, .gxchg f, .gcas f, .ginc f], ∀ k, (Stated.memAtom f).lookup i = some k →
    s.issuing i = some g → Stated.storeMayIssue g = true → Stated.roomForValue g = true → g.actives ≠ [] →
    let w := 2 ^ (g.f.imm.toNat % 8)
    let rec' := g.record g.f.a
    let r := BufRec.of rec'.bits
    let accs : List Acc := g.actives.map (fun x =>
      { dst := .lane x.block x.lane 0 w false, virt := g.virt x, va := (recAccess rec' true w (g.raw x false g.f.b) (0, none) g.f.disp).1, n := w
        out := (recAccess rec' true w (g.raw x false g.f.b) (0, none) g.f.disp).2 })
    let lines := distinct (accs.flatMap Acc.lines)
    let m := (g.s.mapLines g.team.core g.ref.vf .store lines).1
    let s1 := (g.s.mapLines g.team.core g.ref.vf .store lines).2
    let place (a : Acc) : Option Nat := match a.look m r.tb with | .ok (y :: _) => some y.pa | _ => none
    rec'.poison = none → (∀ x ∈ g.actives, g.atomPoison k w g.f.b g.f.c x = none) →
    accs.all (fun a => match a.out with | .ok x => decide (x % w = 0) | .error _ => false) = true →
    lines.all (fun x => !g.s.globalStuck g.team.core g.ref.vf (x * 128) .store) = true →
    accs.map place = locs.map some → lines.length + (g.s.quad g.quad).lodge.length ≤ 64 →
    let g1 := Stated.inState g (if 4 ≤ g.scope then s1.escape g.ref else s1)
    ∃ t e, exec i s = .next t ∧ t.mem = g1.s.mem ∧
      g1.Moves (fun x => if g.more.isSome then x else { x with pc := nextSeq g.pc }) { g.grp with storeQ := g.grp.storeQ ++ [e] } t ∧
      ∃ op, e.item = .atomic k g.f.m5 w (Stated.atomLanes g k g.f.c w locs) (if g.f.d == .none then none else some (opNum g.f.d)) op ∧
        (op = none ↔ (g.f.d == .none) = true ∧ (g.f.ord == 1 || g.f.ord == 3) = false)

/-- R218, R333 to R335, R337 to R339: atomics enter the store queue of their group, at scratchpads and at homes. The pending operation and the entry's
fields are the model's form. -/
def Obligations.Atomics : Prop := Stated.ScratchpadAtomics ∧ Stated.MemoryAtomics

/-- R248 to R250, R335, R357, R358, R360, R361: a store or atomic with a poisoned source, its record among them, traps, once every earlier instruction of its group has
completed, with the code of the highest-ranked kind, the lanes that hold it, and the reason of a record whose format poison it is; its store queue, and everything the
trap does not write, stay. -/
def Stated.StorePoison : Prop :=
  ∀ (f : Fields) (s : State) (g : GCtx) (k : PoisonKind) (lanes : List Thread),
    let w := 2 ^ (g.f.imm.toNat % 8)
    let own := g.record g.f.a
    let reason : Nat := if own.poison = some k ∧ k = .format then own.reason.toNat else 0
    let taken (i : Instr) (lanes : List Thread) (reason : Nat) : Prop :=
      s.issuing i = some g → Stated.storeMayIssue g = true → g.s.quiet g.site = true → exec i s = .next (g.s.takeTrap g.site (g.trapInfo k.code lanes 0 reason 0))
    let traps (i : Instr) (src : Thread → Option PoisonKind) (reason : Nat) : Prop := worstLanes (g.actives.map (fun x => (x, src x))) = some (k, lanes) → taken i lanes reason
    let data (x : Thread) (n : Nat) := (x.data (opNum g.f.d) n).2
    traps (.stsp f) (fun x => worst none (worst (data x w) (g.raw x false g.f.a).2)) 0 ∧
    traps (.stcl f) (fun x => worst none (worst (data x w) (g.raw x false g.f.a).2)) 0 ∧
    traps (.st f) (fun x => worst own.poison (worst (data x w) (worst (g.raw x false g.f.b).2 (g.raw x false g.f.c).2))) reason ∧
    traps (.stb f) (fun x => worst own.poison (worst (data x 4) (worst (g.raw x false g.f.b).2 (g.raw x false g.f.c).2))) reason ∧
    (worst own.poison (worst (g.once g.f.d).2 (worst (g.once g.f.b).2 (g.once g.f.c).2)) = some k → taken (.sst f) g.lanes reason) ∧
    (Stated.roomForValue g = true →
      (∀ i a, (i, a) ∈ Stated.spadAtom f → traps i (fun x => worst none (g.atomPoison a w g.f.a g.f.b x)) 0) ∧
      ∀ i a, (i, a) ∈ Stated.memAtom f → traps i (fun x => worst own.poison (g.atomPoison a w g.f.b g.f.c x)) reason ∧
        (g.actives = [] → own.poison = some k → taken i [] reason))

/-- R218, R248, R249, R358, R360, R361: a store whose sources are sound and one of whose accesses fails its check or its translation traps, once every earlier instruction of
its group has completed, with the ACCESS cause of the highest-ranked kind, the lanes that met it and the address of the first of them; nothing is stored. The address of a
bounds failure is the model's reading (log 36). -/
def Stated.StoreFailures : Prop :=
  ∀ (f : Fields) (s : State) (g : GCtx) (k : PoisonKind), Stated.storeMayIssue g = true →
    let own := g.record g.f.a
    let r := BufRec.of own.bits
    let n := 2 ^ (g.f.imm.toNat % 8)
    let traps (i : Instr) (s1 : State) (look : Acc → Option PoisonKind) (accs : List Acc) (lanes : List Thread) : Prop :=
      s1.quiet g.site = true → worstOf (accs.map look) = some k →
      exec i s = .next (s1.takeTrap g.site ((Stated.inState g s1).trapInfo (0x27 + k.rank) lanes (match accs.filter (fun a => look a == some k) with | a :: _ => a.va | [] => 0) 0 0))
    let failing (look : Acc → Option PoisonKind) (accs : List Acc) : List Thread := ((g.actives.zip accs).filter (fun x => look x.2 == some k)).map (·.1)
    let memory (i : Instr) (accs : List Acc) (lanes : (Acc → Option PoisonKind) → List Thread) : Prop := s.issuing i = some g →
      let lines := distinct (accs.flatMap Acc.lines)
      let m := g.s.mapLines g.team.core g.ref.vf .store lines
      let look (a : Acc) : Option PoisonKind := errOf (a.look m.1 r.tb)
      lines.all (fun x => !g.s.globalStuck g.team.core g.ref.vf (x * 128) .store) = true → traps i m.2 look accs (lanes look)
    let bank (i : Instr) (cluster : Bool) : Prop := s.issuing i = some g →
      (∀ x ∈ g.actives, (g.raw x false g.f.a).2 = none ∧ (x.data (opNum g.f.d) n).2 = none) →
      traps i g.s (fun a => errOf a.out) (g.spadLanes cluster n) (failing (fun a => errOf a.out) (g.spadLanes cluster n))
    let sound (x : Thread) (n : Nat) : Prop := worst (x.data (opNum g.f.d) n).2 (worst (g.raw x false g.f.b).2 (g.raw x false g.f.c).2) = none
    bank (.stsp f) false ∧ bank (.stcl f) true ∧
    (own.poison = none →
      ((∀ x ∈ g.actives, sound x n) → memory (.st f) (g.recLanes true n) (fun look => failing look (g.recLanes true n))) ∧
      ((∀ x ∈ g.actives, sound x 4) → memory (.stb f) (g.blockLanes true) (fun look => failing look (g.blockLanes true))) ∧
      (worst (g.once g.f.d).2 (worst (g.once g.f.b).2 (g.once g.f.c).2) = none → memory (.sst f) [g.groupAcc true n (.s g.grp.key 0 n false)] (fun _ => g.lanes)))

/-- R218, R248 to R250, R305, R335, R357, R358: stores to memory enter the store queue whole; a poisoned source of a store or an atomic traps, and so does
an access of a store that fails. ADDR of a bounds failure is the model's reading (log 36). -/
def Obligations.GlobalStores : Prop := Stated.StoresEnter ∧ Stated.StorePoison ∧ Stated.StoreFailures

/-- R251 to R253: `sptest` writes the presence bit of each active lane's scratchpad line into p(D); `pref` and `resid` complete and change no register,
store queue or predicate; `recinv` parks while the group has stores and otherwise drops the entries of its context. Whether a hint drops a line is
free (log 2). -/
def Obligations.HintsAndTests : Prop :=
  ∀ (f : Fields) (s : State) (g : GCtx), lastSlot g.pc = false →
    (s.issuing (.sptest f) = some g → ∃ t, exec (.sptest f) s = .next t ∧ g.After (Stated.onActive g (fun x =>
      x.setPred (opPreg g.f.d) (match (g.s.spadAccess g.ref false 1 (g.raw x false g.f.a) g.f.disp).2 with
        | .ok a => g.team.absent.get (a % 2 ^ 20 / 128) 0 == 0
        | .error _ => false))) g.grp t) ∧
    (∀ i, i = .pref f ∨ i = .resid f → s.issuing i = some g → ∃ t, exec i s = .next t ∧
      g.Moves (fun x => if g.more.isSome then x else { x with pc := nextSeq g.pc }) g.grp t) ∧
    (s.issuing (.recinv f) = some g → g.grp.storeQ = [] →
      let covered (core : Nat) : Bool := match g.scopeCores with | some l => l.contains core | none => true
      ∃ t, exec (.recinv f) s = .next t ∧ (Stated.inState g { g.s with recCache := g.s.recCache.map (fun (e : Nat × List (Nat × Nat × List Byte)) =>
        if covered e.1 then (e.1, e.2.filter (fun x => x.1 != g.ref.vf)) else e) }).After id g.grp t) ∧
    (s.issuing (.recinv f) = some g → g.grp.storeQ ≠ [] → exec (.recinv f) s = .next (g.s.park g.ref g.quad g.grp.place .stores))

/-! ### Control instructions -/

namespace Sys2Proof.Stated

/-- The line of a direct target (R104). -/
def targetLine (pc : Pc) (imm : BitVec 32) : Int := (pc.toNat / 64 : Nat) + (imm.extractLsb' 3 29).toInt

/-- A direct target (R104). -/
def target (pc : Pc) (imm : BitVec 32) : Nat := (targetLine pc imm).toNat * 64 + 12 * (imm.toNat % 8)

/-- The team's units for regrouping hold no thread. -/
def unitsEmpty (t : Team) : Bool :=
  t.stack.isEmpty && t.waiting.isEmpty && t.spawned.isEmpty && t.reorder.all (fun (e : Nat × List ReorderItem) => e.2.isEmpty)

/-- Nothing of the group holds its threads back from leaving it (R130, R148, R307). -/
def quiet (g : GCtx) : Bool :=
  g.grp.h.all (fun h => decide (h.st ≠ .pending)) && g.grp.storeQ.isEmpty && g.team.pend.isEmpty

end Sys2Proof.Stated

/-- R118, R144 to R147, R151: `nop` and `pause` change nothing but the program counters, and `pause` ends the run; each transfer moves the taking threads to their
target and the others on in sequence, calls write their link, and nothing else changes. -/
def Stated.Transfers : Prop :=
  ∀ (f : Fields) (s : State) (g : GCtx), lastSlot g.pc = false →
    let next : Nat := if g.pc.toNat % 64 = 48 then g.pc.toNat + 16 else g.pc.toNat + 12
    let link (x : Thread) : Thread := match g.f.d with | .v n => x.writeV true n.toNat next none | _ => x
    let linkG : Group := match g.f.d with | .s n => g.grp.setS n.toNat { val := BitVec.ofNat 64 next, poison := none } | _ => g.grp
    let moves (i : Instr) (taking : List Thread) (goal : Thread → Nat) (checked linked : Bool) : Prop :=
      let goals := distinct (taking.map goal)
      let s1 := if checked then (g.s.targetsOk g.team.core g.ref.vf goals).2 else g.s
      s.issuing i = some g → (if checked then (g.s.targetsOk g.team.core g.ref.vf goals).1 else some (goals.filter (fun x => !legalPc x))) = some [] →
      ∃ t, exec i s = .next t ∧ s1.sameButTeams t ∧
        (Stated.inState g s1).Moves (fun x => if taking.any (fun y => y.lane == x.lane) then { (if linked then link x else x) with pc := BitVec.ofNat 57 (goal x) }
          else { x with pc := nextSeq x.pc }) (if linked && !taking.isEmpty then linkG else g.grp) t
    let line := Stated.targetLine g.pc g.f.imm
    let near : Thread → Nat := fun _ => Stated.target g.pc g.f.imm
    let far : Thread → Nat := fun x => (g.raw x true g.f.a).1
    let yes (x : Thread) : Bool := x.pred (opPreg g.f.a) != g.f.mod.getLsbD 0
    (s.issuing (.nop f) = some g → ∃ t, exec (.nop f) s = .next t ∧ s.sameButTeams t ∧ g.After id g.grp t) ∧
    (s.issuing (.pause f) = some g → ∃ t, exec (.pause f) s = .next t ∧ s.sameButTeams t ∧ g.After id g.grp t ∧ (g.lb = none → (t.quad g.quad).holder = none)) ∧
    (0 ≤ line → line < 2 ^ 51 →
      moves (.bra f) g.actives near true false ∧ moves (.call f) g.actives near true true ∧
      moves (.bany f) (if g.lanes.any yes then g.lanes else []) near true false ∧ moves (.ball f) (if g.lanes.all yes then g.lanes else []) near true false) ∧
    (g.lanes.all (fun x => (g.raw x true g.f.a).2.isNone) = true →
      moves (.brai f) g.actives far true false ∧ moves (.callr f) g.actives far true true ∧ moves (.ret f) g.lanes far false false)

/-- R103 to R105, R145 to R148, R150, R357, R358, R360: the checks of a transfer's targets. A poisoned target traps with its kind; an illegal line, an illegal slot or a slot
without TGT traps with BRTGT, for the lanes that would take it; both once every earlier instruction of the group has completed, and no thread moves. While the line of a
target has still to be read for its TGT bit, the transfer waits. -/
def Stated.TargetChecks : Prop :=
  (∀ (f : Fields) (s : State) (g : GCtx),
    let line := Stated.targetLine g.pc g.f.imm
    let near : Thread → Nat := fun _ => Stated.target g.pc g.f.imm
    let far : Thread → Nat := fun x => (g.raw x true g.f.a).1
    let yes (x : Thread) : Bool := x.pred (opPreg g.f.a) != g.f.mod.getLsbD 0
    let brtgt (i : Instr) (s1 : State) (lanes : List Thread) : Prop := s1.quiet g.site = true → exec i s = .next (s1.takeTrap g.site (g.trapInfo 0x03 lanes 0 0 0))
    let refuses (i : Instr) (taking : List Thread) (goal : Thread → Nat) (checked : Bool) : Prop :=
      let goals := distinct (taking.map goal)
      let check := if checked then g.s.targetsOk g.team.core g.ref.vf goals else (some (goals.filter (fun x => !legalPc x)), g.s)
      s.issuing i = some g → match check.1 with
        | none => exec i s = .next check.2
        | some bad => ∀ x ∈ taking, goal x ∈ bad → brtgt i check.2 (taking.filter (fun x => bad.contains (goal x)))
    let direct (i : Instr) (taking : List Thread) : Prop :=
      (0 ≤ line → line < 2 ^ 51 → refuses i taking near true) ∧ (line < 0 ∨ 2 ^ 51 ≤ line → taking ≠ [] → s.issuing i = some g → brtgt i g.s taking)
    let indirect (i : Instr) (taking : List Thread) (checked : Bool) : Prop :=
      (taking.all (fun x => (g.raw x true g.f.a).2.isNone) = true → refuses i taking far checked) ∧
      ∀ k lanes, worstLanes (taking.map (fun x => (x, (g.raw x true g.f.a).2))) = some (k, lanes) → s.issuing i = some g → g.s.quiet g.site = true →
        exec i s = .next (g.s.takeTrap g.site (g.trapInfo k.code lanes 0 0 0))
    direct (.bra f) g.actives ∧ direct (.call f) g.actives ∧
    direct (.bany f) (if g.lanes.any yes then g.lanes else []) ∧ direct (.ball f) (if g.lanes.all yes then g.lanes else []) ∧
    (Stated.quiet g = true → direct (.bdiv f) (g.lanes.filter yes)) ∧ direct (.spawn f) (g.lanes.filter (fun x => x.pred (opPreg g.f.b))) ∧
    indirect (.brai f) g.actives true ∧ indirect (.callr f) g.actives true ∧ indirect (.ret f) g.lanes false) ∧
  -- which targets are refused
  (∀ (s : State) (core v x : Nat),
    (s.targetsOk core v [x]).1 = (s.targetOk core v x).1.map (fun ok => if ok then [] else [x]) ∧
    (legalPc x = false → s.targetOk core v x = (some false, s)) ∧
    (legalPc x = true → ∀ l, s.iline core v (x / 64) = some l → l.error = false → s.targetOk core v x = (some (l.word.getLsbD (27 + x % 64 / 12)), s)) ∧
    (legalPc x = true → s.iline core v (x / 64) = none → ∀ l s1, s.readLine core v (x / 64) = .line l s1 → s1.badAt l.pa 64 = false →
      s.targetOk core v x = (some ((BitVec.ofNat 32 (s1.mem.nat (l.pa + 60) 4)).getLsbD (27 + x % 64 / 12)), s1)))

/-- R103 to R105, R118, R144 to R148, R150, R151, R357: `nop`, `pause` and the transfers, and the checks of a target. A target whose line cannot be
fetched passes the check of TGT by the model's reading (log 11); flow past the last slot is log 12. -/
def Obligations.ControlTransfers : Prop := Stated.Transfers ∧ Stated.TargetChecks

/-- R130 to R133, R148 to R150, R152: `bdiv`, `join` and `reorder` hand the executing threads to their unit, each with the program counter it goes on at;
`join` hands over those under an entry, and the others only advance; `spawn` adds the wanting lanes' entries as far as the pool has room and tells
each lane, entries of one cycle standing in ascending group place (log 61); threads of `exit` are over. Corners of regrouping are the model's readings
(logs 12 and 32). -/
def Obligations.ThreadsRegroup : Prop :=
  ∀ (f : Fields) (s : State) (g : GCtx), lastSlot g.pc = false →
    let line := Stated.targetLine g.pc g.f.imm
    let goal := Stated.target g.pc g.f.imm
    let yes (x : Thread) : Bool := x.pred (opPreg g.f.a) != g.f.mod.getLsbD 0
    let next := nextSeq g.pc
    -- the one thread of the team at its position
    let alone (x : Thread) : Prop := ∀ y ∈ g.team.threads, y.block = x.block → y.lane = x.lane → y = x
    -- a vector thread of the same slot stays, so that no unit closes at once
    let stays : Prop := ∀ x ∈ g.lanes, g.team.threads.any (fun y => !g.runs y && !y.porter && g.team.slotOfBlock y.block == g.team.slotOfBlock x.block && y.st.here) = true
    let gone (t : State) (x : Thread) (pc : Pc) : Prop := ∃ y, t.threadOf g x.block x.lane = some y ∧ (y.st = .held ∨ y.st = .wait) ∧
      y = { x with st := y.st, lbuf := [], entry := y.entry, pc := pc }
    (s.issuing (.join f) = some g → Stated.quiet g = true → g.lanes.all (fun x => x.entry.isNone) = true →
      ∃ t, exec (.join f) s = .next t ∧ s.sameButTeams t ∧ g.After id g.grp t) ∧
    (∀ E : CEntry, s.issuing (.join f) = some g → Stated.quiet g = true → Stated.unitsEmpty { g.team with stack := [] } = true → g.team.stack = [E] → E.bins = [] →
      (∀ x ∈ g.lanes, x.entry = none ∨ x.entry = some E.id) → (∃ x ∈ g.lanes, x.entry = some E.id) →
      (∃ t, exec (.join f) s = .next t ∧ ∀ x ∈ g.lanes, alone x →
        if x.entry = none then t.threadOf g x.block x.lane = some { x with pc := next, lbuf := match t.threadOf g x.block x.lane with | some y => y.lbuf | none => [] }
        else gone t x next) ∧
      -- with a thread left that entered and has not joined, and a lane without one, the threads stay in the entry's bins
      ((∃ p ∈ E.inside, ∀ x ∈ g.lanes, x.entry = some E.id → x.pos ≠ p) → (g.lanes.filter (fun x => x.entry.isSome)).length < 32 →
        ∃ t T E', exec (.join f) s = .next t ∧ t.team? g.ref = some T ∧ E' ∈ T.stack ∧ E'.id = E.id ∧ ∀ x ∈ g.lanes, x.entry = some E.id →
          x.pos ∉ E'.inside ∧ (∃ b ∈ E'.bins, b.block = x.block ∧ b.lane = x.lane ∧ b.join = true ∧ b.target = next ∧ b.at_ = g.s.cycle) ∧
          (alone x → t.threadOf g x.block x.lane = some { x with st := .held, pc := next, lbuf := [] }))) ∧
    (s.issuing (.bdiv f) = some g → Stated.unitsEmpty g.team = true → Stated.quiet g = true → g.lanes.all (fun x => x.entry.isNone) = true → 0 ≤ line → line < 2 ^ 51 →
      g.lanes.any yes = false ∨ (g.s.targetsOk g.team.core g.ref.vf [goal]).1 = some [] →
      ∃ t, exec (.bdiv f) s = .next t ∧ ∀ x ∈ g.lanes, alone x → gone t x (if yes x then BitVec.ofNat 57 goal else next)) ∧
    (s.issuing (.reorder f) = some g → Stated.unitsEmpty g.team = true → Stated.quiet g = true → (g.once g.f.b).2 = none → stays →
      ∃ t, exec (.reorder f) s = .next t ∧ ∀ x ∈ g.lanes, (alone x → t.threadOf g x.block x.lane = some { x with st := .held, pc := next, lbuf := [] }) ∧
        ∃ T e, t.team? g.ref = some T ∧ e ∈ T.reorder.get (g.team.slotOfBlock x.block) [] ∧ e.block = x.block ∧ e.lane = x.lane ∧
          e.mask = BitVec.ofNat 32 (g.once g.f.b).1 ∧
          e.key = (if (x.vreg (opNum g.f.a)).poison.isSome then 0xFFFFFFFF else (x.vreg (opNum g.f.a)).val.toNat)) ∧
    (let want := g.lanes.filter (fun x => x.pred (opPreg g.f.b))
     let check := g.s.targetsOk g.team.core g.ref.vf [goal]
     let s1 := if want = [] then g.s else check.2
     s.issuing (.spawn f) = some g → 0 ≤ line → line < 2 ^ 51 → want = [] ∨ check.1 = some [] →
      let later (e : SpawnItem) : Bool := decide (e.at_ = s1.cycle) && decide (1024 * g.grp.place + g.quad < e.place)
      let before := g.team.pool.filter (fun e => !later e)
      let size := match s1.kd? g.ref with | some k => k.spawn | none => 0
      let added := want.take (size - before.length)
      let kept := (g.team.pool.filter later).take (size - before.length - added.length)
      let out := (g.team.pool.filter later).drop (size - before.length - added.length)
      ∃ t T new, exec (.spawn f) s = .next t ∧ t.team? g.ref = some T ∧ T.pool = before ++ new ++ kept ∧
        new.map (fun (e : SpawnItem) => (e.pc, e.arg, e.tidX, e.tidY, e.tidZ)) = added.map (fun x => (BitVec.ofNat 57 goal, x.vreg (opNum g.f.a), x.tidX, x.tidY, x.tidZ)) ∧
        (out = [] → (Stated.inState g s1).Moves (fun x => { x.setPred (opPreg g.f.d) (added.any (fun y => y.lane == x.lane)) with pc := next }) g.grp t) ∧
        ∀ b l e, out.find? (fun y => y.block == b && y.lane == l) = some e → ∀ y, t.threadOf g b l = some y → e.preg = 7 ∨ y.pred e.preg = false) ∧
    (s.issuing (.exit f) = some g → Stated.unitsEmpty g.team = true → ∃ t, exec (.exit f) s = .next t ∧
      ∀ x ∈ g.lanes, alone x → match t.threadOf g x.block x.lane with
        | none => True
        | some y => if guardOn g.f.pg x then y.st = .done ∧ y.v = x.v else y.st = x.st ∧ y.pc = nextSeq x.pc ∧ y.v = x.v ∧ y.p = x.p)

/-- R154, R155, R188: `rep` waits for the instruction that follows it with its count, stride and stepped operands, in a group and in a sequencer, and
changes nothing else but the program counters. That a boundary lies after each repetition, and that repetitions are kept by program counter, are the
model's readings (log 8). -/
def Obligations.Repetition : Prop :=
  ∀ (f : Fields) (s : State),
    let announced (f : Fields) (pc : Pc) : Rep := { pc := nextSeq pc, count := f.imm.toNat % 64 + 1, idx := 0, step := f.mod.truncate 4, stride := 2 ^ (f.mod.toNat / 16) }
    (∀ g, s.issuing (.rep f) = some g → lastSlot g.pc = false → ∃ t, exec (.rep f) s = .next t ∧ s.sameButTeams t ∧
      (∀ r, r ≠ g.ref → t.team? r = g.s.team? r) ∧
      t.groupOf g = some { g.grp with reps := g.grp.reps.filter (fun r => r.pc != nextSeq g.pc) ++ [announced g.f g.pc], runLen := g.grp.runLen + 1, lbCycles := 0, lbAt := none } ∧
      ∀ b l x, g.team.thread? b l = some x → ∃ y, t.threadOf g b l = some y ∧
        y = (if g.runs x then { x with pc := nextSeq g.pc, lbuf := y.lbuf } else { x with lbuf := if g.grp.owns x then y.lbuf else x.lbuf })) ∧
    ∀ c, s.seqIssuing (.rep f) = some c → lastSlot c.seq.pc = false → ∃ t, exec (.rep f) s = .next t ∧
      c.After { c.seq with pfx := some (announced c.f c.seq.pc), pc := nextSeq c.seq.pc } t

/-! ### The async engine and its handles -/

/-- R254, R255, R257, R268: each async instruction (`acopy`, `awrite`, `agather`, `ascatter`, `astage`, `afill`, `ahut`, `asummit`), with no acquiring atomic of its group
under way (R310), a room in its engine and D free, completes: it adds one command with the operands it read and makes the handle pending;
nothing else of the program's state changes, and a release at tenant scope or wider marks the cluster ESCAPED. -/
def Stated.AsyncCommands : Prop :=
  ∀ (i : Instr) (op : Nat) (f : Fields) (s : State) (g : GCtx),
    (i, op) ∈ [(.acopy f, 0), (.awrite f, 1), (.agather f, 2), (.ascatter f, 3), (.astage f, 4), (.afill f, 5), (.ahut f, 6), (.asummit f, 7)] →
    s.issuing i = some g → lastSlot g.pc = false → g.acquires.isEmpty = true → worst (g.once g.f.a).2 (worst (g.once g.f.b).2 (g.once g.f.c).2) = none →
    (op = 1 → (g.record g.f.a).poison = none) → (∀ n, g.f.d = .h n → (g.grp.hreg n.toNat).st ≠ .pending) → g.s.engineHeld g.team.core < engineRoom →
    let s0 := if g.f.mod.getLsbD 4 && decide (4 ≤ g.scope) then g.s.escape g.ref else g.s
    ∃ t c, exec i s = .next t ∧
      (Stated.inState g { s0 with nextId := g.s.nextId + 1, cmds := g.s.cmds ++ [c] }).After id
        (match g.f.d with | .h n => g.grp.setH n.toNat { Handle.null with st := .pending, cmd := some g.s.nextId } | _ => g.grp) t ∧
      c.id = g.s.nextId ∧ c.op = op ∧ c.core = g.team.core ∧ c.team = g.ref ∧ c.place = g.grp.key ∧ c.accepted = false ∧ c.sent = false ∧ c.cancel = false ∧
      c.hreg = (match g.f.d with | .h n => some n.toNat | _ => none) ∧ c.a.toNat = (g.once g.f.a).1 % 2 ^ 64 ∧ c.b.toNat = (g.once g.f.b).1 % 2 ^ 64 ∧
      c.c.toNat = (g.once g.f.c).1 % 2 ^ 64 ∧ c.mod = g.f.mod ∧ c.imm = g.f.imm ∧ c.acq = g.f.mod.getLsbD 3 ∧ c.rel = g.f.mod.getLsbD 4 ∧ c.scope = g.scope

/-- R267 to R269: `hwait` goes on once its handle is not pending and parks before; `htest` reads the handle's status word; `hpass` attaches its signal to a pending
handle or gives it at once; `hcancel` marks the command of a pending handle. -/
def Stated.HandleInstructions : Prop :=
  ∀ (f : Fields) (s : State) (g : GCtx), lastSlot g.pc = false → Stated.roomForValue g = true →
    let n := opNum g.f.a
    let h := g.grp.hreg n
    let code : BitVec 8 := match h.st with | .null => 0 | .pending => 1 | .done => 2 | .error => 3 | .cancelled => 4 | .part => 5 | .poisoned => 6
    let word : DWord := (0 : BitVec 16) ++ h.mmask ++ h.pmask ++ h.reason ++ code
    let imm := g.f.imm.toNat
    let signal : Signal := if imm % 4 = 0 then .barrier (imm / 4 % 16) else .ring (imm % 4 == 2) (imm / 4 % 8) (g.once g.f.b).1
    (s.issuing (.hwait f) = some g → h.st ≠ .pending → ∃ t, exec (.hwait f) s = .next t ∧ s.sameButTeams t ∧ g.After id g.grp t) ∧
    (s.issuing (.hwait f) = some g → h.st = .pending → exec (.hwait f) s = .next (s.park g.ref g.quad g.grp.place (.handle n))) ∧
    (s.issuing (.htest f) = some g → ∃ t, exec (.htest f) s = .next t ∧ s.sameButTeams t ∧
      g.After id (let G := g.grp.setS (opNum g.f.d) { val := word, poison := none }; if g.verified then G.pushValues [[(word.toNat, none)]] else G) t) ∧
    (s.issuing (.hpass f) = some g → (g.once g.f.b).2 = none → g.verified = false → h.st = .pending → h.signal = none →
      ∃ t, exec (.hpass f) s = .next t ∧ s.sameButTeams t ∧ g.After id (g.grp.setH n { h with signal := some signal }) t) ∧
    (s.issuing (.hpass f) = some g → (g.once g.f.b).2 = none → g.verified = false → h.st ≠ .pending →
      ∃ t, exec (.hpass f) s = .next t ∧ s.sameButTeams t ∧
        { g with team := g.team.give signal, s := s.setTeam (g.team.give signal) : GCtx }.After id g.grp t) ∧
    (s.issuing (.hcancel f) = some g → h.st ≠ .pending → ∃ t, exec (.hcancel f) s = .next t ∧ s.sameButTeams t ∧ g.After id g.grp t) ∧
    (s.issuing (.hcancel f) = some g → h.st = .pending → ∃ t, exec (.hcancel f) s = .next t ∧
      (Stated.inState g { s with cmds := s.cmds.map (fun (k : Cmd) => if some k.id = h.cmd ∧ ¬((k.op == 6 || k.op == 7) = true ∧ k.sent = true) then { k with cancel := true } else k) }).After
        id g.grp t)

/-- R254, R255, R257, R267 to R269: issuing a command to the async engine, and the instructions of handles. The fields of a command are the model's form
of what R254 captures. -/
def Obligations.AsyncAndHandles : Prop := Stated.AsyncCommands ∧ Stated.HandleInstructions

/-- R270 to R273: `barinit` writes the 128 bits of a fresh object with its EXP; `barexp` moves PEND by a signed amount, saturated to its width, arriving
with ARR, and the object flips its phase and clears CNT when CNT has reached EXP with PEND 0; no other byte of the scratchpad changes. That the team
keeps which addresses are objects is the model's way to test one after a plain store to it (R271; log 65). Reserved bits of an object, and which
stores test it, are the model's readings (log 65). -/
def Obligations.BarrierObjects : Prop :=
  ∀ (f : Fields) (s : State) (g : GCtx), lastSlot g.pc = false → (g.once g.f.a).2 = none → (g.once g.f.b).2 = none →
    let a := (g.once g.f.a).1
    let x := (g.once g.f.b).1
    (∃ k, g.s.kd? g.ref = some k ∧ a < k.spad) → a % 16 = 0 →
    g.s.cmds.all (fun (k : Cmd) => !(k.team == g.ref && k.place == g.grp.key && !k.accepted && k.bar == some a)) = true →
    let withTeam (t : Team) : GCtx := { g with team := t, s := g.s.setTeam t }
    let withSpad (m : Memory) : GCtx := withTeam { g.team with spad := m }
    let old := g.team.barObj a
    let sat (y : Int) : Int := max (-(2 ^ 55)) (min y (2 ^ 55 - 1))
    let p := sat (old.pend + sat (BitVec.ofNat 64 x).toInt)
    let moved : BarObj := { old with pend := p, ovf := old.ovf || decide (p ≠ old.pend + sat (BitVec.ofNat 64 x).toInt), cnt := if g.f.mod.getLsbD 5 then (old.cnt + 1) % 65536 else old.cnt }
    let new : BarObj := if moved.exp ≤ moved.cnt ∧ moved.pend = 0 then { moved with phase := !moved.phase, cnt := 0 } else moved
    (s.issuing (.barinit f) = some g → ∃ t, exec (.barinit f) s = .next t ∧ s.sameButTeams t ∧
      (withTeam { g.team with spad := g.team.spad.writeBytes a (bytesOfNat 16 (2 ^ 64 * (if x % 65536 = 0 then 1 else x % 65536)))
                              objs := if a ∈ g.team.objs then g.team.objs else g.team.objs ++ [a] }).After id g.grp t) ∧
    (s.issuing (.barexp f) = some g → g.f.mod.getLsbD 5 = true → g.verified = false →
      ∃ t, exec (.barexp f) s = .next t ∧ s.sameButTeams t ∧ (withSpad (g.team.spad.writeBytes a (bytesOfNat 16 new.bits))).After id g.grp t) ∧
    (s.issuing (.barexp f) = some g → g.f.mod.getLsbD 5 = false →
      ∃ t, exec (.barexp f) s = .next t ∧ s.sameButTeams t ∧ (withSpad (g.team.spad.writeBytes a (bytesOfNat 16 new.bits))).After id g.grp t)

/-! ### Synchronisation and system instructions -/

namespace Sys2Proof.Stated

/-- The issuing context with its team in another state. -/
def inTeam (g : GCtx) (t : Team) : GCtx := { g with team := t, s := g.s.setTeam t }

/-- LP with bit n set to a phase. -/
def withLp (lp : BitVec 16) (n : Nat) (ph : Bool) : BitVec 16 := if ph then lp ||| BitVec.ofNat 16 (2 ^ n) else lp &&& ~~~(BitVec.ofNat 16 (2 ^ n))

/-- One arrival at a numbered barrier (R201), of a party whose last write of `cairnkey` has the number `wrote` (R173). -/
def arrived (b : Barrier) (wrote : Nat) : Barrier :=
  let key := max b.keyNow wrote
  if b.cnt + 1 = b.exp then
    { phase := !b.phase, cnt := 0, exp := match b.newExp with | some e => e | none => b.exp, newExp := none, keyNow := 0, keyLast := max b.keyLast key }
  else { b with cnt := b.cnt + 1, keyNow := key }

end Sys2Proof.Stated

/-- R341, R342: `fence` completes at once unless FULL waits for the store queue, and a release at tenant scope or wider marks the cluster ESCAPED; it changes no register. -/
def Stated.Fences : Prop :=
  ∀ (f : Fields) (s : State) (g : GCtx), s.issuing (.fence f) = some g → lastSlot g.pc = false →
    (g.f.mod.getLsbD 5 = true → g.grp.storeQ ≠ [] → exec (.fence f) s = .next g.s) ∧
    (g.f.mod.getLsbD 5 = false ∨ g.grp.storeQ = [] →
      ∃ t, exec (.fence f) s = .next t ∧ (Stated.inState g (if g.f.mod.getLsbD 4 && decide (4 ≤ g.scope) then g.s.escape g.ref else g.s)).After id g.grp t)

/-- R173, R201, R203, R205, R342 to R344: arrivals and waits of a group at numbered barriers (`nbarr`, `nbwait`), rings (`ringw`, `rings`) and barrier objects (`barwait`).
An arrival records the phase in LP and counts once; a wait that is satisfied changes nothing but which writes of `cairnkey` the group may see, and one that is not
parks the group. -/
def Stated.GroupSync : Prop :=
  ∀ (f : Fields) (s : State) (g : GCtx), lastSlot g.pc = false → g.verified = false → g.lb = none →
    let n := g.f.imm.toNat % 16
    let r := g.f.imm.toNat % 8
    let x := (g.once g.f.a).1
    let gives (i : Instr) (team : Team) (grp : Group) : Prop := ∃ t, exec i s = .next t ∧ s.sameButTeams t ∧ (Stated.inTeam g team).After id grp t
    let waits (i : Instr) (p : Park) : Prop := exec i s = .next (s.park g.ref g.quad g.grp.place p)
    (s.issuing (.nbarr f) = some g → g.f.mod.getLsbD 5 = false → g.settled = true →
      ∃ t T, exec (.nbarr f) s = .next t ∧ s.sameButTeams t ∧ t.team? g.ref = some T ∧
        (Stated.inTeam g { g.team with barriers := T.barriers }).After id { g.grp with lp := Stated.withLp g.grp.lp n (g.team.phase n) } t ∧
        ∀ m b, g.team.barriers[m]? = some b → T.barriers[m]? = some (if m = n then Stated.arrived b g.grp.wrote else b)) ∧
    (s.issuing (.nbarr f) = some g → g.f.mod.getLsbD 5 = true → g.settled = true → ∀ b, g.team.barriers[n]? = some b →
      ∃ t T, exec (.nbarr f) s = .next t ∧ s.sameButTeams t ∧ t.team? g.ref = some T ∧
        (let b' := Stated.arrived b g.grp.wrote
         T.barriers[n]? = some b' ∧ (Stated.inTeam g { g.team with barriers := T.barriers }).After id
          { g.grp with lp := Stated.withLp g.grp.lp n b.phase, parked := if b'.phase = b.phase then some (.barrier n) else g.grp.parked
                       keyFrom := if b'.phase = b.phase then g.grp.keyFrom else max g.grp.keyFrom b'.keyLast } t)) ∧
    (s.issuing (.nbwait f) = some g → g.team.phase n ≠ g.grp.lp.getLsbD n →
      ∃ t, exec (.nbwait f) s = .next t ∧ s.sameButTeams t ∧
        g.After id { g.grp with keyFrom := match g.team.barriers[n]? with | some b => max g.grp.keyFrom b.keyLast | none => g.grp.keyFrom } t) ∧
    (s.issuing (.nbwait f) = some g → g.team.phase n = g.grp.lp.getLsbD n → waits (.nbwait f) (.barrier n)) ∧
    ((g.once g.f.a).2 = none → s.issuing (.ringw f) = some g →
      if g.team.ringFull r x = g.f.imm.getLsbD 3 then gives (.ringw f) g.team g.grp else waits (.ringw f) (.ringStage r x (g.f.imm.getLsbD 3))) ∧
    ((g.once g.f.a).2 = none → s.issuing (.rings f) = some g → g.settled = true → gives (.rings f) (g.team.ringSignal (g.f.mod.getLsbD 5) r x) g.grp) ∧
    ((g.once g.f.a).2 = none → (g.once g.f.b).2 = none → s.issuing (.barwait f) = some g → x % 16 = 0 → (∃ k, g.s.kd? g.ref = some k ∧ x + 16 ≤ k.spad) →
      g.team.present (x / 128) = true → g.f.mod.getLsbD 5 = false →
      if (g.team.barObj x).phase = ((g.once g.f.b).1 % 2 == 1) then waits (.barwait f) (.barObject x ((g.once g.f.b).1 % 2 == 1)) else gives (.barwait f) g.team g.grp) ∧
    ((g.once g.f.a).2 = none → (g.once g.f.b).2 = none → s.issuing (.barwait f) = some g → x % 16 = 0 → (∃ k, g.s.kd? g.ref = some k ∧ x + 16 ≤ k.spad) →
      g.team.present (x / 128) = true → g.f.mod.getLsbD 5 = true →
      let old := g.team.barObj x
      let one : BarObj := { old with cnt := (old.cnt + 1) % 65536 }
      let new : BarObj := if one.exp ≤ one.cnt ∧ one.pend = 0 then { one with phase := !one.phase, cnt := 0 } else one
      let team : Team := { g.team with spad := g.team.spad.writeBytes x (bytesOfNat 16 new.bits) }
      let ph : Bool := (g.once g.f.b).1 % 2 == 1
      gives (.barwait f) team (if (team.barObj x).phase = ph then { g.grp with parked := some (.barObject x ph) } else g.grp))

/-- R201, R203, R205, R341 to R344: fences, and a group at numbered barriers, rings and barrier objects. Which instruction waits for what is the model's
reading where the spec leaves it (log 34). -/
def Obligations.Synchronisation : Prop := Stated.Fences ∧ Stated.GroupSync

/-- R345 to R347, R349, R352 to R354: reads and writes of special registers, `isync`, `brk`, and the diagnostic instructions where they are enabled. -/
def Stated.SystemRegisters : Prop :=
  ∀ (f : Fields) (s : State) (g : GCtx), lastSlot g.pc = false → g.verified = false →
    let gives (i : Instr) (h : Thread → Thread) (grp : Group) : Prop := ∃ t, exec i s = .next t ∧ s.sameButTeams t ∧ g.After h grp t
    let vf := g.ref.vf
    let n := g.f.imm.toNat
    (s.issuing (.sread f) = some g → g.team.pend = [] →
      (∀ d, g.f.d = .s d → gives (.sread f) id (g.grp.setS d.toNat { val := BitVec.ofNat 64 (g.specialOnce (opNum g.f.a)), poison := none })) ∧
      ∀ d, g.f.d = .v d → gives (.sread f) (fun x => x.writeV (g.f.mod.getLsbD 5) d.toNat (g.special x (opNum g.f.a)) none) g.grp) ∧
    (s.issuing (.swrite f) = some g → (∀ x ∈ g.lanes, (g.raw x false g.f.a).2 = none) →
      (g.f.d = .special 16 → gives (.swrite f) (fun x =>
        { x with fstat := (x.fstat &&& ~~~(0x31F : Word)) ||| (BitVec.ofNat 32 (g.raw x false g.f.a).1 &&& (0x31F : Word)) }) g.grp) ∧
      (g.f.d = .special 18 → ∃ t, exec (.swrite f) s = .next t ∧ s.sameButTeams t ∧
        (Stated.inTeam g { g.team with ringerr := g.team.ringerr &&& ~~~(BitVec.ofNat 8 (g.once g.f.a).1) }).After id g.grp t) ∧
      (g.f.d = .special 17 → ∃ t, exec (.swrite f) s = .next t ∧ s.sameButTeams t ∧
        (let key := BitVec.ofNat 64 (g.once g.f.a).1
         let no := g.team.keyLog.length + 1
         (Stated.inTeam g { g.team with cairnkey := key, keyLog := g.team.keyLog ++ [key] }).After id { g.grp with keyFrom := no, wrote := no } t))) ∧
    (s.issuing (.isync f) = some g → ∃ t, exec (.isync f) s = .next t ∧ s.sameButTeams t ∧
      ∀ x ∈ g.team.members g.grp, ∃ y, t.threadOf g x.block x.lane = some y ∧
        y = { x with lbuf := [], st := if x.st = .lb then .wait else x.st, pc := if g.runs x && g.more.isNone then nextSeq g.pc else x.pc }) ∧
    (s.issuing (.icinv f) = some g → (g.once g.f.a).2 = none → (g.once g.f.b).2 = none →
      ∃ t G, exec (.icinv f) s = .next t ∧ g.After id G t ∧ G = { g.grp with parked := G.parked } ∧
        G.parked = some (.icinv g.scopeCores (if g.f.imm.getLsbD 0 then none else some ((g.once g.f.a).1, (g.once g.f.b).1)))) ∧
    (s.issuing (.brk f) = some g → gives (.brk f) id (if (s.ctx vf).brken then { g.grp with brk := some (BitVec.ofNat 16 n) } else g.grp)) ∧
    (s.issuing (.diagrd f) = some g → (s.ctx vf).diagen = true →
      gives (.diagrd f) id (g.grp.setS (opNum g.f.d) { val := ((s.quad (if n = 4 ∨ n = 5 then 4 * g.team.core else g.quad)).diag.get vf []).getD n 0, poison := none })) ∧
    (s.issuing (.diagwr f) = some g → (s.ctx vf).diagen = true → (g.once g.f.a).2 = none →
      let q := if n = 4 ∨ n = 5 then 4 * g.team.core else g.quad
      n < ((s.quad q).diag.get vf (List.replicate 8 0)).length → ∃ t, exec (.diagwr f) s = .next t ∧ g.After id g.grp t ∧
        -- the instruction itself is counted once it is over
        ((t.quad q).diag.get vf []).getD n 0 = BitVec.ofNat 64 (g.once g.f.a).1 + (if n = (if g.lb.isNone then 0 else 2) then 1 else 0)) ∧
    (s.issuing (.errinj f) = some g → (s.ctx vf).injen = true → (g.once g.f.a).2 = none →
      let kind : PoisonKind := match n % 8 with | 0 => .uncorrectable | 1 => .protection | 2 => .pageFault | 3 => .bounds | _ => .format
      let lane := (g.once g.f.a).1
      gives (.errinj f) id { g.grp with armed := if lane < 32 then some (kind, lane) else none })

/-- R353, R354, R358, R360: with its enable bit 0, `diagrd`, `diagwr` or `errinj` traps with PRIV for all executing lanes once every earlier instruction of its group has
completed, and changes nothing else. -/
def Stated.PrivilegedDiagnostics : Prop :=
  ∀ (f : Fields) (s : State) (g : GCtx), s.quiet g.site = true →
    let priv : Host.Outcome State Fault Refusal := .next (s.takeTrap g.site (g.trapInfo 0x30 g.lanes 0 0 0))
    (s.issuing (.diagrd f) = some g → (s.ctx g.ref.vf).diagen = false → exec (.diagrd f) s = priv) ∧
    (s.issuing (.diagwr f) = some g → (s.ctx g.ref.vf).diagen = false → exec (.diagwr f) s = priv) ∧
    (s.issuing (.errinj f) = some g → (s.ctx g.ref.vf).injen = false → exec (.errinj f) s = priv)

/-- R345 to R347, R349, R352 to R354: the system instructions, and the diagnostic ones where they are not enabled. What sread waits for is the model's
reading (log 34). -/
def Obligations.SystemInstructions : Prop := Stated.SystemRegisters ∧ Stated.PrivilegedDiagnostics

/-- R348, R358, R360, R361: once every earlier instruction of its group has completed, `trap` puts its group into TRAPPED with its program counters at the next instruction, and the context's free trap record holds the cause 0x38, the
code, that program counter, the lanes, and that the trap may be resumed. -/
def Stated.SoftwareTrap : Prop :=
  ∀ (f : Fields) (s : State) (g : GCtx), s.issuing (.trap f) = some g → s.quiet g.site = true → (s.ctx g.ref.vf).trap.valid = false →
    (s.ctx g.ref.vf).trap.hold = true →
    g.f.imm.toNat < 2 ^ 16 ∧ ∃ t ti, exec (.trap f) s = .next t ∧
      (∃ G, t.groupOf g = some G ∧ G = { g.grp with trap := some ti, runLen := 0, midRun := false }) ∧
      (∀ x ∈ g.lanes, t.threadOf g x.block x.lane = some { x with pc := nextSeq g.pc }) ∧
      (let r := (t.ctx g.ref.vf).trap
       r.valid = true ∧ r.resumable = true ∧ r.seq = false ∧ r.cause = 0x38 ∧ r.reason = 0 ∧ r.code = BitVec.ofNat 16 (g.f.imm.toNat % 65536) ∧ r.repIdx = 0 ∧ r.pc = nextSeq g.pc ∧
       r.quad = BitVec.ofNat 10 g.quad ∧ r.gplace = BitVec.ofNat 4 g.grp.place ∧ r.lanes = laneMask (g.lanes.map g.virt) ∧ r.addr = 0 ∧
       r.launchId = BitVec.ofNat 64 g.ref.launch ∧ r.cluster = BitVec.ofNat 32 g.ref.cluster ∧ r.hold = true ∧ r.pending = (s.ctx g.ref.vf).trap.pending) ∧
      (t.quad g.quad).holder ≠ some (g.ref, g.grp.place) ∧ (g.ref, g.grp.place) ∉ (t.quad g.quad).queue

/-- R358, R361, R362: what any trap records: into a free record its own values; with the record in use it only counts, and the record stays. -/
def Stated.TrapRecord : Prop :=
  ∀ (s : State) (w : TrapSite) (ti : TrapInfo), ti.cause ≠ 0x20 → ti.cause ≠ 0x28 → (s.ctx w.team.vf).trap.hold = true →
    let old := (s.ctx w.team.vf).trap
    let new := ((s.takeTrap w ti).ctx w.team.vf).trap
    (old.valid = true → new = { old with pending := BitVec.ofNat 32 (min (old.pending.toNat + 1) (2 ^ 32 - 1)) }) ∧
    (old.valid = false → new.valid = true ∧ new.cause = ti.cause ∧ new.reason = ti.reason ∧ new.code = ti.code ∧ new.pc = ti.pc ∧ new.repIdx = ti.repIdx ∧
      new.addr = ti.addr ∧ new.resumable = ti.resumable ∧ new.seq = w.seq ∧ new.lanes = (if w.seq then 0 else ti.lanes) ∧ new.quad = BitVec.ofNat 10 w.quad ∧
      new.pending = old.pending) ∧
    ∀ v, v ≠ w.team.vf → (s.takeTrap w ti).ctx v = s.ctx v

/-- R357, R358, R360, R361: the instructions that consume a value of the group trap on a poisoned source, once every earlier instruction of the group has completed, with the
code of the highest-ranked kind: `reorder`, `hpass`, `ringw`, `rings`, `barwait`, `icinv`, `barinit`, `barexp`, `diagwr` and `errinj` where they are enabled, and the commands of
the async engine for all executing lanes, `swrite` for the lanes that hold it. -/
def Stated.PoisonConsumption : Prop :=
  ∀ (f : Fields) (s : State) (g : GCtx) (k : PoisonKind), g.s.quiet g.site = true →
    let a := (g.once g.f.a).2
    let b := (g.once g.f.b).2
    let c := (g.once g.f.c).2
    let own := g.record g.f.a
    let traps (i : Instr) (p : Option PoisonKind) (reason : Nat) : Prop :=
      s.issuing i = some g → p = some k → exec i s = .next (g.s.takeTrap g.site (g.trapInfo k.code g.lanes 0 reason 0))
    traps (.reorder f) b 0 ∧ traps (.hpass f) b 0 ∧ traps (.ringw f) a 0 ∧ traps (.rings f) a 0 ∧ traps (.barwait f) (worst a b) 0 ∧ traps (.icinv f) (worst a b) 0 ∧
    traps (.barinit f) (worst a b) 0 ∧ traps (.barexp f) (worst a b) 0 ∧
    ((g.s.ctx g.ref.vf).diagen = true → traps (.diagwr f) a 0) ∧ ((g.s.ctx g.ref.vf).injen = true → traps (.errinj f) a 0) ∧
    (g.acquires.isEmpty = true →
      (∀ i ∈ [Instr.acopy f, .agather f, .ascatter f, .astage f, .afill f, .ahut f, .asummit f], traps i (worst a (worst b c)) 0) ∧
      traps (.awrite f) (worst own.poison (worst a (worst b c))) (if own.poison = some k ∧ k = .format then own.reason.toNat else 0)) ∧
    ∀ lanes, s.issuing (.swrite f) = some g → worstLanes (g.lanes.map (fun x => (x, (g.raw x false g.f.a).2))) = some (k, lanes) →
      exec (.swrite f) s = .next (g.s.takeTrap g.site (g.trapInfo k.code lanes 0 0 0))

/-- R362, R367, R386: a newly taken trap of a context under END ends its grid TRAPPED: its clusters are gone, and the launch has status TRAPPED with the cause as REASON, on
record until its near-memory commands are over, then in its completion record. -/
def Stated.TrapEnds : Prop :=
  ∀ (s : State) (w : TrapSite) (ti : TrapInfo) (l : Launch), ti.cause ≠ 0x20 → ti.cause ≠ 0x28 → (s.ctx w.team.vf).trap.hold = false →
    s.launch? w.team.vf w.team.launch = some l → l.ended = none →
    let t := s.takeTrap w ti
    t.clusters.all (fun c => !(c.vf == w.team.vf && c.launch == w.team.launch)) = true ∧
    ((∃ l', t.launch? w.team.vf w.team.launch = some l' ∧ l'.ended = some (3, ti.cause.toNat)) ∨
      ∃ u ∈ t.out.used, ∃ r, u.fn = .vf w.team.vf ∧ u.queue = l.queue ∧ u.record = some r ∧ r.status = 3 ∧ r.reason = ti.cause.toNat ∧ r.launchId = w.team.launch ∧ r.tag = l.pkt.tag)

/-- R348, R357, R358, R360 to R362, R367: the software trap, what any trap that is not sent to rollback records, the instructions that consume a poisoned
value of the group, and the end of a grid under END. That a trap waits in place until nothing is on its way to the group's registers is the model's reading
(log 52). -/
def Obligations.Traps : Prop := Stated.SoftwareTrap ∧ Stated.TrapRecord ∧ Stated.ScalarComparePoison ∧ Stated.PoisonConsumption ∧ Stated.TrapEnds

/-- R119, R358, R360: an instruction of a group that breaks a check of its encoding traps with the reason's code for all executing lanes, once every earlier instruction of
the group has completed; nothing else happens. -/
def Stated.IllegalInstructions : Prop :=
  ∀ (i : Instr) (s : State) (g : GCtx) (fm : Form) (f : Fields) (r : Ill), i.form = some (fm, f) → s.gctx? = some g → (g.legal fm f).1 = some r →
    exec i s = .next (if s.quiet g.site then s.takeTrap g.site (g.trapInfo r.code.toNat g.lanes 0 0 0) else s)

/-- R11, R317, R358, R360: a device or system scope that the VF's policy refuses traps with PRIV when ACT is 1, once every earlier instruction of the group has
completed, and REFCNT counts it then. -/
def Stated.ScopePolicy : Prop :=
  ∀ (i : Instr) (s : State) (g : GCtx) (fm : Form) (f : Fields), i.form = some (fm, f) → s.gctx? = some g → g.legal fm f = (none, f) → carriesScope fm = true →
    let v := s.vf g.ref.vf
    v.policyOld = none → v.act = true → (f.scope = 5 ∧ v.devOk = false ∧ v.sysOk = false) ∨ (f.scope = 6 ∧ v.sysOk = false) →
    exec i s = .next (if s.quiet g.site then (s.setVf g.ref.vf { v with refcnt := satInc v.refcnt }).takeTrap g.site (g.trapInfo 0x30 g.lanes 0 0 0) else s)

/-- R11, R119, R317, R358, R360: an instruction that breaks an encoding check, or whose scope is refused, traps at issue with no effect. That the trap
waits in place until nothing is on its way to the group's registers is the model's reading (log 52). Which policy applies within 1 µs of a write is
free (logs 2 and 45); the statement is for a policy that has settled. -/
def Obligations.RefusedAtIssue : Prop := Stated.IllegalInstructions ∧ Stated.ScopePolicy

/-! ### The matrix stream -/

namespace Sys2Proof.Stated

/-- The sequencer's context with its team in another state, or in another state of everything else. -/
def seqTeam (c : SCtx) (t : Team) : SCtx := { c with team := t, s := c.s.setTeam t }
def seqIn (c : SCtx) (s : State) : SCtx := { c with s := s }

/-- A value of R188: an s-register, where s0 reads 0, a constant, a special register or the IMM reference. -/
def seqValue (c : SCtx) (o : Operand) : BitVec 64 :=
  match o with
  | .s n => if n = 0 then 0 else c.seq.s.getD n.toNat 0
  | .const n => BitVec.ofInt 64 ((n.toNat : Int) - 64)
  | .special n => BitVec.ofNat 64 (groupSpecial c.s c.team c.quad n.toNat)
  | .imm zx => if zx then c.f.imm.zeroExtend 64 else c.f.imm.signExtend 64
  | _ => 0

/-- An s-register of a sequencer written; s0 discards it (R186). -/
def setSeq (q : Seq) (o : Operand) (x : BitVec 64) : Seq := if opNum o = 0 then q else { q with s := q.s.set (opNum o) x }

end Sys2Proof.Stated

/-- R186 to R189, R202 to R209: the stream's control, barrier and ring instructions (`mnop`, `mset`, `madd`, `mloop`, `mbra`, `mbarw`, `mbara`, `mringw`, `mrings`, `mset.bexp`,
`mset.ring`, `mseed`, `mexit`), each where it does not wait. -/
def Obligations.MatrixControl : Prop :=
  ∀ (f : Fields) (s : State) (c : SCtx), lastSlot c.seq.pc = false →
    let v := Stated.seqValue c
    let n := c.f.imm.toNat % 16
    let r := c.f.imm.toNat % 8
    let gives (i : Instr) (team : Team) (q : Seq) : Prop := s.seqIssuing i = some c → ∃ t, exec i s = .next t ∧ s.sameButTeams t ∧ (Stated.seqTeam c team).After (c.on q) t
    let line := Stated.targetLine c.seq.pc c.f.imm
    let goal := Stated.target c.seq.pc c.f.imm
    let look := c.s.targetOk c.team.core c.ref.vf goal
    let jumps (i : Instr) (q : Seq) : Prop := s.seqIssuing i = some c → 0 ≤ line → line < 2 ^ 51 → look.1 = some true →
      ∃ t, exec i s = .next t ∧ (Stated.seqIn c look.2).After { q with rep := c.more, pfx := none, pc := BitVec.ofNat 57 goal } t
    let rest : BitVec 64 := v c.f.d - 1
    let relation := c.f.mod.toNat % 8
    gives (.mnop f) c.team c.seq ∧
    gives (.mset f) c.team (Stated.setSeq c.seq c.f.d (v c.f.a)) ∧
    gives (.madd f) c.team (Stated.setSeq c.seq c.f.d (v c.f.a + v c.f.b)) ∧
    (rest = 0 → gives (.mloop f) c.team (Stated.setSeq c.seq c.f.d 0)) ∧
    (rest ≠ 0 → jumps (.mloop f) (Stated.setSeq c.seq c.f.d rest)) ∧
    (if relation = 6 ∨ (relation < 6 ∧ Stated.relation 64 relation false (v c.f.a) (v c.f.b) = true) then jumps (.mbra f) c.seq
      else relation ≠ 7 → gives (.mbra f) c.team c.seq) ∧
    (c.team.phase n ≠ c.seq.lp.getLsbD n → gives (.mbarw f) c.team c.seq) ∧
    (c.team.phase n = c.seq.lp.getLsbD n → s.seqIssuing (.mbarw f) = some c → exec (.mbarw f) s = .next s) ∧
    (c.seq.job = none → c.seq.drains.all (fun d => match d.dest with | .port _ => d.tile.isSome | .peer .. => false) = true → s.seqIssuing (.mbara f) = some c →
      ∃ t T, exec (.mbara f) s = .next t ∧ s.sameButTeams t ∧ t.team? c.ref = some T ∧
        (Stated.seqTeam c { c.team with barriers := T.barriers }).After (c.on { c.seq with lp := Stated.withLp c.seq.lp n (c.team.phase n) }) t ∧
        ∀ m b, c.team.barriers[m]? = some b → T.barriers[m]? = some (if m = n then Stated.arrived b c.seq.wrote else b)) ∧
    (c.team.ringFull r (v c.f.a).toNat = c.f.imm.getLsbD 3 → gives (.mringw f) c.team c.seq) ∧
    (c.team.ringFull r (v c.f.a).toNat ≠ c.f.imm.getLsbD 3 → s.seqIssuing (.mringw f) = some c → exec (.mringw f) s = .next s) ∧
    (c.seq.job = none → gives (.mrings f) (c.team.ringSignal (c.f.mod.getLsbD 0) r (v c.f.a).toNat) c.seq) ∧
    (∀ b, c.team.barriers[n]? = some b →
      let e := c.f.imm.toNat / 256 % 256
      gives (.msetBexp f) { c.team with barriers := c.team.barriers.set n (if b.cnt = 0 then { b with exp := e, newExp := none } else { b with newExp := some e }) } c.seq) ∧
    (∀ y, c.team.rings[r]? = some y → y.stages.all (fun x => decide (x = (false, 0))) = true →
      gives (.msetRing f) { c.team with rings := c.team.rings.set r { depth := c.f.imm.toNat / 16 % 16 + 1, np := c.f.imm.toNat / 256 % 64 + 1, nc := c.f.imm.toNat / 65536 % 64 + 1
                                                                      stages := List.replicate 16 (false, 0) } } c.seq) ∧
    gives (.mseed f) { c.team with cairnkey := v c.f.a, keyLog := c.team.keyLog ++ [v c.f.a] } { c.seq with wrote := c.team.keyLog.length + 1 } ∧
    (s.seqIssuing (.mexit f) = some c → ∃ t, exec (.mexit f) s = .next t ∧
      match t.seqOf c with
      | none => True
      | some q => q = { c.seq with exited := true, rep := none, pfx := none })

/-- R182, R190, R192 to R194, R211: `mzero`, `mldacc` and `mmac` where they do not wait: the accumulator they name, the debit of the budget, and nothing
else of the team, of memory or of another accumulator. An mmac without granules, and the wait for a refill that is owed, are the model's readings (log
33). -/
def Obligations.MatrixArray : Prop :=
  ∀ (f : Fields) (s : State) (c : SCtx), lastSlot c.seq.pc = false → c.mayWrite (opNum c.f.d) = true → c.seq.job = none → opNum c.f.d < 4 →
    let key := 4 * c.seq.slot + opNum c.f.d
    let v := Stated.seqValue c
    let low (o : Operand) : Nat := ((v o).truncate 32 &&& ~~~(0x3F : BitVec 32)).toNat
    let x := s.ctx c.ref.vf
    let others (T : Team) : Prop := T = { c.team with acc := T.acc, seqs := T.seqs } ∧ ∀ k, k ≠ key → T.tile k = c.team.tile k
    let queued (t : State) : Prop := ∃ q, t.seqOf c = some q ∧ q = { c.on c.seq with job := q.job, accReady := q.accReady, lvlWait := q.lvlWait }
    (s.seqIssuing (.mzero f) = some c → ∃ t T, exec (.mzero f) s = .next t ∧ s.sameButTeams t ∧ t.team? c.ref = some T ∧ others T ∧ queued t ∧
      T.tile key = List.replicate 4096 VReg.zero) ∧
    (∀ k, s.seqIssuing (.mldacc f) = some c → s.kd? c.ref = some k → low c.f.a + 16384 ≤ k.spad → (linesOf (low c.f.a) 16384).all c.team.present = true → c.team.badLines = [] →
      ∃ t T, exec (.mldacc f) s = .next t ∧ s.sameButTeams t ∧ t.team? c.ref = some T ∧ others T ∧ queued t ∧
        T.tile key = (List.range 4096).map (fun n => { val := BitVec.ofNat 32 (c.team.spad.nat (low c.f.a + 4 * n) 4), poison := none })) ∧
    (s.seqIssuing (.mmac f) = some c → s.usec ≤ s.refilled → 0 < x.level →
      let granules : Nat := ((v c.f.c).truncate 32 : BitVec 32).toNat
      ∃ t T, exec (.mmac f) s = .next t ∧ t = { s with clusters := t.clusters, quads := t.quads, ctxs := t.ctxs } ∧ t.team? c.ref = some T ∧ others T ∧ queued t ∧
        t.ctx c.ref.vf = { x with level := max (x.level - granules * (c.f.mod.toNat / 8 + 1)) (-(2 ^ 31)) } ∧ (∀ w, w ≠ c.ref.vf → t.ctx w = s.ctx w) ∧
        (granules = 0 → T.tile key = if c.f.mod.getLsbD 0 then List.replicate 4096 VReg.zero else c.team.tile key)) ∧
    (s.seqIssuing (.mmac f) = some c → s.usec ≤ s.refilled → x.level ≤ 0 → ∃ t, exec (.mmac f) s = .next t ∧ s.sameButTeams t ∧ t.mem = s.mem ∧
      ∃ q, t.seqOf c = some q ∧ q.pc = c.seq.pc ∧ q.job = none ∧ q.lvlWait = some s.cycle)

/-- R61: for up to 62 products of N8 or N4 codes, which lie between -127 and 127, the three residue channels and their weights give the exact sum, and the segment
contributes that sum times 2^(sa + sb - 254); the signed reading lies between -1,048,512 and 1,048,511. -/
def Obligations.ResidueSumsExact : Prop :=
  (∀ terms : List (Int × Int), terms.length ≤ 62 → (∀ t ∈ terms, -127 ≤ t.1 ∧ t.1 ≤ 127 ∧ -127 ≤ t.2 ∧ t.2 ≤ 127) →
    let e (m : Nat) : Nat := terms.foldl (fun e t => (e + (t.1 % (m : Int)).toNat * (t.2 % (m : Int)).toNat) % m) 0
    let x : Nat := (e 127 * 1056768 + e 128 * 2080641 + e 129 * 1056640) % (127 * 128 * 129)
    let signed : Int := if 1048512 ≤ x then (x : Int) - 127 * 128 * 129 else x
    signed = (terms.map (fun t => t.1 * t.2)).sum ∧ signed.natAbs ≤ 999998 ∧
    ∀ g : Segment, g.a.nan = false → g.b.nan = false →
      (List.range g.n).map (fun k => (g.a.code (g.ia + k), g.b.code (g.ib + k))) = terms.map (fun t => (some t.1, some t.2)) →
      g.residueVal = (ofInt signed).scale ((g.a.sb : Int) + (g.b.sb : Int) - 254)) ∧
  ∀ terms : List (Int × Int), -1048512 ≤ residueSum terms ∧ residueSum terms ≤ 1048511

/-- R187, R195, R197, R198, R200: `mdrain` and `mdradd` put a drain of their accumulator in progress, one at a time, and change nothing else but, where the target is
another cluster, the ESCAPED bit; a target that is not there traps with DRADD, once the stream's earlier instructions have completed. -/
def Obligations.MatrixDrains : Prop :=
  ∀ (f : Fields) (s : State) (c : SCtx), lastSlot c.seq.pc = false →
    let n := opNum c.f.a
    let b := Stated.seqValue c c.f.b
    let dst : TeamRef := { vf := c.ref.vf, launch := c.ref.launch, cluster := b.toNat % 2 ^ 32, cteam := b.toNat / 2 ^ 32 % 256 }
    let slot := b.toNat / 2 ^ 40 % 4
    let drain (d : DrainTo) : Drain := { acc := n, clear := c.f.mod.getLsbD 0, dest := d, tile := none, next := 0, pc := c.seq.pc }
    let room : Prop := ∃ l, s.launch? c.ref.vf c.ref.launch = some l ∧ slot < l.kd.footprint l.verify
    (s.seqIssuing (.mdrain f) = some c → c.seq.drains.all (fun d => d.acc != n) = true →
      ∃ t, exec (.mdrain f) s = .next t ∧ c.After (c.on { c.seq with drains := c.seq.drains ++ [drain (.port (c.f.mod.getLsbD 1))] }) t) ∧
    (s.seqIssuing (.mdradd f) = some c → c.seq.drains.all (fun d => d.acc != n) = true → room → s.target dst = .go →
      let bar := if c.f.imm.getLsbD 8 then some (c.f.imm.toNat / 16 % 16) else none
      ∃ t, exec (.mdradd f) s = .next t ∧ (Stated.seqIn c (if dst.cluster = c.ref.cluster then s else s.escape c.ref)).After
        (c.on { c.seq with drains := c.seq.drains ++ [drain (.peer dst slot (c.f.imm.toNat % 4) bar)] }) t) ∧
    (s.seqIssuing (.mdradd f) = some c → room → s.target dst = .trap → s.quiet c.site = true →
      exec (.mdradd f) s = .next (s.takeTrap c.site
        { cause := 0x31, reason := 0, code := 0, pc := c.seq.pc, repIdx := BitVec.ofNat 6 (match c.seq.rep with | some r => r.idx | none => 0), lanes := 0, addr := 0
          resumable := false }))

/-! ### The huts -/

namespace Sys2Proof.Stated

/-- A source of a hut instruction in element e: a register, or a parameter in every element (R280). -/
def hutSrc (x : Hut) (a : BitVec 5) (e : Nat) : Word := if a.toNat < 24 then (x.x.getD a.toNat []).getD e 0 else x.c.getD (a.toNat - 24) 0

/-- An operation of `.f32`, of each half of `.bf16`, or of a 32-bit integer, on one element (R280, R282). -/
def hutEl (t : BitVec 2) (fl : Fmt → Nat → Nat → Nat → Nat) (int : Bool → Word → Word → Word → Word) (a b c : Word) : Word :=
  if t = 0 then BitVec.ofNat 32 (fl fp32 a.toNat b.toNat c.toNat)
  else if t = 3 then
    let half (x : Word) (hi : Bool) : Nat := if hi then x.toNat / 65536 else x.toNat % 65536
    BitVec.ofNat 32 (fl bf16 (half a false) (half b false) (half c false) + 65536 * fl bf16 (half a true) (half b true) (half c true))
  else int (t == 1) a b c

/-- A relation of R142 between two float values: a NaN makes every one false but `.ne`. -/
def floatRel (F : Fmt) (cc a b : Nat) : Bool :=
  let x := F.unpack a
  let y := F.unpack b
  if x.unordered y then cc == 1
  else match cc with
    | 0 => x.eqv y
    | 1 => !x.eqv y
    | 2 => x.lt y
    | 3 => x.lt y || x.eqv y
    | 4 => y.lt x
    | _ => y.lt x || x.eqv y

/-- The register a hut instruction writes and its element e, from the table of R281. -/
def hutResult (no : Nat) : Instr → Option (BitVec 5 × (Hut → Nat → Word))
  | .hadd t d a b => some (d, fun x e => hutEl t (fun F a b _ => (F.add .rne (F.unpack a) (F.unpack b)).1) (fun _ a b _ => a + b) (hutSrc x a e) (hutSrc x b e) 0)
  | .hsub t d a b => some (d, fun x e => hutEl t (fun F a b _ => (F.add .rne (F.unpack a) (F.unpack b).negate).1) (fun _ a b _ => a - b) (hutSrc x a e) (hutSrc x b e) 0)
  | .hmul t d a b => some (d, fun x e => hutEl t (fun F a b _ => (F.mul .rne (F.unpack a) (F.unpack b)).1) (fun _ a b _ => a * b) (hutSrc x a e) (hutSrc x b e) 0)
  | .hfma t d a b c => some (d, fun x e =>
      hutEl t (fun F a b c => (F.fma .rne (F.unpack a) (F.unpack b) (F.unpack c)).1) (fun _ a b c => a * b + c) (hutSrc x a e) (hutSrc x b e) (hutSrc x c e))
  | .hmin t d a b => some (d, fun x e =>
      hutEl t (fun F a b _ => (F.minmax false a b).1) (fun sg a b _ => if (if sg then b.slt a else b.ult a) then b else a) (hutSrc x a e) (hutSrc x b e) 0)
  | .hmax t d a b => some (d, fun x e =>
      hutEl t (fun F a b _ => (F.minmax true a b).1) (fun sg a b _ => if (if sg then a.slt b else a.ult b) then b else a) (hutSrc x a e) (hutSrc x b e) 0)
  | .habs t d a => some (d, fun x e => hutEl t (fun F a _ _ => a % F.signBit) (fun _ a _ _ => if a.msb then -a else a) (hutSrc x a e) 0 0)
  | .hand d a b => some (d, fun x e => hutSrc x a e &&& hutSrc x b e)
  | .hor d a b => some (d, fun x e => hutSrc x a e ||| hutSrc x b e)
  | .hxor d a b => some (d, fun x e => hutSrc x a e ^^^ hutSrc x b e)
  | .hshl _ d a b => some (d, fun x e => hutSrc x a e <<< ((hutSrc x b e).toNat % 32))
  | .hshr t d a b => some (d, fun x e => if t = 1 then (hutSrc x a e).sshiftRight ((hutSrc x b e).toNat % 32) else hutSrc x a e >>> ((hutSrc x b e).toNat % 32))
  | .hcmp t d a b cc => some (d, fun x e =>
      hutEl t (fun F a b _ => if floatRel F cc.toNat a b then (if F.signBit = 2 ^ 31 then 2 ^ 32 - 1 else 2 ^ 16 - 1) else 0)
        (fun sg a b _ => if relation 32 cc.toNat (!sg) a b then BitVec.allOnes 32 else 0) (hutSrc x a e) (hutSrc x b e) 0)
  | .hsel d a b c => some (d, fun x e => if hutSrc x c e ≠ 0 then hutSrc x a e else hutSrc x b e)
  | .hmov d a => some (d, fun x e => hutSrc x a e)
  | .hbcast d a k => some (d, fun x _ => hutSrc x a k.toNat)
  | .hsum t d a => some (d, fun x e =>
      if e = 0 then (List.range 7).foldl (fun acc k => hutEl t (fun F a b _ => (F.add .rne (F.unpack a) (F.unpack b)).1) (fun _ a b _ => a + b) acc (hutSrc x a (k + 1)) 0) (hutSrc x a 0)
      else 0)
  | .hseti t d imm => some (d, fun _ _ => if t = 0 then BitVec.ofNat 32 (fp32.round .rne (ofInt imm.toInt)).1 else imm.signExtend 32)
  | .hidx _ d sel => some (d, fun x _ => BitVec.ofNat 32 (match sel.toNat with | 0 => x.i0 | 1 => x.i1 | 2 => no | _ => x.wn))
  | _ => none

/-- The integer nearest to a value, ties to even, saturated to a range; a NaN gives 0 (R54 under RNE). -/
def nearestInt (lo hi : Int) (v : FVal) : Int :=
  match v with
  | .nan _ => 0
  | .inf n => if n then lo else hi
  | .fin n m e => let k : Int := (nearestEven m e).1; max lo (min hi (if n then -k else k))

/-- The hut's record after an instruction that leaves it as `x`, outside any loop body that ends here: the next word follows. -/
def hutNext (x : Hut) : Hut := { x with pc := x.pc + 1 }

end Sys2Proof.Stated

/-- R280 to R282: each computing hut instruction (`hadd`, `hsub`, `hmul`, `hfma`, `hmin`, `hmax`, `habs`, `hand`, `hor`, `hxor`, `hshl`, `hshr`, `hcmp`, `hsel`, `hmov`,
`hbcast`, `hsum`, `hseti`, `hidx`) completes: it writes eight elements in the bits its type gives; no other register of the hut, no parameter, no other hut and no memory changes,
and the next word follows where no loop body ends. -/
def Stated.HutComputations : Prop :=
  ∀ (t sel : BitVec 2) (d a b c : BitVec 5) (cc e : BitVec 3) (imm : BitVec 19) (s : State) (k : HCtx), s.hctx? = some k →
    k.hut.loops.all (fun l => l.last != k.hut.pc) = true →
    ∀ i ∈ [Instr.hadd t d a b, .hsub t d a b, .hmul t d a b, .hfma t d a b c, .hmin t d a b, .hmax t d a b, .habs t d a, .hand d a b, .hor d a b, .hxor d a b, .hshl t d a b,
        .hshr t d a b, .hcmp t d a b cc, .hsel d a b c, .hmov d a, .hbcast d a e, .hsum t d a, .hseti t d imm, .hidx t d sel], hutIllegal i = none →
    ∃ h, Stated.hutResult k.no i = some (d, h) ∧ exec i s = .next (s.setHut k.no (Stated.hutNext { k.hut with x := k.hut.x.set d.toNat ((List.range 8).map (h k.hut)) }))

/-- R54, R281: `hcvt` converts each element under RNE, saturating: to FP32 and BF16 with one rounding, to `.i32` and `.z32` to the nearest integer, ties to even, within the
range, a NaN giving 0; a BF16 source or result is the low half, and the high half of a BF16 result is 0. -/
def Stated.HutConversions : Prop :=
  ∀ (t u : BitVec 2) (d a : BitVec 5) (s : State) (k : HCtx), s.hctx? = some k → hutIllegal (.hcvt t d a u) = none →
    k.hut.loops.all (fun l => l.last != k.hut.pc) = true →
    let source (x : Word) : FVal := if t = 0 then fp32.unpack x.toNat else if t = 1 then ofInt x.toInt else if t = 2 then ofInt x.toNat else bf16.unpack (x.toNat % 65536)
    let result (v : FVal) : Word :=
      if u = 0 then BitVec.ofNat 32 (fp32.round .rne v).1
      else if u = 1 then BitVec.ofInt 32 (Stated.nearestInt (-(2 ^ 31)) (2 ^ 31 - 1) v)
      else if u = 2 then BitVec.ofInt 32 (Stated.nearestInt 0 (2 ^ 32 - 1) v)
      else BitVec.ofNat 32 (bf16.round .rne v).1
    exec (.hcvt t d a u) s = .next (s.setHut k.no (Stated.hutNext { k.hut with x := k.hut.x.set d.toNat ((List.range 8).map (fun e => result (source (Stated.hutSrc k.hut a e)))) })) ∧
    ∀ x, (u = 3 → (result (source x)).toNat < 65536) ∧
      (t = 1 → u = 2 → result (source x) = if x.msb then 0 else x) ∧ (t = 2 → u = 1 → result (source x) = if x.msb then 0x7FFFFFFF else x)

/-- R54, R280 to R282: the results of the computing hut instructions. -/
def Obligations.HutResults : Prop := Stated.HutComputations ∧ Stated.HutConversions

/-- R284, R285, R291: `hnop` only goes on; `hloop` sets its index to 0 and enters its body with its count, or skips it where the count is 0; `hend` takes
the hut out of the command's run. The machine's running command and index are the model's form of R279. -/
def Obligations.HutControl : Prop :=
  ∀ (s : State) (k : HCtx), s.hctx? = some k → k.hut.loops.all (fun l => l.last != k.hut.pc) = true →
    exec .hnop s = .next (s.setHut k.no (Stated.hutNext k.hut)) ∧
    (∀ (lv cs : Bool) (n : BitVec 12) (bl : BitVec 7), hutIllegal (.hloop lv cs n bl) = none →
      let count : Nat := if !cs then n.toNat else if n.toNat < 4 then (k.hut.c.getD n.toNat 0).toNat else k.hut.wn
      let x : Hut := if lv then { k.hut with i1 := 0 } else { k.hut with i0 := 0 }
      let l : HutLoop := { lv := lv, first := k.hut.pc + 1, last := k.hut.pc + bl.toNat, count := count, idx := 0 }
      (count ≠ 0 → exec (.hloop lv cs n bl) s = .next (s.setHut k.no { x with pc := k.hut.pc + 1, loops := l :: k.hut.loops })) ∧
      (count = 0 → k.hut.loops.all (fun l => l.last != k.hut.pc + bl.toNat) = true →
        exec (.hloop lv cs n bl) s = .next (s.setHut k.no { x with pc := k.hut.pc + bl.toNat + 1 }))) ∧
    ∃ t, exec .hend s = .next t ∧ (t.hut k.no).running = none ∧ (t.hut k.no).loops = [] ∧ (t.hut k.no).x = k.hut.x ∧ (t.hut k.no).c = k.hut.c ∧
      (t.hut k.no).ib = k.hut.ib ∧ (t.hut k.no).tag = k.hut.tag

/-- R224, R283, R295: `hld` and `hst` move 32 bytes at unit K + i0 × STR0 + i1 × STR1 of the region's stripe, once their command slot is granted and the
home has recalled every copy; a unit outside the window stops the hut with bounds, and a store to a page that is not writable with protection, with no
effect on memory or registers. That a faulting access needs no command slot is the model's reading (log 35). -/
def Obligations.HutMemory : Prop :=
  ∀ (s : State) (k : HCtx) (d kk : BitVec 5) (n : BitVec 2), s.hctx? = some k → d.toNat < 24 → k.hut.loops.all (fun l => l.last != k.hut.pc) = true →
    let u : Int := (kk.toNat : Int) + k.hut.i0 * k.cmd.str0 + k.hut.i1 * k.cmd.str1
    let out : Prop := u < 0 ∨ (k.hut.wn : Int) ≤ u ∨ k.cmd.nreg ≤ n.toNat
    let pa := k.cmd.phys (k.cmd.regionPage n.toNat * 4096) + 1024 * k.no + k.hut.wstart + 32 * u.toNat
    let writable : Prop := ∀ p, k.leaf n = some p → k.cmd.nreg ≤ n.toNat ∨ pteBit p.1.toNat 2 = true
    (out → exec (.hld d kk n) s = .next (s.leaveHut k.no k.cmd.id (some 0x23) false none)) ∧
    (¬out → k.hut.granted = true → s.homeClear (pa / 64) = true → (s.coh.dirEntry (pa / 64)).owner = none →
      ((s.coh.dirEntry (pa / 64)).hostConflicts false).isEmpty = true → s.badAt pa 32 = false →
      let bytes : List Word := (List.range 8).map (fun e => BitVec.ofNat 32 (s.mem.nat (pa + 4 * e) 4))
      exec (.hld d kk n) s = .next ((s.rouse (pa / 64)).setHut k.no (Stated.hutNext { k.hut with granted := false, x := k.hut.x.set d.toNat bytes }))) ∧
    (¬writable → exec (.hst d kk n) s = .next (s.leaveHut k.no k.cmd.id (some 0x21) false none)) ∧
    (writable → out → exec (.hst d kk n) s = .next (s.leaveHut k.no k.cmd.id (some 0x23) false none)) ∧
    (writable → ¬out → k.hut.granted = true → s.mem.wf = true → s.homeClear (pa / 64) = true → s.coh.dirEntry (pa / 64) = DirEntry.reset →
      (s.leavesWait (stackPort (k.no % 16)) (k.dirties n)).isNone = true →
      ∃ t, exec (.hst d kk n) s = .next t ∧ t.hut k.no = Stated.hutNext { k.hut with granted := false } ∧
        t = { s with huts := t.huts, mem := t.mem, coh := t.coh, tlb := t.tlb, stackTab := t.stackTab, fabric := t.fabric } ∧ (∀ e < 8, t.mem.nat (pa + 4 * e) 4 = (Stated.hutSrc k.hut d e).toNat) ∧
        ∀ a, a < pa ∨ pa + 32 ≤ a → (∀ p, k.leaf n = some p → a < p.2 ∨ p.2 + 8 ≤ a) → t.mem.read a = s.mem.read a)

/-! ### Reading instructions, the step, invariants and reset (R102, R103, R107, R110 to R117, R123, R187, R279 to R284, R404) -/

/-- R110, R113, R117, R280, R281, R284: words written out from the encodings of the spec, and the instructions they stand for; a reserved opcode is none. -/
def Obligations.DecodeWords : Prop :=
  let always : Guard := { neg := false, p := 7 }
  let none4 (er : Bool) (pg : Guard) (mod : BitVec 6) (imm : BitVec 32) : Fields := { er := er, pg := pg, d := .none, a := .none, b := .none, c := .none, mod := mod, imm := imm }
  decodeWord 0x3001FE0F83E0F80000000000 = some (.nop (none4 false always 0 0)) ∧
  decodeWord 0xB029FE0F83E0F80000000000 = some (.exit (none4 true always 0 0)) ∧
  decodeWord 0x30047E0F83E0F800FFFFFFFA = some (.bra (none4 false { neg := false, p := 1 } 0 0xFFFFFFFA)) ∧
  decodeWord 0x7001FE0F83E0F80700000003 = some (.rep (none4 false always 7 3)) ∧
  decodeWord 0x6081FE0F83E0F83B00000000 = some (.fence (none4 false always 0x3B 0)) ∧
  decodeWord 0x0001C0300402F80000000000 = some (.vadd { er := false, pg := always, d := .v 3, a := .v 1, b := .v 2, c := .none, mod := 0, imm := 0 }) ∧
  decodeWord 0x004DF0100644F80000000005 = some (.vsetp { er := false, pg := always, d := .p 1, a := .v 1, b := .const 68, c := .none, mod := 0, imm := 5 }) ∧
  decodeWord 0x2001C08D0801F80000001002 = some (.ld { er := false, pg := always, d := .v 8, a := .b 2, b := .v 1, c := .none, mod := 0, imm := 0x1002 }) ∧
  decodeWord 0x4001F2140640F80081000000 = some (.acopy { er := false, pg := always, d := .h 1, a := .s 1, b := .const 64, c := .none, mod := 0, imm := 0x81000000 }) ∧
  decodeWord 0x5009F6090240909800000004 = some (.mmac { er := false, pg := always, d := .a 0, a := .const 64, b := .const 64, c := .const 66, mod := 0x18, imm := 4 }) ∧
  decodeWord 0x6001C04D040200D500000002 = some (.gadd { er := false, pg := always, d := .v 4, a := .b 1, b := .v 2, c := .v 3, mod := 0x15, imm := 2 }) ∧
  decodeWord 0x6041C0290241F80000000002 = some (.padd { er := false, pg := always, d := .v 2, a := .const 64, b := .const 65, c := .none, mod := 0, imm := 2 }) ∧
  decodeWord 0x0099FE0F83E0F80000000000 = none ∧
  decodeHut 0x59004040 = some (.hloop false true 4 4) ∧ decodeHut 0x5B002070 = some (.hloop true true 2 7) ∧ decodeHut 0x4C001000 = some (.hld 0 0 1) ∧
  decodeHut 0x10083010 = some (.hfma 0 1 0 24 1) ∧ decodeHut 0x50080000 = some (.hst 1 0 0) ∧ decodeHut 0x64000000 = none

/-- R110 to R117: every word that is read as an instruction is the word of that instruction, and every legal instruction with a 96-bit word is read back from it, with
every operand at every value; so also from the twelve bytes of a slot, in the order of R102. -/
def Obligations.DecodeEncodeProgram : Prop :=
  (∀ (w : IWord) (i : Instr), decodeWord w = some i → encodeWord i = some w) ∧
  (∀ (i : Instr) (w : IWord), i.WellFormed → encodeWord i = some w → decodeWord w = some i) ∧
  ∀ (i : Instr) (bytes : List Byte), i.WellFormed → i.form.isSome = true → encode i = some bytes → decodeSlot bytes = some i

/-- R280, R281, R283, R284: every hut word that is read as an instruction is the word of that instruction, and every hut instruction is read back from its word, and from
its four bytes. -/
def Obligations.DecodeEncodeHut : Prop :=
  (∀ (w : BitVec 32) (i : Instr), decodeHut w = some i → encodeHut i = some w) ∧
  (∀ (i : Instr) (w : BitVec 32), encodeHut i = some w → decodeHut w = some i ∧ encode i = some (bytesOfNat 4 w.toNat) ∧ decodeHutBytes (bytesOfNat 4 w.toNat) = some i)

namespace Sys2Proof.Stated

/-- The word a fetch at `pc` delivers: the slot of a cached line of the context without an error, a format fault or a parity fault (R107). -/
def slotWord (s : State) (core ctx : Nat) (pc : Pc) : Option IWord :=
  match s.iline core ctx (pc.toNat / 64) with
  | some l => if l.error = false ∧ l.word.toNat % 2 ^ 19 = 0 ∧ l.bad.getLsbD (pc.toNat % 64 / 12) = false then some (l.slots.getD (pc.toNat % 64 / 12) 0) else none
  | none => none

/-- The state in which an issuer executes the word it fetched: its cluster is running (R366). -/
def issuingAs (s : State) (r : TeamRef) (cur : Issuer) (w : IWord) : State := { s.markRunning r with cur := cur, curWord := w }

end Sys2Proof.Stated

/-- R107, R123, R125, R187, R279, R285: a step is the turn the schedule names, once the cycles before it have passed and writes of the module itself that
can now be made are made (log 66). An event executes as the module; a quadrant's holder executes the word at its broadcast address, a lane the
instruction in its loop buffer, a stream the word at its program counter, and a hut the word at its index, or `hend` at the end of its program, before
its deadline; a missing line is filled first. The schedule, and that the broadcast address is chosen again while an instruction waits in place, are
the model's own (logs 7 and 8). -/
def Obligations.StepRunsDecoded : Prop :=
  ∀ (s : State),
    let u := s.nextTurn.1
    let s1 := s.nextTurn.2.settleOwed.restTimers
    s1.boot.railsOff = false →
    (∀ i : Instr, u = .event i → step s = exec i { s1 with cur := .module }) ∧
    (∀ (q : Nat) (r : TeamRef) (place : Nat) (t t' : Team) (g : Group) (pc : Pc), u = .quad q →
      let s2 := (s1.wakeQuad q).arbitrate q
      (s2.quad q).holder = some (r, place) → s2.team? r = some t → t.group? (t.slotOf q) place = some g → t.subscribe (s2.ownsBuffers q r place) g = (t', some pc) →
      let s3 := s2.setTeam t'
      (∀ (w : IWord) (i : Instr), Stated.slotWord s3 t'.core r.vf pc = some w → decodeWord w = some i →
        step s = exec i (Stated.issuingAs s3 r (.group q r place) w)) ∧
      (s3.iline t'.core r.vf (pc.toNat / 64) = none → s3.walkStuck t'.core r.vf (pc.toNat / 64 * 64) .fetch = false →
        ∀ (l : Line) (s4 : State), s3.translate t'.core r.vf (pc.toNat / 64 * 64) .fetch = (.ok l, s4) →
        step s = exec (.icacheFill t'.core r.vf (pc.toNat / 64) 0) { s4 with cur := .module })) ∧
    (∀ (q lane : Nat) (r : TeamRef) (place : Nat) (t : Team) (g : Group) (x : Thread) (e : LbEntry) (i : Instr), u = .lb q lane →
      (s1.quad q).holder = some (r, place) → s1.team? r = some t → t.group? (t.slotOf q) place = some g → (g.lbOver s1.cycle && t.allLb g) = false →
      (t.members g).find? (fun x => x.lane == lane && decide (x.st = .lb)) = some x → s1.ownsBuffers q r place = true → x.captured = some e → x.lbNext = some i →
      step s = exec i { s1 with cur := .lane q r place lane, curWord := e.word }) ∧
    (∀ (q : Nat) (t : Team) (x : Seq) (w : IWord) (i : Instr), u = .seq q → s1.seqTeam q = some (t, x) → x.exited = false → x.trap = none →
      Stated.slotWord s1 t.core t.ref.vf x.pc = some w → decodeWord w = some i → step s = exec i (Stated.issuingAs s1 t.ref (.seq q t.ref x.slot) w)) ∧
    (∀ h id : Nat, u = .hut h → (s1.hut h).running = some id → s1.cmds.all (fun c => !(c.id == id && s1.past c)) = true →
      let plen := match (s1.hut h).tag with | some (_, _, n) => n | none => 96
      (plen ≤ (s1.hut h).pc → step s = exec .hend { s1 with cur := .hut h }) ∧
      ∀ i : Instr, (s1.hut h).pc < plen → decodeHut ((s1.hut h).ib.getD (s1.hut h).pc 0) = some i → step s = exec i { s1 with cur := .hut h })

/-- The step of the state in which a word of the opcode table is placed to be fetched next executes exactly that word, of a team of the loaded program or
of a hut. How a program comes to stand there is the model's own choice (log 9). -/
def Obligations.PlacedWordRuns : Prop :=
  ∀ (w : Nat) (i : Instr),
    (decodeTableWord 96 w = some i → ∃ t : State, step (State.reset.withFetchWord 96 w) = exec i t ∧ t.curWord = BitVec.ofNat 96 w ∧
      ((∃ g, t.gctx? = some g ∧ g.pc = 0 ∧ g.lanes.length = 32 ∧ t.cur = .group 0 g.ref 0) ∨ ∃ c, t.sctx? = some c ∧ c.seq.pc = 0 ∧ t.cur = .seq 0 c.ref 0)) ∧
    (decodeTableWord 32 w = some i → ∃ t : State, step (State.reset.withFetchWord 32 w) = exec i t ∧ t.cur = .hut 0 ∧ ∃ k, t.hctx? = some k ∧ k.hut.pc = 0)

/-- R5, R217: every step keeps device and host memory, scratchpads and B-SRAM shares in their canonical form. The canonical form is the model's own, no
rule of the spec; the statement is about every state, not only those a run reaches. -/
def Obligations.MemoryCanonicalKept : Prop :=
  ∀ (s t : State), s.storesWf = true → step s = .next t → t.storesWf = true

/-- R121, R231: every step keeps the numbers of pending loads below the next number to be given out, and group places 0 to 15. The number counter is the
model's own; group places 0 to 15 are R121. -/
def Obligations.NumbersKept : Prop :=
  ∀ (s t : State), s.numbersWf = true → step s = .next t → t.numbersWf = true

/-- The two invariants hold after reset. Both invariants, and memory that lists nothing, are the model's own (log 1). -/
def Obligations.InvariantsAtReset : Prop :=
  State.reset.storesWf = true ∧ State.reset.numbersWf = true

/-- R7, R241, R278, R387, R393, R404, R405: after module reset the registers of a PF read their Reset values, and those of a VF 0; no container is loaded, no VF
exists, nothing runs, and memory lists nothing. -/
def Stated.ResetLeaves : Prop :=
  let r := State.reset
  (∀ (i : Fin 2) (off : Nat), off % 8 = 0 → off < 2 ^ 32 →
    ((∃ k < 16, off = 0x20000 + 256 * k) → r.readReg (.pf i) off = 0x148) ∧
    ((∃ a b : Nat, a < b ∧ b < 25 ∧ off = 0xC000 + 8 * (25 * a + b)) → r.readReg (.pf i) off = 0xFFFF00) ∧
    ((∃ v < 128, off = 0x2B000 + 16 * v) → r.readReg (.pf i) off = 0xFF0) ∧
    (off = 0x2C008 → r.readReg (.pf i) off = 2800) ∧
    ((∃ k < 64, off = 0x40000 + 256 * k + 8) → r.readReg (.pf i) off = 0xFFFFFFFF) ∧
    ((∀ k < 16, off ≠ 0x20000 + 256 * k) → (∀ a b : Nat, a < b → b < 25 → off ≠ 0xC000 + 8 * (25 * a + b)) → (∀ v < 128, off ≠ 0x2B000 + 16 * v) →
      off ≠ 0x2C008 → (∀ k < 64, off ≠ 0x40000 + 256 * k + 8) → r.readReg (.pf i) off = 0)) ∧
  (∀ v off : Nat, off % 8 = 0 → off < 2 ^ 32 → r.readReg (.vf v) off = 0) ∧
  (∀ v : Nat, (r.vf v).containers = [] ∧ (r.vf v).created = false ∧ (r.vf v).enabled = none) ∧
  r.mem = [] ∧ r.launches = [] ∧ r.clusters = [] ∧ r.cmds = [] ∧ r.parts = [] ∧ r.boot.stage = 0

/-! ### The module's own steps: functions and their driver (R70 to R82, R382, R398) -/

namespace Sys2Proof.Stated

/-- The module itself moves: no issuer is executing. -/
def asModule (s : State) : State := { s with cur := .module }

/-- The feature bits a function offers (R72, R92). -/
def offers (s : State) (fn : Fn) (n : Nat) : Prop :=
  n ∈ [0, 1, 2, 3, 6, 7, 28, 29, 32, 33, 36, 38, 40] ∨
    match fn with
    | .pf i => n = 37 ∨ (n = 5 ∧ (s.pf i).cxl = true)
    | .vf v => (n = 4 ∧ (s.vf v).created = true ∧ (s.vf v).wclass ≤ 2) ∨ (n = 5 ∧ ∃ i, (s.vf v).enabled = some i ∧ (s.pf i).cxl = true)

/-- The bits a driver must accept (R72). -/
def mustAccept : Fn → List Nat
  | .pf _ => [32, 33, 36, 37]
  | .vf _ => [32, 33, 36]

/-- A VF as its reset leaves it (R82, R382): GEN one higher, timelines 0, no queue, no buffer, nothing held. -/
def resetVf (f : Vf) : Vf :=
  { f with tr := Transport.reset, gen := f.gen + 1, timelines := List.replicate 8 0, queues := [], evBufs := [], held := [],
           evDrop := satInc f.evDrop f.held.length, preempted := false, bstate := .active, holdoff := false, lendvf := 0xFF, timer := 0,
           wakeAt := none, collapseStep := 0, told := [], refcnt := 0 }

/-- The front end of a work queue stands at request `c`, with `rest` behind it (R74, R84, R394). -/
structure Reads (s : State) (v queue : Nat) (c : Chain) (rest : List Chain) : Prop where
  open' : (s.vf v).ready = true ∧ (s.vf v).tr.unusable = false ∧ (s.vf v).bstate = .active
  queue' : queue < (s.vf v).nwq ∧ ((s.vf v).queues.get queue VQueue.reset).kicked = true ∧ ((s.vf v).queues.get queue VQueue.reset).enabled = true
  room : (s.launches.filter (fun (l : Launch) => l.vf == v)).length < 256
  avail : ((s.vf v).queues.get queue VQueue.reset).avail = c :: rest

/-- The front end of an administration queue stands at a request of a kind, whose fixed bytes are there and whose final buffer takes a record. -/
structure AdminReads (s : State) (pf : Fin 2) (c : Chain) (rest : List Chain) (kind size : Nat) : Prop where
  open' : (s.pf pf).ready = true ∧ (s.pf pf).tr.unusable = false ∧ (s.pf pf).adminQ.kicked = true
  avail : (s.pf pf).adminQ.avail = c :: rest
  final : c.finalWritable = true ∧ 32 ≤ c.finalLen
  kind' : c.req.head? = some (BitVec.ofNat 8 kind)
  size' : size ≤ c.req.length

/-- The used-ring entry of a request that is no launch, with its completion record (R76, R384, R385). -/
def answered (fn : Fn) (queue head : Nat) (gen : BitVec 16) (status reason slot rcode : Nat) (tag : DWord) : Used :=
  let rc : CompRec := { status := status, reason := reason, slot := slot, rcode := rcode, gen := gen, launchId := 0, tag := tag, rollbacks := 0 }
  { fn := fn, queue := queue, head := head, len := 32, record := some rc, written := rc.bytes }

end Sys2Proof.Stated

/-- R72 to R74: FEATURES_OK keeps a word that accepts only offered bits and every required one, and otherwise leaves the function unusable; DRIVER_OK
sets only on a ready, usable function. -/
def Stated.FeatureNegotiation : Prop :=
  ∀ (fn : Fn) (word : BitVec 128) (s : State),
    let m := Stated.asModule s
    let t := s.transport fn
    let good : Prop := (∀ n, word.getLsbD n = true → Stated.offers s fn n) ∧ ∀ n ∈ Stated.mustAccept fn, word.getLsbD n = true
    (t.featuresOk = false → t.unusable = false → s.present fn = true →
      (good → exec (.featuresOk fn word) s = .next (m.setTransport fn { t with features := word, featuresOk := true })) ∧
      (¬good → exec (.featuresOk fn word) s = .next (m.setTransport fn { t with unusable := true }))) ∧
    (s.ready fn = true → t.unusable = false → s.present fn = true → exec (.driverOk fn) s = .next (m.setTransport fn { t with driverOk := true })) ∧
    (s.ready fn = false ∨ t.unusable = true → exec (.driverOk fn) s = .next m) ∧
    (s.present fn = false → exec (.featuresOk fn word) s = .next m ∧ exec (.driverOk fn) s = .next m)

/-- R71, R74, R376, R392, R394, R84, R78, R79: what a notify write does to its queue and wakes, and what the front end does with a SIGNAL and with a LAUNCH it
admits or refuses. -/
def Stated.FrontEndRequests : Prop :=
  ∀ (v queue : Nat) (s : State),
    let m := Stated.asModule s
    let q := (s.vf v).queues.get queue VQueue.reset
    (∀ (posted : List Chain) (i : Fin 2), exec (.notify (.pf i) 0 posted) s = .next (m.setPf i { s.pf i with adminQ :=
      { (s.pf i).adminQ with avail := (s.pf i).adminQ.avail ++ posted, kicked := (s.pf i).adminQ.kicked || (s.ready (.pf i) && !(s.pf i).tr.unusable) } })) ∧
    (∀ posted : List Chain, (s.vf v).ready = false ∨ (s.vf v).tr.unusable = true →
      exec (.notify (.vf v) queue posted) s = .next (m.setVf v { s.vf v with queues := (s.vf v).queues.set queue { q with avail := q.avail ++ posted } })) ∧
    (∀ posted : List Chain, (s.vf v).ready = true → (s.vf v).tr.unusable = false →
      ∃ t : State, exec (.notify (.vf v) queue posted) s = .next t ∧ (t.vf v).timer = 0 ∧
        ((s.vf v).bstate = .collapsing ∨ (s.vf v).bstate = .collapsed → (t.vf v).bstate = .waking ∧ (t.vf v).wakeAt = some s.cycle) ∧
        ((s.vf v).bstate = .active ∨ (s.vf v).bstate = .waking → (t.vf v).bstate = (s.vf v).bstate ∧ (t.vf v).wakeAt = (s.vf v).wakeAt) ∧
        (queue ≠ (s.vf v).nwq → ((s.vf v).bstate ≠ .collapsing ∨ (s.vf v).told = []) → (t.vf v).queues = (s.vf v).queues.set queue { q with avail := q.avail ++ posted, kicked := true }) ∧
        (queue = (s.vf v).nwq → ((t.vf v).queues.get queue VQueue.reset).avail = [] ∧
          (t.vf v).evBufs = (s.vf v).evBufs ++ ((q.avail ++ posted).filter (fun c => c.finalWritable && decide (32 ≤ c.finalLen))).map (·.head))) ∧
    (∀ (c : Chain) (rest : List Chain), Stated.Reads s v queue c rest → c.finalWritable = true → 32 ≤ c.finalLen →
      let tl := fieldAt c.req 1 1
      let value := fieldAt c.req 8 8
      (c.req.head? = some 2 → 16 ≤ c.req.length → fieldAt c.req 2 6 = 0 → tl ≤ 7 → (s.vf v).feature 1 = true →
        ∃ t : State, exec (.signal v queue) s = .next t ∧
          (t.vf v).timelines = updAt (s.vf v).timelines tl (fun x => BitVec.ofNat 64 (max x.toNat value)) ∧
          t.out.used = s.out.used ++ [Stated.answered (.vf v) queue c.head (s.vf v).gen 0 0 0xFF 0 0]) ∧
      (c.req.head? = some 1 → ∀ s1 : State, m.frontHead v queue = some (c, s1) →
        (∀ (k : KDesc) (code : Nat) (recs : Tab (BitVec 256)) (shares : List Nat), s1.admitLaunch v c = .ok k code recs shares →
          ∃ t : State, exec (.launch v queue) s = .next t ∧ t.out = s.out ∧ (t.vf v).launchNo = (s.vf v).launchNo + 1 ∧
            t.launches.length = s.launches.length + 1 ∧ ∃ l ∈ t.launches, l.vf = v ∧ l.id = (s.vf v).launchNo + 1 ∧ l.head = c.head ∧ l.queue = queue ∧
              l.gen = (s.vf v).gen ∧ l.pkt = packetOf c.req ∧ l.kd = k ∧ l.shares = shares ∧ l.retired = 0) ∧
        (∀ reason slot why : Nat, s1.admitLaunch v c = .refused reason slot why →
          ∃ t : State, exec (.launch v queue) s = .next t ∧ t.launches.map (·.id) = s.launches.map (·.id) ∧
            t.out.used = s.out.used ++ [Stated.answered (.vf v) queue c.head (s.vf v).gen 1 reason slot why (BitVec.ofNat 64 (fieldAt c.req 0x78 8))])))

/-- R71 to R74, R76, R78, R79, R84, R376, R392, R394: a function's negotiation, its notify writes, and the SIGNAL and LAUNCH requests of its queues.
Readings of queue corners and the layout of the configuration structures are the model's (logs 18, 40, 41, 50 and 70). -/
def Obligations.QueueRequests : Prop := Stated.FeatureNegotiation ∧ Stated.FrontEndRequests

/-- R80, R82, R382, R404, R74: a queue reset completes what was read as CANCELLED, at once where no command of the VF's
grids runs on; a reset of a VF ends its grids without records and raises GEN; a Function Level
Reset of a PF and PERST# reset its VFs; a link that has trained, at one of the speeds and widths of its standard, sends a readiness message. -/
def Stated.FunctionResets : Prop :=
  ∀ (s : State) (v queue : Nat) (i : Fin 2),
    let m := Stated.asModule s
    (queue < (s.vf v).nwq → (s.vf v).feature 40 = true →
      ∃ t : State, exec (.queueReset v queue) s = .next t ∧
        ((s.launches.map (fun l => (l.vf, l.id))).Nodup → ∀ l ∈ t.launches, l.vf = v → l.queue = queue → l.ended.isSome = true) ∧
        ((∀ l ∈ s.launches, l.vf = v → l.ended = none) → (∀ k ∈ s.cmds, k.team.vf = v → k.grid = none ∧ (k.nearMemory = true → k.sent = false)) →
          (∀ l ∈ t.launches, ¬(l.vf = v ∧ l.queue = queue)) ∧
          ∀ l ∈ s.launches, l.vf = v → l.queue = queue → ∃ u ∈ t.out.used, u.fn = .vf v ∧ ∃ rc, u.record = some rc ∧ rc.launchId = l.id ∧ rc.status = 2) ∧
        let q := (t.vf v).queues.get queue VQueue.reset
        q.avail = [] ∧ q.kicked = false ∧ q.enabled = false) ∧
    ((s.vf v).enabled = none → exec (.deviceStatusReset v) s = .next m ∧ exec (.vfFunctionLevelReset v) s = .next m) ∧
    ((s.vf v).enabled.isSome = true → ∃ t : State, exec (.deviceStatusReset v) s = .next t ∧ exec (.vfFunctionLevelReset v) s = .next t ∧ t.vf v = Stated.resetVf (s.vf v) ∧
      (∀ u, u ≠ v → t.vf u = s.vf u) ∧ t.out = s.out ∧ t.launches = s.launches.filter (fun l => l.vf != v) ∧
      (∀ c ∈ t.clusters, c.vf = v → ∀ l ∈ s.launches, l.vf = v → l.id ≠ c.launch) ∧
      t.ctx v = { Ctx.reset with level := (s.ctx v).level, refill := (s.ctx v).refill, cap := (s.ctx v).cap, capRefill := (s.ctx v).capRefill, herr := (s.ctx v).hbusy }) ∧
    (∃ t : State, exec (.pfFunctionLevelReset i) s = .next t ∧ t.pf i = { s.pf i with tr := Transport.reset, adminQ := VQueue.reset } ∧
      t.gbbase = s.gbbase ∧ t.spillbase = s.spillbase ∧ t.boot = s.boot ∧
      ∀ u, (s.vf u).enabled = some i → (t.vf u).timelines = List.replicate 8 0 ∧ (t.vf u).queues = []) ∧
    (∃ t : State, exec (.perst i) s = .next t ∧ t.pf i = { s.pf i with linkUp := false, cxl := false, speed := 0, width := 0, l0p := 0, tr := Transport.reset, adminQ := VQueue.reset } ∧
      ∀ u, (s.vf u).enabled = some i → (t.vf u).timelines = List.replicate 8 0 ∧ (t.vf u).queues = []) ∧
    (∀ cxl : Bool, (s.pf i).linkUp = false →
      ∃ speed ∈ [640, 320, 160, 80, 50, 25], ∃ width ∈ [16, 8, 4, 2, 1],
        exec (.linkUp i cxl) s = .next ({ m with tick := s.tick + 1 }.setPf i { s.pf i with linkUp := true, cxl := cxl, frs := (s.pf i).frs + 1, speed := speed, width := width, l0p := width }))

/-- R70, R75, R87, R374, R398: VF Enable enables the VFs of NumVFs or sets CAPERR; clearing it destroys its VFs, lowering NumVFs the
created ones that go; NumVFs takes a value only while VF Enable is clear. -/
def Stated.VirtualFunctions : Prop :=
  ∀ (s : State) (i : Fin 2) (n : Nat),
    let m := Stated.asModule s
    let p := s.pf i
    let other := s.pf (1 - i)
    let tooMany : Prop := 128 < p.numvfs + (if other.vfEnable then other.numvfs else 0) ∨ s.gbbase = 0 ∨ s.spillbase = 0
    (p.vfEnable = false → tooMany → exec (.vfEnable i true) s = .next (m.setPf i { p with caperr := true, caperrAt := some s.cycle })) ∧
    (p.vfEnable = false → ¬tooMany → ∃ t : State, exec (.vfEnable i true) s = .next t ∧ t.pf i = { p with vfEnable := true } ∧
      (∀ v ∈ vfsOf i p.numvfs, t.vf v = { s.vf v with enabled := some i }) ∧ ∀ v, v ∉ vfsOf i p.numvfs → t.vf v = s.vf v) ∧
    (p.vfEnable = true → ∃ t : State, exec (.vfEnable i false) s = .next t ∧ t.pf i = { p with vfEnable := false } ∧
      (∀ v ∈ vfsOf i p.numvfs, (t.vf v).enabled = none ∧ (t.vf v).created = false) ∧ ∀ v, v ∉ vfsOf i p.numvfs → t.vf v = s.vf v) ∧
    (128 < n ∨ p.vfEnable = true → exec (.numvfsWrite i n) s = .next m) ∧
    (n ≤ 128 → p.vfEnable = false → ∃ t : State, exec (.numvfsWrite i n) s = .next t ∧ t.pf i = { p with numvfs := n } ∧
      (∀ v ∈ vfsOf i p.numvfs, v ∉ vfsOf i n → (s.vf v).created = true → (t.vf v).enabled = none ∧ (t.vf v).created = false) ∧
      (∀ v, v ∉ vfsOf i p.numvfs ∨ v ∈ vfsOf i n ∨ (s.vf v).created = false → t.vf v = s.vf v) ∧
      ((∀ v ∈ vfsOf i p.numvfs, v ∉ vfsOf i n → (s.vf v).created = false) → t = m.setPf i { p with numvfs := n }))

/-- R70, R74, R75, R80, R82, R87, R374, R382, R398, R404: the resets of queues, VFs and PFs, and VF Enable and NumVFs. What a reset keeps beyond the
fields its rule names is the model's reading (log 41); the form of VFs and functions is the model's. -/
def Obligations.FunctionLifecycle : Prop := Stated.FunctionResets ∧ Stated.VirtualFunctions

/-- R89, R90 to R92, R398, R26, R30: creating a partition, creating and destroying a VF, and taking a container; a request that breaks a rule is refused
with the rule's reason and no other effect. Reason codes of malformed requests, and how the loader maps pages, are the model's readings (logs 40, 42
and 50); keys are free (log 4). -/
def Obligations.AdministrationRequests : Prop :=
  ∀ (s : State) (i : Fin 2) (c : Chain) (rest : List Chain),
    let m := Stated.asModule s
    let r (o n : Nat) : Nat := fieldAt c.req o n
    let done (status reason : Nat) : List Used := s.out.used ++ [Stated.answered (.pf i) 0 c.head 0 status reason 0xFF 0 0]
    (Stated.AdminReads s i c rest 0x12 16 → r 1 1 ≤ 63 → r 2 14 = 0 → 128 ≤ c.rest.length →
      let mask := fieldAt c.rest 0 128
      let taken : Prop := ∃ e ∈ s.parts, ∃ q ∈ e.2, mask.testBit q = true
      ∃ t : State, exec (.createPart i) s = .next t ∧ (t.pf i).adminQ.avail = rest ∧
        (s.parts.has (r 1 1) = true → t.parts = s.parts ∧ t.out.used = done 1 0x50) ∧
        (s.parts.has (r 1 1) = false → mask = 0 → t.parts = s.parts ∧ t.out.used = done 1 0x51) ∧
        (s.parts.has (r 1 1) = false → mask ≠ 0 → taken → t.parts = s.parts ∧ t.out.used = done 1 0x52) ∧
        (s.parts.has (r 1 1) = false → mask ≠ 0 → ¬taken → t.out.used = done 0 0 ∧
          t.parts = s.parts.set (r 1 1) ((List.range 1024).filter (fun q => mask.testBit q)))) ∧
    (Stated.AdminReads s i c rest 0x10 64 →
      let cls := r 1 1
      let v := r 2 1
      let keep := s.keepList (r 0x10 8) (r 0x18 4)
      let parts := (List.range 64).filter (fun n => (r 0x28 8).testBit n)
      let fields : Prop := cls ≤ 3 ∧ v ≤ 127 ∧ 1 ≤ r 3 1 ∧ r 3 1 ≤ 16 ∧ r 4 1 ≤ 3 ∧ r 5 3 = 0 ∧ (cls = 3 → r 8 8 = 0 ∧ r 0x18 4 = 0) ∧
        (cls ≠ 3 → 1 ≤ r 8 8 ∧ r 8 8 < 2 ^ 32) ∧ r 0x10 8 % 8 = 0 ∧ r 0x18 4 ≤ 8192 ∧ r 0x1C 4 = 0 ∧ r 0x20 8 < 8 ∧ parts ≠ [] ∧ r 0x30 16 = 0
      let vfFree : Prop := (s.vf v).enabled = some i ∧ (s.vf v).created = false
      let partsFree : Prop := ∀ p ∈ parts, s.parts.has p = true ∧ ∀ e ∈ s.vfs, e.2.created = true → p ∉ e.2.parts
      let keepGood : Prop := (r 0x18 4 = 0 ∨ (implemented (r 0x10 8) = true ∧ implemented (r 0x10 8 + 8 * r 0x18 4 - 1) = true)) ∧
        (∀ a ∈ keep, a % 2 ^ 21 = 0 ∧ a < 2 ^ 40) ∧ keep.Nodup
      (¬fields → ∃ t : State, exec (.createVf i) s = .next t ∧ t.vfs = s.vfs ∧ t.out.used = done 1 0x42) ∧
      (fields → ¬vfFree → ∃ t : State, exec (.createVf i) s = .next t ∧ t.vfs = s.vfs ∧ t.out.used = done 1 0x53) ∧
      (fields → vfFree → ¬partsFree → ∃ t : State, exec (.createVf i) s = .next t ∧ t.vfs = s.vfs ∧ t.out.used = done 1 0x54) ∧
      (fields → vfFree → partsFree → ¬keepGood → ∃ t : State, exec (.createVf i) s = .next t ∧ t.vfs = s.vfs ∧ t.out.used = done 1 0x55) ∧
      (fields → vfFree → partsFree → keepGood → s.classOk v cls keep = false →
        ∃ t : State, exec (.createVf i) s = .next t ∧ t.vfs = s.vfs ∧ t.out.used = done 1 0x56) ∧
      (fields → vfFree → partsFree → keepGood → s.classOk v cls keep = true →
        ∃ t : State, exec (.createVf i) s = .next t ∧ t.out.used = done 0 0 ∧ (∀ u, u ≠ v → t.vf u = s.vf u) ∧
          t.vf v = { s.vf v with created := true, ready := true, wclass := cls, nwq := r 3 1, priocap := r 4 1, idle := r 8 8, keep := keep, parts := parts,
                                 devOk := (r 0x20 8).testBit 0, sysOk := (r 0x20 8).testBit 1, act := (r 0x20 8).testBit 2, launchNo := 0, timer := 0 } ∧
          (t.ctx v).level = (((t.ctx v).cap * 1024 : Nat) : Int) ∧
          (t.ctx v).refill = (if s.boot.throt then (t.ctx v).capRefill / 2 else (t.ctx v).capRefill))) ∧
    (Stated.AdminReads s i c rest 0x11 16 →
      let f := s.vf (r 1 1)
      let mayGo : Prop := f.enabled = some i ∧ f.created = true
      (r 2 14 ≠ 0 → ∃ t : State, exec (.destroyVf i) s = .next t ∧ t.vfs = s.vfs ∧ t.out.used = done 1 0x42) ∧
      (r 2 14 = 0 → ¬mayGo → ∃ t : State, exec (.destroyVf i) s = .next t ∧ t.vfs = s.vfs ∧ t.out.used = done 1 0x53) ∧
      (r 2 14 = 0 → mayGo → ∃ t : State, exec (.destroyVf i) s = .next t ∧ t.out.used = done 0 0 ∧ (∀ u, u ≠ r 1 1 → t.vf u = s.vf u) ∧
        t.vf (r 1 1) = { Vf.reset with enabled := some i, gen := f.gen + 1, containers := f.containers, evDrop := satInc f.evDrop f.held.length, evLost := f.evLost,
                                       runstate := f.runstate, msixPend := f.msixPend })) ∧
    ∀ (v ctr : Nat) (image : List Byte) (places : List (Nat × Nat)),
      let count := fieldAt image 6 2
      let segs := (places.take count).mapIdx (fun k pl => (segEntry image (fieldAt image 8 8) k, pl))
      let loaded := loadSegs m image segs
      let measured : State := { m with boot := { s.boot with attest := s.boot.attest ++ loaded.1 } }
      let mapped := segs.foldlM (State.placeSeg v image) ((places.drop count).map (·.2), measured)
      let load := exec (.containerLoad v ctr image places) s
      (s.boot.stage ≠ 5 ∨ headerOk image = false ∨ places.length < count → load = .next m) ∧
      (s.boot.stage = 5 → headerOk image = true → count ≤ places.length →
        (loaded.2 = false ∨ mapped = none → load = .next measured) ∧
        (loaded.2 = true → ∀ x : List Nat × State, mapped = some x → ∃ t : State, load = .next t ∧ t.boot = measured.boot ∧ t.mem = x.2.mem ∧
          ∃ k : Container, (t.vf v).containers = (s.vf v).containers.filter (fun x => x.ctr != ctr) ++ [k] ∧ k.ctr = ctr ∧
            k.feat = BitVec.ofNat 128 (fieldAt image 0x10 16) ∧ k.segs.length = count))

/-- The priority a launch has now: raised by 1 for each whole millisecond since it became dispatchable, up to 3 (R86). -/
def Stated.prioNow (s : State) (l : Launch) : Nat :=
  match l.ready with
  | some r => min 3 (l.pkt.prio + (s.cycle - r) / 2000000)
  | none => l.prio

/-- R86, R95, R96, R88, R371: a launch gains priority with each whole millisecond it waits; the dispatcher takes the first launch in order and places its next cluster, whose
teams start at the kernel's entries and whose entry stands in the guest book or is on its way there (log 66); none of a VF that is halted by PREEMPT, or PAUSED (log 39). -/
def Stated.Dispatch : Prop :=
  ∀ (s : State) (chiplet : Nat),
    let m := Stated.asModule s
    exec .priorityAging s = .next { m with launches := s.launches.map (fun l => { l with prio := Stated.prioNow s l }) } ∧
    ((∀ q, (s.quad q).dead = false) →
      (m.firstLaunch chiplet = none → exec (.clusterPlace chiplet) s = .next m) ∧
      ∀ l : Launch, m.firstLaunch chiplet = some l →
        ((∃ y ∈ s.launches, l = { y with prio := Stated.prioNow s y }) ∧ ∀ x ∈ s.launches, x.ready.isSome = true → x.ended = none → (x.nextOn chiplet).isSome = true →
          Stated.prioNow s x ≤ l.prio ∧ (Stated.prioNow s x = l.prio → l.order ≤ x.order)) ∧
        (s.preemptHolds l.vf = true ∨ (s.vf l.vf).runstate = .paused → exec (.clusterPlace chiplet) s = .next m) ∧
        (s.preemptHolds l.vf = false → m.findPlace l.vf l.kd l.verify chiplet = none → exec (.clusterPlace chiplet) s = .next m) ∧
        ∀ (j retries x0 y0 : Nat) (sets : List (List Nat)), s.preemptHolds l.vf = false → (s.vf l.vf).runstate ≠ .paused → l.nextOn chiplet = some (j, retries) →
          m.findPlace l.vf l.kd l.verify chiplet = some (x0, y0, sets) → (∀ q, (s.quad q).out = []) → s.mem.wf = true →
          ∃ (t : State) (c : Cluster), exec (.clusterPlace chiplet) s = .next t ∧ c ∈ t.clusters ∧ c.vf = l.vf ∧ c.launch = l.id ∧ c.idx = j ∧
            c.retries = retries ∧ c.st = .placed ∧ c.escaped = false ∧ c.chiplet = chiplet ∧ c.x0 = x0 ∧ c.y0 = y0 ∧ c.teams.map (·.quads) = sets ∧
            (∀ T ∈ c.teams, ∀ x ∈ T.threads, x.pc = BitVec.ofNat 57 (l.codeBase + (if x.block < l.kd.porters then l.kd.pentry else l.kd.entry))) ∧
            t.laid.bytes (s.gbbase + 64 * c.gbQuad) 64 = c.entryBytes (l.kd.cw, l.kd.ch))

/-- R377, R211, R212, R399, R403, R392: held events are written in order as far as buffers last, and those of an older generation are dropped and counted; at a
microsecond each context's LEVEL is refilled up to CAP × 1,024, by half under THROT and by less while the module draws more than PWRLIM, which it does not
after 1,000 such microseconds; and the idle timer of an idle VF goes on. -/
def Stated.EventsAndEnergy : Prop :=
  ∀ (s : State) (v : Nat),
    let m := Stated.asModule s
    let f := s.vf v
    (∃ (t : State) (k : Nat), exec (.eventDeliver v) s = .next t ∧ (t.vf v).held = f.held.drop k ∧ (t.vf v).gen = f.gen ∧
      (let fresh := (f.held.take k).filter (fun e => e.gen == f.gen)
       t.out.events = s.out.events ++ fresh.map (fun e => (v, e)) ∧ (t.vf v).evBufs = f.evBufs.drop fresh.length ∧ fresh.length ≤ f.evBufs.length ∧
         (t.vf v).evDrop = satInc f.evDrop ((f.held.take k).filter (fun e => e.gen != f.gen)).length) ∧
      ((t.vf v).held = [] ∨ ((t.vf v).evBufs = [] ∧ ∃ (e : VEvent) (rest : List VEvent), (t.vf v).held = e :: rest ∧ e.gen = f.gen))) ∧
    (s.usec ≤ s.refilled → exec .energyRefill s = .next m) ∧
    (s.refilled < s.usec → ∃ t : State, exec .energyRefill s = .next t ∧ t.refilled = s.refilled + 1 ∧
      t.boot = { s.boot with pwrnow := t.boot.pwrnow
                             overSince := if s.boot.pwrlim < s.boot.pwrnow then some (s.boot.overSince.getD s.refilled) else none } ∧
      (s.boot.pwrlim < s.boot.pwrnow → ∀ since, s.boot.overSince = some since → since + 1000 ≤ s.refilled + 1 → t.boot.pwrnow ≤ s.boot.pwrlim) ∧
      ∀ u, let c := s.ctx u
        let base := if s.boot.throt then c.capRefill / 2 else c.capRefill
        (t.ctx u).refill ≤ base ∧ (s.boot.pwrnow ≤ s.boot.pwrlim → (t.ctx u).refill = base) ∧
        (s.boot.pwrlim < s.boot.pwrnow → 0 < base → (t.ctx u).refill < base) ∧
        t.ctx u = { c with refill := (t.ctx u).refill, level := min ((c.cap * 1024 : Nat) : Int) (c.level + (((t.ctx u).refill : Nat) : Int)) } ∧
        t.vf u = { s.vf u with timer := if s.idle u = true ∧ (s.vf u).bstate = .active then (s.vf u).timer + 1 else 0 })

/-- R86, R95, R96, R88, R371: a launch gains priority with each whole millisecond it waits; the dispatcher takes the first launch in order and places its
next cluster, whose teams start at the kernel's entries and whose entry stands in the guest book or is on its way there (log 66); none of a VF that is
halted by PREEMPT, or PAUSED (log 39). R377, R211, R212, R399, R403, R392: held events are written in order as far as buffers last, and those of an
older generation are dropped and counted; at a microsecond each context's LEVEL is refilled up to CAP × 1,024, by half under THROT and by less while
the module draws more than PWRLIM, which it does not after 1,000 such microseconds; and the idle timer of an idle VF goes on. The module's own writes
wait at homes by its reading (log 66). Which free places a cluster takes is free (log 16); the order over VFs and the power manager's numbers are the
model's (logs 37 and 26). -/
def Obligations.DispatchAndEvents : Prop := Stated.Dispatch ∧ Stated.EventsAndEnergy

/-- R131 to R134: a compaction entry, a reorder unit and a slot's spawned threads leave 256 cycles after the earliest arrival, while the team is not
halted and not before; the pool gives its entries to free positions; and groups that wait take free places. Corners of regrouping are the model's
readings (logs 32 and 53). -/
def Obligations.RegroupingClocks : Prop :=
  ∀ (s : State) (r : TeamRef) (t : Team), s.team? r = some t →
    let m := Stated.asModule s
    let late (times : List Nat) : Bool := times.any (fun a => decide (a + 256 ≤ s.cycle))
    exec (.emittedGroupPlace r) s = .next (m.placeWaiting r) ∧
    (t.retired = false → exec (.spawnPoolEmit r) s = .next ((m.setTeam (t.drainPool t.pool)).settleTeam r)) ∧
    (t.haltedAt.isSome = true → ∀ n : Nat, exec (.compactionTimeout r n) s = .next m ∧ exec (.reorderTimeout r n) s = .next m ∧
      exec (.spawnLeftoverTimeout r n) s = .next m) ∧
    (t.haltedAt = none → ∀ n : Nat,
      (∀ e : CEntry, t.stack.find? (fun e => e.id == n) = some e →
        exec (.compactionTimeout r n) s = .next ((m.setTeam (t.emitEntry e
          { site := late ((e.bins.filter (fun b => !b.join)).map (·.at_)), join := late ((e.bins.filter (fun b => b.join)).map (·.at_)) })).settleTeam r)) ∧
      (let there := (t.reorder.get n []).map (·.at_)
       exec (.reorderTimeout r n) s = .next (if late there then (m.setTeam (t.regroup n)).settleTeam r else m)) ∧
      let there := (t.spawned.filter (fun b => t.slotOfBlock b.block == n)).map (·.at_)
      exec (.spawnLeftoverTimeout r n) s = .next (if late there then (m.setTeam (t.emitSpawned n (s.startRegs r) true)).settleTeam r else m))

/-! ### The module's own steps: replies, walks, store queues and instruction lines (R107, R221 to R225, R230, R231, R305, R401) -/

namespace Sys2Proof.Stated

/-- A destination whose line ended in error is poisoned as uncorrectable (R230). -/
def lostVal (e : LodgeEntry) (v : PendVal) : PendVal :=
  match v with
  | .v b l n _ => if e.lanes.contains (b, l) then .v b l n { val := 0, poison := some .uncorrectable } else v
  | .s p n _ => if e.lanes.isEmpty then .s p n { val := 0, poison := some .uncorrectable } else v
  | .b p n _ => if e.lanes.isEmpty then .b p n { bits := 0, poison := some .uncorrectable, reason := 0 } else v

/-- The last reply an operation waited for has come: its destination registers hold their values, its lodge entries are FREE, and nothing of it is pending. -/
structure Replied (s : State) (quad : Nat) (T : Team) (op : Nat) (vals : List PendVal) (t : State) : Prop where
  regs : ∃ T' : Team, t.team? T.ref = some T' ∧ T'.threads = (vals.foldl Team.writePend T).threads ∧ ∀ x ∈ T'.pend, x.id ≠ op
  free : ∀ x ∈ (t.quad quad).lodge, ¬(x.team = T.ref ∧ x.op = op)
  mem' : t.mem = s.mem

/-- A walk that waits for a core, a context and a page. -/
def waitsFor (core ctx page : Nat) (x : Nat × Nat × Nat × Nat) : Bool := x.1 == core && x.2.1 == ctx && x.2.2.1 == page

end Sys2Proof.Stated

/-- R230, R231, R236, R401: the last reply of a load writes its registers and frees its lodge entries, with poison where it was in error or 2^21 cycles late, which LODGETO
counts; banks that have returned every line write theirs. -/
def Stated.LodgeReplies : Prop :=
  ∀ (s : State) (quad : Nat) (e : LodgeEntry) (T : Team) (p : PendOp),
    (s.quad quad).lodge.find? (fun x => x.id == e.id) = some e → e.st = .out → s.team? e.team = some T → T.ref = e.team →
    T.pend.find? (fun x => x.id == e.op) = some p → p.late = [] →
    (∀ x ∈ (s.quad quad).lodge, x.team = e.team → x.op = e.op → x.id ≠ e.id → x.st = .filled) →
    (e.await = [] → p.known = true → s.pathUp (quad / 128) e.port = true →
      (∃ t : State, exec (.lodgeReply quad e.id false) s = .next t ∧ Stated.Replied s quad T e.op p.vals t) ∧
      ∃ t : State, exec (.lodgeReply quad e.id true) s = .next t ∧ Stated.Replied s quad T e.op (p.vals.map (Stated.lostVal e)) t) ∧
    (s.cycle < e.since + 2 ^ 21 → exec (.lodgeTimeout quad e.id) s = .next (Stated.asModule s)) ∧
    (e.since + 2 ^ 21 ≤ s.cycle → ∃ t : State, exec (.lodgeTimeout quad e.id) s = .next t ∧
      Stated.Replied s quad T e.op (p.vals.map (Stated.lostVal e)) t ∧ (t.ctx e.team.vf).lodgeto = satInc (s.ctx e.team.vf).lodgeto)

/-- R231, R236: a scratchpad load whose banks have returned every line writes its registers. -/
def Stated.ScratchpadReplies : Prop :=
  ∀ (s : State) (quad op : Nat) (T : Team) (p : PendOp), s.team? T.ref = some T → T.quads.contains quad = true → p ∈ T.pend → p.id = op → p.bank = true →
    p.known = true → p.place / 16 % 1024 = T.slotOf quad → p.late = [] → (∀ c ∈ s.clusters, ∀ T2 ∈ c.teams, ∀ p2 ∈ T2.pend, p2.id = op → T2 = T ∧ p2 = p) →
    ∃ t T' : _, exec (.scratchpadLoadReturn quad op) s = .next t ∧ t.team? T.ref = some T' ∧ T'.threads = (p.vals.foldl Team.writePend T).threads ∧
      (∀ x ∈ T'.pend, x.id ≠ op) ∧ t.mem = s.mem

/-- R230, R231, R236, R401: the last reply of a load writes its registers and frees its lodge entries, with poison where it was in error or 2^21 cycles
late, which LODGETO counts; banks that have returned every line write theirs. R231, R236: a scratchpad load whose banks have returned every line
writes its registers. The value bits 0 under uncorrectable poison are the model's choice (log 10); late replies to regrouped threads are its reading
(log 53). -/
def Obligations.Replies : Prop := Stated.LodgeReplies ∧ Stated.ScratchpadReplies

/-- R224, R225, R322, R401: a waiting walk whose tables can be reached reads them through the chiplet cache and ends in a leaf, which the core and its
chiplet cache with AC set, or in a failure, which no TLB caches; and one that has waited 2^21 cycles on a dark direction has failed. Readings of
translation: logs 30 and 64. -/
def Obligations.PageWalks : Prop :=
  ∀ (s : State) (core ctx page : Nat),
    let m := Stated.asModule s
    let mine := Stated.waitsFor core ctx page
    let gone : State := { m with walkWait := s.walkWait.filter (fun x => !mine x) }
    let va := page * 4096
    let walked := walkFrom s va 5 (s.ctx ctx).root false
    (s.walkWait.any mine = false → exec (.pageWalk core ctx page) s = .next m) ∧
    (s.walkWait.any mine = true → s.walkStuck core ctx va .load = true → exec (.pageWalk core ctx page) s = .next m) ∧
    (s.walkWait.any mine = true → s.walkStuck core ctx va .load = false →
      -- what reading the tables leaves: copies, messages on the fabric, awake banks, and hosts told of evictions
      let readBy (t : State) : State := { gone with coh := t.coh, stackTab := t.stackTab, fabric := t.fabric, out := { s.out with host := t.out.host } }
      (∀ k, walked = .poison k → ∃ t : State, exec (.pageWalk core ctx page) s = .next t ∧ t = readBy t) ∧
      ∀ level addr e : Nat, walked = .leaf level addr e →
        let fails : Prop := s.leafBad ctx level addr e = true ∨ pteBit e 1 = false ∨ s.lineBad ctx (lineOf va level addr e).pa = true
        (fails → ∃ t : State, exec (.pageWalk core ctx page) s = .next t ∧ t = readBy t) ∧
        (¬fails → s.mem.wf = true →
          ∃ t : State, exec (.pageWalk core ctx page) s = .next t ∧ t = { readBy t with mem := t.mem, tlb := t.tlb } ∧
            (pteBit e 8 = true → t.mem = s.mem) ∧ (∀ u ∈ [core, chipUnit core], ∃ x ∈ t.tlb, x.unit = u ∧ x.ctx = ctx ∧ x.base ≤ va ∧ va < x.base + x.size ∧ x.leaf = addr ∧
              x.pte = BitVec.ofNat 64 (e ||| 256)) ∧
            t.mem.nat addr 8 = s.mem.nat addr 8 ||| 256 ∧ ∀ a, a < addr ∨ addr + 8 ≤ a → t.mem.read a = s.mem.read a)) ∧
    ∀ x : Nat × Nat × Nat × Nat, s.walkWait.find? mine = some x →
      let failed : Prop := x.2.2.2 + 2 ^ 21 ≤ s.cycle ∧ s.walkDark core ctx va = true
      (¬failed → exec (.walkDarkTimeout core ctx page) s = .next m) ∧
      (failed → ∃ t : State, exec (.walkDarkTimeout core ctx page) s = .next t ∧
        t = { m with walkWait := s.walkWait.erase x, walkFail := s.walkFail ++ [(core, ctx, page)] })

/-- R224, R232, R271, R303, R305, R314, R318, R324, R353, R401: the head of a store queue is written once the core owns its blocks and its DT bits can be set, waits and asks for them until
then, goes to a scratchpad at once, leaves for a peer, each of its parts one access there, as the miss table has room and then waits for its acknowledgement, and after 2^21 cycles on a dark direction is a consumed uncorrectable
error. -/
def Stated.StoreQueues : Prop :=
  ∀ (s : State) (quad place : Nat) (T : Team) (g : Group) (e : SqEntry) (cs : List Host.Cell),
    s.headOf quad place = some (T, g, e) → e.item = .store cs → e.home = [] →
    let m := Stated.asModule s
    let chiplet := T.core / 32
    let core (b : Nat) : Nat := s.l1Core T (64 * b)
    let owned (b : Nat) : Prop := s.coh.l1St (core b) b = .m ∨ s.coh.l1St (core b) b = .e
    let asked : SqEntry := { e with asked := some (e.asked.getD s.cycle) }
    -- the lines of an entry that comes to the head count as hits or misses of their L1s (R353)
    let m1 : State := if e.asked.isSome then m else m.countL1 T e.blocks (e.blocks.filter (fun b => decide (s.coh.l1St (core b) b ≠ .m) && decide (s.coh.l1St (core b) b ≠ .e)))
    let left := e.blocks.filter (fun b => !e.done.contains b)
    let parts (l : List Nat) : List PeerMsg := l.flatMap (fun b => (storeRuns (cs.filter (fun c => c.1 / 64 == b))).map (fun x => PeerMsg.write x.1 x.2))
    let drain := exec (.storeQueueDrain quad place) s
    (e.unverified = true → drain = .next m) ∧
    (e.unverified = false → e.space = .spad → drain = .next ((m.bankStore T.ref cs).popHead T g quad [])) ∧
    (e.unverified = false → e.space = .phys → (∀ b ∈ e.blocks, owned b) →
      (∀ (dark : Bool) (s1 : State), m1.leavesWait chiplet e.leaves = some (dark, s1) → drain = .next (s1.setHead T g asked)) ∧
      (m1.leavesWait chiplet e.leaves = none → ∃ x : State, drain = .next (x.popHead T g quad e.leaves) ∧ x.mem = s.mem.writeCells cs ∧
        (e.keep ≠ 3 → x = { m1 with coh := x.coh, mem := x.mem } ∧ ∀ b ∈ e.blocks, x.coh.l1St (core b) b = .m) ∧
        (e.keep = 3 → ∀ b ∈ e.blocks, x.coh.l2St chiplet b = .i))) ∧
    (e.unverified = false → e.space = .phys → (∃ b ∈ e.blocks, ¬owned b) →
      ∃ t : State, drain = .next t ∧ t.mem = s.mem ∧ t.out = s.out ∧ (∀ q, { t.quad q with lodge := [], diag := [] } = { s.quad q with lodge := [], diag := [] }) ∧
        ∀ b ∈ e.blocks, ¬owned b → (t.coh.bell.get (core b / 32) []).any (fun r => r.core == core b && r.block == b && decide (r.kind ≠ .put)) = true ∨
          (t.coh.homes.get (s.homeStack (64 * b)) []).any (fun r => r.core == core b && r.block == b && decide (r.kind = .ownership)) = true ∨
          t.coh.cxlReqs.any (fun r => r.core == core b && r.block == b && r.own) = true) ∧
    (∀ port : Nat, e.unverified = false → e.space = .peer port →
      (s.pathUp chiplet ioPort = false → drain = .next (m.setHead T g asked)) ∧
      (s.pathUp chiplet ioPort = true → left ≠ [] →
        let now := left.take (4096 - s.missHeld chiplet)
        drain = .next ((({ m with out := { s.out with peer := s.out.peer ++ (parts now).map (fun x => (port, x)) } } : State).flits chiplet ioPort
          (2 * (parts now).length)).setHead T g { asked with done := e.done ++ now })) ∧
      (s.pathUp chiplet ioPort = true → left = [] → m.leavesWait chiplet e.leaves = none →
        drain = .next ((m.flits ioPort chiplet (parts e.blocks).length).popHead T g quad e.leaves)) ∧
      (s.pathUp chiplet ioPort = true → left = [] → ∀ (dark : Bool) (s1 : State), m.leavesWait chiplet e.leaves = some (dark, s1) →
        drain = .next (s1.setHead T g asked))) ∧
    ∀ since : Nat, e.asked = some since →
      let dark : Prop := (match e.space with
        | .phys => ∃ b ∈ e.blocks, b ∉ e.done ∧ s.blockStalled chiplet b = true
        | .peer _ => s.pathUp chiplet ioPort = false
        | .spad => False) ∨ ∃ a ∈ e.leaves, s.pathUp chiplet (s.portOf a) = false
      (s.cycle < since + 2 ^ 21 ∨ ¬dark → exec (.storeDarkTimeout quad place) s = .next m) ∧
      (since + 2 ^ 21 ≤ s.cycle → dark → exec (.storeDarkTimeout quad place) s = .next (m.consume T.ref))

/-- R102, R107, R350: a fetched line is five slots of 96 bits and the slot word from its 64 bytes, each slot checked against its parity bit; the lines that an `icinv` names leave
every cache it covers, and its group goes on. -/
def Stated.InstructionLines : Prop :=
  ∀ (s : State),
    let m := Stated.asModule s
    (∀ (core ctx line : Nat) (glitch : BitVec 5) (l : Line) (s1 s2 : State), (s.iline core ctx line).isNone = true → s.walkStuck core ctx (line * 64) .fetch = false →
      m.translate core ctx (line * 64) .fetch = (.ok l, s1) → s1.reach (core / 32) ctx [l.pa / 64] [] = .go s2 → (s.icache.get core []).length < 2048 →
      ∃ (t : State) (x : ILine), exec (.icacheFill core ctx line glitch) s = .next t ∧
        t = { s2 with icache := t.icache, lineWait := s2.lineWait.filter (fun w => !(w.1 == core && w.2.1 == ctx && w.2.2.1 == line)) } ∧
        t.icache.get core [] = s.icache.get core [] ++ [x] ∧ (∀ k, k ≠ core → t.icache.get k [] = s.icache.get k []) ∧ x.ctx = ctx ∧ x.line = line ∧
        x.word = BitVec.ofNat 32 (s2.mem.nat (l.pa + 60) 4) ∧ x.error = s2.badAt l.pa 64 ∧
        ∀ i < 5, x.slots.getD i 0 = BitVec.ofNat 96 (s2.mem.nat (l.pa + 12 * i) 12) ∧
          x.bad.getLsbD i = (glitch.getLsbD i || ((popN 96 (x.slots.getD i 0).toNat + (if x.word.getLsbD (19 + i) then 1 else 0)) % 2 == 1))) ∧
    ∀ (quad place : Nat) (T : Team) (g : Group) (cores : Option (List Nat)) (lines : Option (Nat × Nat)),
      (s.groupsOn quad).find? (fun x => x.2.place == place) = some (T, g) → g.parked = some (.icinv cores lines) →
      let covered (core : Nat) : Bool := match cores with | some l => l.contains core | none => true
      ∃ t : State, exec (.icacheLinesDropped quad place) s = .next t ∧ t.mem = s.mem ∧
        ∀ core, t.icache.get core [] =
          if covered core = true then (s.icache.get core []).filter (fun x => !(x.ctx == T.ref.vf && overlaps x.line lines)) else s.icache.get core []

/-- R224, R232, R271, R303, R305, R314, R318, R324, R353, R401: the head of a store queue is written once the core owns its blocks and its DT bits can be
set, waits and asks for them until then, goes to a scratchpad at once, leaves for a peer, each of its parts one access there, as the miss table has
room and then waits for its acknowledgement, and after 2^21 cycles on a dark direction is a consumed uncorrectable error. R102, R107, R350: a fetched
line is five slots of 96 bits and the slot word from its 64 bytes, each slot checked against its parity bit; the lines that an `icinv` names leave
every cache it covers, and its group goes on. A peer's effect is outside the machine (log 5); which stores test a barrier object is the model's
reading (log 65). -/
def Obligations.StoreQueuesAndLines : Prop := Stated.StoreQueues ∧ Stated.InstructionLines

/-! ### The module's own steps: the bell, homes, forwards and notices (R318 to R323, R327, R401) -/

namespace Sys2Proof.Stated

/-- The home events that serve a request: which requests they take, whether the others' copies must be gone, and whether the requester keeps its own (R322). -/
def homeEvent : Instr → Option (Nat × (HomeKind → Bool) × Bool × Bool)
  | .homeRead k => some (k, fun x => decide (x = .read), false, true)
  | .homeOwnership k => some (k, fun x => decide (x = .ownership), true, true)
  | .homeAtomic k => some (k, fun x => decide (x = .atomic), true, false)
  | .homeHst k => some (k, fun x => decide (x = .hst) || decide (x = .uncachedWrite), true, false)
  | .homeHutRead k => some (k, fun x => decide (x = .hutRead), false, false)
  | .homeUncachedRead k => some (k, fun x => decide (x = .uncachedRead), false, false)
  | _ => none

/-- A request of a chiplet whose own notice for the block is not acknowledged yet: the home passes over it (R323). -/
def heldBack (s : State) (r : HomeReq) : Prop := (∀ d, r.kind ≠ .notice d) ∧ ∃ n ∈ s.coh.notices, n.chiplet = r.who ∧ n.block = r.block

/-- Request `r` is the one a home takes among those of some kind: none for its block stands before it but those passed over (R321, R323). -/
def First (s : State) (k : Nat) (want : HomeKind → Bool) (r : HomeReq) : Prop :=
  let l := s.coh.homes.get k []
  ∃ n : Nat, l[n]? = some r ∧ want r.kind = true ∧ ¬heldBack s r ∧ ∀ (j : Nat) (x : HomeReq), j < n → l[j]? = some x → ¬heldBack s x →
    x.block ≠ r.block ∧ (want x.kind = true → ∃ (h : Nat) (y : HomeReq), h < j ∧ l[h]? = some y ∧ ¬heldBack s y ∧ y.block = x.block)

/-- A way to the one who asked and back carries flits. -/
def answerable (s : State) (k : Nat) (r : HomeReq) : Prop := s.whoUp k r.who = true

/-- A request has left its home's order. -/
def leaves (s : State) (k : Nat) (r : HomeReq) (t : State) : Prop := t.coh.homes.get k [] = (s.coh.homes.get k []).erase r

/-- The L1 of another core of the chiplet drops a block on a request whose class its signatures hit (R319). -/
def snooped (c : Coh) (r : BellReq) (e : L1Entry) : Prop :=
  e.core / 32 = r.core / 32 ∧ e.core ≠ r.core ∧ sigH1 e.block = sigH1 r.block ∧
    (sigHit (c.sigW.get e.core 0) r.block = true ∨ (r.kind ≠ .gets ∧ sigHit (c.sigR.get e.core 0) r.block = true))

end Sys2Proof.Stated

/-- R318 to R320: 14 cycles after it was sent, the first request that goes reaches the other cores of its chiplet, which drop what their signatures hit; a chiplet cache
that may answers it, and otherwise it joins the home's order; a PUT asks nothing; and a rebuilt signature holds the bits of the blocks its core has. -/
def Stated.BellAndSignatures : Prop :=
  ∀ (s : State) (chiplet : Nat),
    let m := Stated.asModule s
    (s.coh.bell.get chiplet [] = [] ∨ (∀ r ∈ s.coh.bell.get chiplet [], s.cycle < r.sent + 14) → exec (.bellDeliver chiplet) s = .next m) ∧
    (∀ r : BellReq, bellFirst (m.bellGoes chiplet) (bellDue s.cycle (s.coh.bell.get chiplet [])) [] = some r →
      let own : Bool := decide (r.kind ≠ .gets)
      let st := s.coh.l2St chiplet r.block
      (r.sent + 14 ≤ s.cycle ∧ s.bellGoes chiplet r = true ∧ ∀ x ∈ s.coh.bell.get chiplet [], x.sent + 14 ≤ s.cycle → x.sent < r.sent →
        x.block ≠ r.block ∧ ∃ y ∈ s.coh.bell.get chiplet [], y.block = x.block ∧ y.sent ≤ x.sent ∧ s.bellGoes chiplet y = false) ∧
      (r.kind = .put → exec (.bellDeliver chiplet) s = .next { m with coh := { s.coh with bell := s.coh.bell.set chiplet ((s.coh.bell.get chiplet []).erase r) } }) ∧
      (r.kind ≠ .put → r.core < 256 → r.core / 32 = chiplet → (st = .e ∨ st = .m ∨ (st = .s ∧ own = false)) →
        ∃ t : State, exec (.bellDeliver chiplet) s = .next t ∧ t.mem = s.mem ∧ t.coh.l1St r.core r.block ≠ .i ∧
          (own = true → t.coh.l1St r.core r.block = (if s.coh.l1St r.core r.block = .m then .m else .e) ∧ ∀ e ∈ t.coh.l1, e.block = r.block → e.core / 32 = chiplet → e.core = r.core)) ∧
      (r.kind ≠ .put → isDevice (64 * r.block) = true → st = .i ∨ (st = .s ∧ own = true) →
        ∃ t : State, exec (.bellDeliver chiplet) s = .next t ∧ t.mem = s.mem ∧
          (∀ e : L1Entry, e ∈ t.coh.l1 ↔ e ∈ s.coh.l1 ∧ ¬Stated.snooped s.coh r e) ∧
          t.coh.homes.get (s.homeStack (64 * r.block)) [] = s.coh.homes.get (s.homeStack (64 * r.block)) [] ++
            [{ kind := if own then .ownership else .read, block := r.block, who := chiplet, core := r.core, src := 0, ctx := r.ctx, keep := r.keep, waitFwd := false, since := s.cycle }])) ∧
    ∀ core : Nat, ∃ c : Coh, exec (.signatureRebuild core) s = .next { m with coh := c } ∧ c = { s.coh with sigR := c.sigR, sigW := c.sigW } ∧
      (∀ k, k ≠ core → c.sigR.get k 0 = s.coh.sigR.get k 0 ∧ c.sigW.get k 0 = s.coh.sigW.get k 0) ∧
      ∀ n < 2048, ((c.sigR.get core 0).getLsbD n = true ↔ ∃ e ∈ s.coh.l1, e.core = core ∧ (n = sigH1 e.block ∨ n = sigH2 e.block)) ∧
        ((c.sigW.get core 0).getLsbD n = true ↔ ∃ e ∈ s.coh.l1, e.core = core ∧ e.st ≠ .s ∧ (n = sigH1 e.block ∨ n = sigH2 e.block))

/-- R321, R322, R327, R401: a home takes the first request for a block, passing over one whose chiplet's own notice waits; a way that carries nothing holds it back; hosts in conflict
are back-invalidated before it is served; and an owner other than the requester is forwarded to. -/
def Stated.HomeOrder : Prop :=
  ∀ (i : Instr) (s : State) (k : Nat) (want : HomeKind → Bool) (inval keepSelf : Bool) (r : HomeReq), Stated.homeEvent i = some (k, want, inval, keepSelf) →
    Stated.First s k want r → s.canAllocate r.who r.block = true →
    let m := Stated.asModule s
    let d := s.coh.dirEntry r.block
    (¬Stated.answerable s k r → exec i s = .next m) ∧
    (Stated.answerable s k r →
      (∀ (p : Nat) (rest : List Nat), d.hostConflicts inval = p :: rest →
        ∃ t : State, exec i s = .next t ∧ t = m.sendBis ((d.hostConflicts inval).map (fun q => (q, r.block, inval))) ∧ t.mem = s.mem ∧
          t.coh = { s.coh with backInv := t.coh.backInv } ∧ (s.wayUp (s.portOf (64 * r.block)) 24 = true → ∃ b ∈ t.coh.backInv, b.1 = p ∧ b.2.1 = r.block)) ∧
      ∀ o : Nat, d.hostConflicts inval = [] → d.owner = some o → (keepSelf = false ∨ o ≠ r.who) →
        (r.waitFwd = true → exec i s = .next m) ∧
        (r.waitFwd = false → ∃ t : State, exec i s = .next t ∧ t.mem = s.mem ∧
          t.coh.fwds.get o [] = s.coh.fwds.get o [] ++ [{ block := r.block, stack := k, own := inval }] ∧
          t.coh.homes.get k [] = (s.coh.homes.get k []).map (fun x => if x = r then { x with waitFwd := true } else x)))

/-- R322, R323, R324, R283: what a home does with each kind of request for a block that no one holds: a read is granted in E, ownership makes the chiplet the owner, whose copies
the store that asked makes M later, an
atomic, an uncached write and the `hst` of a waiting hut are performed on memory, reads of huts and uncached reads find memory, and a notice removes its holder. -/
def Stated.HomeService : Prop :=
  ∀ (s : State) (k : Nat) (r : HomeReq),
    let m := Stated.asModule s
    let clear : Prop := Stated.answerable s k r ∧ s.coh.dirEntry r.block = DirEntry.reset
    (Stated.First s k (fun x => decide (x = .read)) r → clear → s.canAllocate r.who r.block = true → r.who < 8 → s.coh.l2St r.who r.block = .i →
      ∃ t : State, exec (.homeRead k) s = .next t ∧ t.mem = s.mem ∧ t.coh.l2St r.who r.block ≠ .i ∧
        t.coh.dirEntry r.block = { DirEntry.reset with present := BitVec.ofNat 8 (2 ^ r.who), owner := some r.who } ∧ (r.core < 256 → t.coh.l1St r.core r.block ≠ .i)) ∧
    (Stated.First s k (fun x => decide (x = .ownership)) r → clear → s.canAllocate r.who r.block = true → r.who < 8 →
      ∃ t : State, exec (.homeOwnership k) s = .next t ∧ t.mem = s.mem ∧ t.coh.l2St r.who r.block = (if s.coh.l2St r.who r.block = .m then .m else .e) ∧
        t.coh.dirEntry r.block = { DirEntry.reset with present := BitVec.ofNat 8 (2 ^ r.who), owner := some r.who } ∧
        (r.core < 256 → t.coh.l1St r.core r.block = (if s.coh.l1St r.core r.block = .m then .m else .e))) ∧
    (∀ (T : Team) (g : Group) (e : SqEntry) (op : AtomKind) (uns : Bool) (w : Nat) (ls : List AtomLane) (dst opNo : Option Nat),
      Stated.First s k (fun x => decide (x = .atomic)) r → clear → m.sourceOf r = some (T, g, e) → e.item = .atomic op uns w ls dst opNo →
      ∃ t : State, exec (.homeAtomic k) s = .next t ∧ Stated.leaves s k r t ∧ t.mem = (atomRun op uns w dst s.mem (ls.filter (fun l => l.addr / 64 == r.block))).1) ∧
    (∀ (T : Team) (g : Group) (e : SqEntry) (cs : List Host.Cell),
      Stated.First s k (fun x => decide (x = .hst) || decide (x = .uncachedWrite)) r → clear → r.kind = .uncachedWrite → m.sourceOf r = some (T, g, e) → e.item = .store cs →
      ∃ t : State, exec (.homeHst k) s = .next t ∧ Stated.leaves s k r t ∧ t.mem = s.mem.writeCells (cs.filter (fun c => c.1 / 64 == r.block))) ∧
    (Stated.First s k (fun x => decide (x = .hst) || decide (x = .uncachedWrite)) r → clear → r.kind = .hst → 10 ≤ r.who → r.src < 2 ^ 21 →
      ∃ t : State, exec (.homeHst k) s = .next t ∧ Stated.leaves s k r t ∧ (m.hutAt r = none → t.mem = s.mem) ∧
        ∀ (c : HCtx) (src kk : BitVec 5) (n : BitVec 2), m.hutAt r = some (c, .hst src kk n) → m.leavesWait (8 + c.no % 16) (c.dirties n) = none → s.mem.wf = true →
          t.mem.bytes (c.addr kk n) 32 = (List.range 8).flatMap (fun e => bytesOfNat 4 (c.hut.src src e))) ∧
    (Stated.First s k (fun x => decide (x = .hutRead)) r → clear → ∃ t : State, exec (.homeHutRead k) s = .next t ∧ Stated.leaves s k r t ∧ t.mem = s.mem) ∧
    (Stated.First s k (fun x => decide (x = .uncachedRead)) r → clear →
      ∃ t : State, exec (.homeUncachedRead k) s = .next t ∧ Stated.leaves s k r t ∧ t.mem = s.mem ∧
        ∀ q, ∀ x ∈ (t.quad q).lodge, x.id = r.src → r.block ∉ x.await) ∧
    (Stated.First s k (fun x => match x with | .notice _ => true | _ => false) r →
      ∃ t : State, exec (.homeNotice k) s = .next t ∧ Stated.leaves s k r t ∧ t.mem = s.mem ∧
        t.coh.dirEntry r.block = (s.coh.dirEntry r.block).del r.who ∧ ∀ b, b ≠ r.block → t.coh.dirEntry b = s.coh.dirEntry b)

/-- R283, R321 to R324, R327, R401: the order in which a home takes requests, and what each kind of request leaves. -/
def Obligations.Homes : Prop := Stated.HomeOrder ∧ Stated.HomeService

/-- R323, R401: a forward takes the block from its owner, or finds it already noticed; a home's acknowledgement frees the notice, once no copy of it waits there; and a
held notice, or eviction of a host block, is sent when its direction carries flits again. -/
def Stated.ForwardsAndNotices : Prop :=
  ∀ (s : State) (chiplet : Nat),
    let m := Stated.asModule s
    (∀ (f : Fwd) (rest : List Fwd), s.coh.fwds.get chiplet [] = f :: rest →
      let d := s.coh.dirEntry f.block
      let noticed : Prop := ∃ n ∈ s.coh.notices, n.chiplet = chiplet ∧ n.block = f.block
      (s.pathUp chiplet (8 + f.stack) = false → exec (.forward chiplet) s = .next m) ∧
      (s.pathUp chiplet (8 + f.stack) = true → ∃ t : State, exec (.forward chiplet) s = .next t ∧ t.mem = s.mem ∧ t.coh.fwds.get chiplet [] = rest ∧
        (noticed → t.coh.dirEntry f.block = d.del chiplet ∧ t.coh.l1 = s.coh.l1 ∧ t.coh.l2 = s.coh.l2) ∧
        (¬noticed → f.own = true → t.coh.dirEntry f.block = d.del chiplet ∧ t.coh.l2St chiplet f.block = .i ∧
          ∀ e ∈ t.coh.l1, ¬(e.core / 32 = chiplet ∧ e.block = f.block)) ∧
        (¬noticed → f.own = false → t.coh.dirEntry f.block = { d with owner := none } ∧ (∀ e ∈ t.coh.l2, e.chiplet = chiplet → e.block = f.block → e.st = .s) ∧
          ∀ e ∈ t.coh.l1, e.core / 32 = chiplet → e.block = f.block → e.st = .s))) ∧
    ∀ block : Nat,
      let k := s.homeStack (64 * block)
      let there : Prop := ∃ r ∈ s.coh.homes.get k [], (∃ d, r.kind = .notice d) ∧ r.who = chiplet ∧ r.block = block
      (∀ n : Notice, s.coh.notices.find? (fun n => n.chiplet == chiplet && n.block == block) = some n →
        (n.sent = true → ¬there → s.wayUp (8 + k) chiplet = true →
          exec (.noticeAck chiplet block) s = .next (({ m with coh := { s.coh with notices := s.coh.notices.erase n } } : State).flits (8 + k) chiplet 1)) ∧
        (n.sent = false ∨ there ∨ s.wayUp (8 + k) chiplet = false → exec (.noticeAck chiplet block) s = .next m)) ∧
      ∀ n : Notice, s.coh.notices.find? (fun n => n.chiplet == chiplet && n.block == block && !n.sent) = some n →
        (s.wayUp chiplet (s.portOf (64 * block)) = false → exec (.noticeResend chiplet block) s = .next m) ∧
        (s.wayUp chiplet (s.portOf (64 * block)) = true → isHost (64 * block) = true → ∃ t : State, exec (.noticeResend chiplet block) s = .next t ∧ t.mem = s.mem ∧
          t.coh.notices = s.coh.notices.erase n ∧ t.coh.holders block = (s.coh.holders block).filter (fun f => f.2.2.1 != chiplet) ∧
          t.out.host = s.out.host ++ (if t.coh.holders block = [] then [(hostPort (64 * block), block, n.dirty)] else [])) ∧
        (s.wayUp chiplet (s.portOf (64 * block)) = true → isHost (64 * block) = false → ∃ t : State, exec (.noticeResend chiplet block) s = .next t ∧ t.mem = s.mem ∧
          n ∉ t.coh.notices ∧ { n with sent := true } ∈ t.coh.notices ∧
          t.coh.homes.get k [] = s.coh.homes.get k [] ++ [{ kind := .notice n.dirty, block := block, who := chiplet, core := 256, src := 0, ctx := 0, keep := 0, waitFwd := false, since := s.cycle }])

/-- R318 to R320, R323, R401: requests on the bell, signatures, forwards to owners, and notices. The sets of a chiplet cache are free (log 13). -/
def Obligations.CoherenceMessages : Prop := Stated.BellAndSignatures ∧ Stated.ForwardsAndNotices

/-! ### The module's own steps: snoops and requests of hosts, and peers (R216, R324 to R327, R401) -/

/-- R325, R326: SnpInv, SnpData and SnpCur for a host block: the code of what the module held, no copy left after SnpInv, only shared ones after SnpData, and no change
by SnpCur; each waits while a way to a holder carries nothing. -/
def Stated.SnoopAnswers : Prop :=
  ∀ (s : State) (port : Fin 2) (block : Nat), 2 ^ 48 ≤ 64 * block → 64 * block < 3 * 2 ^ 48 → (64 * block < 2 ^ 49 ↔ port = 0) →
    let m := Stated.asModule s
    let held := s.coh.holders block
    -- the holders a snoop finds: not a chiplet whose eviction waits for its way (R326, R401)
    let found := s.coh.snooped block
    let dirty : Prop := ∃ f ∈ held, s.coh.dirty f.2.2.1 block = true
    let answered (n : Nat) : List (Nat × Nat × Nat) := s.out.snoop ++ [(port.val, block, n)]
    (s.snoopWays block = false → exec (.snpinv port block) s = .next m ∧ exec (.snpdata port block) s = .next m ∧ exec (.snpcur port block) s = .next m) ∧
    (s.snoopWays block = true →
    (∃ t : State, exec (.snpinv port block) s = .next t ∧ t.mem = s.mem ∧ (dirty → t.out.snoop = answered 1) ∧ (¬dirty → t.out.snoop = answered 0) ∧ t.coh.holders block = [] ∧
      ∀ f ∈ held, t.coh.l2St f.2.2.1 block = .i ∧ ∀ e ∈ t.coh.l1, ¬(e.core / 32 = f.2.2.1 ∧ e.block = block)) ∧
    (∃ t : State, exec (.snpdata port block) s = .next t ∧ t.mem = s.mem ∧ (dirty → t.out.snoop = answered 3) ∧ (¬dirty → found = [] → t.out.snoop = answered 0) ∧
      (¬dirty → found ≠ [] → t.out.snoop = answered 2) ∧ ∀ f ∈ found, ∀ e ∈ t.coh.l1, e.core / 32 = f.2.2.1 → e.block = block → e.st = .s) ∧
    ((dirty → ∃ t : State, exec (.snpcur port block) s = .next t ∧ t = { m with out := { s.out with snoop := answered 5 }, fabric := t.fabric }) ∧
      (¬dirty → found = [] → exec (.snpcur port block) s = .next { m with out := { s.out with snoop := answered 0 } }) ∧
      (¬dirty → found ≠ [] → exec (.snpcur port block) s = .next { m with out := { s.out with snoop := answered 4 } })))

/-- R325, R326: SnpInv, SnpData and SnpCur for a host block: the code of what the module held, no copy left after SnpInv, only shared ones after SnpData,
and no change by SnpCur; each waits while a way to a holder carries nothing. -/
def Obligations.HostSnoops : Prop := Stated.SnoopAnswers

/-- R234, R325, R421: the state a host grants is recorded for the chiplet that asked, and the core's L1 may use the block, which a store makes M only when it is written; a no-allocate read keeps nothing; a grant that is not
enough, or one for which no line can be had, changes nothing. -/
def Stated.HostGrants : Prop :=
  ∀ (s : State) (port : Fin 2) (block : Nat) (granted : Mesi) (data : List Byte),
    let m := Stated.asModule s
    (s.coh.cxlReqs.find? (fun r => r.port == port.val && r.block == block) = none → exec (.cxlCacheResponse port block granted data) s = .next m) ∧
    ∀ r : CxlReq, s.coh.cxlReqs.find? (fun r => r.port == port.val && r.block == block) = some r →
      let chiplet := chipletOf r.core
      let good : Prop := (r.own = true → granted = .m ∨ granted = .e) ∧ granted ≠ .i ∧ data.length = 64 ∧ s.hostWays chiplet block = true ∧ s.canAllocate chiplet block = true
      (¬good → exec (.cxlCacheResponse port block granted data) s = .next m) ∧
      (good → ∃ t : State, exec (.cxlCacheResponse port block granted data) s = .next t ∧ r ∈ s.coh.cxlReqs ∧ t.coh.cxlReqs = s.coh.cxlReqs.erase r ∧
        (s.coh.holders block ≠ [] → t.mem = s.mem) ∧ (s.coh.holders block = [] → s.mem.wf = true → t.mem.bytes (64 * block) 64 = data) ∧
        (r.keep = 3 → r.own = false → t.coh.l2St chiplet block = s.coh.l2St chiplet block ∧
          (s.coh.holders block = [] → t.out.host = s.out.host ++ [(hostPort (64 * block), block, false)])) ∧
        (r.keep ≠ 3 ∨ r.own = true → t.coh.l2St chiplet block = (if r.own = true ∧ s.coh.hostDirty block = true then .m else granted) ∧
          (r.core < 256 → t.coh.l1St r.core block ≠ .i ∧ (r.own = true → t.coh.l1St r.core block = (if s.coh.l1St r.core block = .m then .m else .e)))))

/-- R69, R216, R324, R327, R401: a request of a host, through a committed decoder of its port or over a link that trained without CXL (log 69), or of a peer for device memory is performed at its home once nothing for the
block precedes it there and every host in conflict has given way;
then no chiplet keeps a copy it may not keep; an access that cannot be performed is answered in error, as is one that waited 2^21 cycles on a dark direction. -/
def Stated.OutsideRequests : Prop :=
  ∀ (s : State) (block : Nat),
    let m := Stated.asModule s
    let k := s.homeStack (64 * block)
    let d := s.coh.dirEntry block
    (∀ (port : Fin 2) (req : HostReq), 2 ^ 40 ≤ 64 * block ∨ (s.hdmOpen port block = false ∧ s.ioOnly port = false) → exec (.hostM2sRequest port block req) s = .next m) ∧
    (∀ (port : Fin 2) (req : HostReq), 64 * block < 2 ^ 40 → s.hdmOpen port block = true ∨ s.ioOnly port = true → s.trackersFull port.val = false → (s.coh.homes.get k []).all (fun r => r.block != block) = true → s.pathUp 24 (8 + k) = true →
      (∀ c ∈ d.chiplets, s.pathUp (8 + k) c = true) →
      -- an access of a link without CXL takes no copy (log 69)
      let io := s.ioOnly port
      let inval := match req with | .readShared => false | .readOwn => !io | .write _ => true
      let host (t : State) : Mesi := if port = 0 then (t.coh.dirEntry block).host0 else (t.coh.dirEntry block).host1
      (((d.hostConflicts inval).filter (fun p => p != port.val)) ≠ [] →
        ∃ t : State, exec (.hostM2sRequest port block req) s = .next t ∧ t.mem = s.mem ∧ t.out = s.out ∧
          ∃ x ∈ t.coh.homes.get k [], x.kind = .hostM2s req ∧ x.block = block ∧ x.who = 8 + port.val ∧ x.since = s.cycle) ∧
      (((d.hostConflicts inval).filter (fun p => p != port.val)) = [] →
        ∃ t : State, exec (.hostM2sRequest port block req) s = .next t ∧ t.out.host = s.out.host ++ [(port.val, block, true)] ∧
          match req with
          | .readShared => t.mem = s.mem ∧ (t.coh.dirEntry block).owner = none ∧ host t = (if io then host s else .s)
          | .readOwn => t.mem = s.mem ∧ (t.coh.dirEntry block).owner = none ∧ (io = false → (t.coh.dirEntry block).present = 0) ∧ host t = (if io then host s else .e)
          | .write data => t.mem = s.mem.writeBytes (64 * block) (data.take 64) ∧ (t.coh.dirEntry block).present = 0 ∧ host t = .i)) ∧
    (∀ (port : Fin 2) (data : Option (List Byte)) (inval : Bool), s.coh.backInv.find? (fun b => b.1 == port.val && b.2.1 == block) = some (port.val, block, inval) →
      (s.wayUp 24 (s.portOf (64 * block)) = false → exec (.birsp port block data) s = .next m) ∧
      (s.wayUp 24 (s.portOf (64 * block)) = true → ∃ t : State, exec (.birsp port block data) s = .next t ∧ t.coh.backInv = s.coh.backInv.erase (port.val, block, inval) ∧
        t.mem = (match data with | some x => s.mem.writeBytes (64 * block) (x.take 64) | none => s.mem) ∧
        t.coh.dirEntry block = d.setHost port.val (if inval then .i else .s))) ∧
    (∀ (port : Fin 2) (r : HomeReq), (s.coh.homes.get k []).find? (fun r => (match r.kind with | .hostM2s _ => true | _ => false) && r.block == block && r.who == 8 + port.val) = some r →
      (s.cycle < r.since + 2 ^ 21 ∨ s.stalled k r = false → exec (.hostDarkTimeout port block) s = .next m) ∧
      (r.since + 2 ^ 21 ≤ s.cycle → s.stalled k r = true → ∃ t : State, exec (.hostDarkTimeout port block) s = .next t ∧
        t.out.host = s.out.host ++ [(port.val, block, false)] ∧ t.coh.homes.get k [] = (s.coh.homes.get k []).erase r ∧ t.mem = s.mem ∧
        t.pf port = (if (s.pf port).cxl = true then s.pf port else { s.pf port with aer := (s.pf port).aer ||| 0x8000 }))) ∧
    ∀ (port pa : Nat),
      (∀ req : PeerReq, 2 ^ 40 < pa + peerSize req ∨ s.badAt pa (peerSize req) = true →
        ∃ t : State, exec (.peerRequest port pa req) s = .next t ∧ t.mem = s.mem ∧ t.out.peer = s.out.peer ++ [(port, .answer pa none)]) ∧
      (∀ req : PeerReq, pa + peerSize req ≤ 2 ^ 40 → 0 < peerSize req → s.badAt pa (peerSize req) = false →
        (∀ b, pa / 64 ≤ b → b ≤ (pa + peerSize req - 1) / 64 → s.pathUp 24 (8 + s.homeStack (64 * b)) = true ∧
          (∀ r ∈ s.coh.homes.get (s.homeStack (64 * b)) [], r.block ≠ b) ∧
          (∀ c, c ∈ (s.coh.dirEntry b).chiplets ∨ (s.coh.dirEntry b).owner = some c → s.pathUp (8 + s.homeStack (64 * b)) c = true) ∧ (s.coh.dirEntry b).host0 = .i ∧ (s.coh.dirEntry b).host1 = .i) →
        ∃ t : State, exec (.peerRequest port pa req) s = .next t ∧
          match req with
          | .read n => t.mem = s.mem ∧ t.out.peer = s.out.peer ++ [(port, .answer pa (some (s.mem.bytes pa n)))]
          | .write x => t.mem = s.mem.writeBytes pa x ∧ t.out.peer = s.out.peer ++ [(port, .answer pa (some []))]
          | .atomicAdd n v => t.mem = s.mem.writeBytes pa (bytesOfNat n ((s.mem.nat pa n + v.toNat) % 2 ^ (8 * n))) ∧
              t.out.peer = s.out.peer ++ [(port, .answer pa (some (s.mem.bytes pa n)))]) ∧
      ∀ x : Nat × Nat × PeerReq × Nat, s.peerReqs.find? (fun x => x.1 == port && x.2.1 == pa) = some x →
        let dark : Prop := ∃ i < (pa + peerSize x.2.2.1 - 1) / 64 - pa / 64 + 1,
          let b := pa / 64 + i
          s.pathUp 24 (s.portOf (64 * b)) = false ∨ (∃ c ∈ (s.coh.dirEntry b).chiplets, s.pathUp (s.portOf (64 * b)) c = false) ∨
            ∃ r ∈ s.coh.homes.get (s.homeStack (64 * b)) [], r.block = b ∧ s.stalled (s.homeStack (64 * b)) r = true
        (s.cycle < x.2.2.2 + 2 ^ 21 ∨ ¬dark → exec (.peerDarkTimeout port pa) s = .next m) ∧
        (x.2.2.2 + 2 ^ 21 ≤ s.cycle → dark → exec (.peerDarkTimeout port pa) s =
          .next { m with peerReqs := s.peerReqs.erase x, out := { s.out with peer := s.out.peer ++ [(port, .answer pa none)] } })

/-- R216, R324, R325, R327, R401: a host's grants, and requests of hosts and peers for device memory. Requests of hosts and peers are inputs of the model
(log 49); accesses by CXL.io follow log 69. -/
def Obligations.HostsAndPeers : Prop := Stated.HostGrants ∧ Stated.OutsideRequests

/-! ### The module's own steps: the fabric (R238 to R241, R400) -/

namespace Sys2Proof.Stated

/-- A direction between two ports. -/
def realDir (d : DirRef) : Prop := d.src ≠ d.dst ∧ d.src < 25 ∧ d.dst < 25

/-- A lane of a direction. -/
def laneAt (s : State) (d : DirRef) (n : Nat) : Option FLane := (s.dirOf d.src d.dst).lanes[n]?

/-- The whole-number rule of R240 for a direction's flits travelling through the relay, where a colour is out. -/
def throughRelay (s : State) (d : DirRef) : Prop :=
  let x := s.dirOf d.src d.dst
  x.mode = 1 ∧ x.out ≠ [] ∧ x.relay < 25 ∧ x.relay ≠ d.src ∧ x.relay ≠ d.dst ∧ (s.pair (pairKey d.src x.relay)).hasLost = false ∧
    (s.pair (pairKey x.relay d.dst)).hasLost = false

/-- Nothing but the fabric, and the module's counters for free values and samples, has changed. -/
def onlyFabric (s t : State) : Prop := t = { asModule s with fabric := t.fabric, boot := t.boot, tick := t.tick, monitors := t.monitors }

end Sys2Proof.Stated

/-- R238, R239, R241, R388: the life of a lane: a window of more than 4,096 corrected bits, or 8 resends of one flit, makes an ACTIVE lane marginal, which goes to DRAIN while fewer
than two lanes train; at a flit boundary DRAIN becomes TRAIN; a pass makes it READY, and a third failure DEAD; and a READY lane is handed back, which RETRAINS counts. A flit boundary does
all of that, and puts the MODE and RELAY written into force, before the flits sent then move the rotation by nine beats each. -/
def Stated.FabricLanes : Prop :=
  ∀ (s : State) (d : DirRef) (n : Nat) (l : FLane), Stated.realDir d → Stated.laneAt s d n = some l →
    let x := s.dirOf d.src d.dst
    let k := pairKey d.src d.dst
    let marked : FLane := if (x.lanes.filter (fun l => (decide (l.st = .drain) || decide (l.st = .train)) && !l.exempt)).length < 2 then { l with st := .drain, marginal := false }
      else { l with marginal := true }
    let y := (s.boundary d.src d.dst).dirOf d.src d.dst
    let turned (z : FDir) (cnt : Nat) : Nat := if z.carrying = [] then z.rot else (z.rot + 9 * cnt) % z.carrying.length
    (let t := s.boundary d.src d.dst
     Stated.laneAt t d n = some (if l.st = .drain then { l with st := .train, fails := 0 } else if l.st = .ready then { l with st := .active, fails := 0 } else l) ∧
       y.mode = (s.pair k).mode ∧ y.relay = (s.pair k).relay ∧ y.rot = (if x.lanes.any (fun l => decide (l.st = .drain) || decide (l.st = .ready)) then 0 else x.rot) ∧
       (t.pair k).retrains = satInc (s.pair k).retrains (x.lanes.filter (fun l => decide (l.st = .ready))).length ∧ t = { s with fabric := t.fabric }) ∧
    (∀ cnt : Nat, 0 < cnt → let t := s.sendOver d.src d.dst cnt
      (t.dirOf d.src d.dst).rot = turned y cnt ∧ (t.dirOf d.src d.dst).lanes = y.lanes ∧ t = { s with fabric := t.fabric }) ∧
    (∀ bits : Nat, ∃ t : State, exec (.fecWindowEnd ⟨d, n⟩ bits) s = .next t ∧ Stated.onlyFabric s t ∧
      Stated.laneAt t d n = some (if 4096 < bits ∧ l.st = .active then marked else l) ∧ ∀ j, j ≠ n → Stated.laneAt t d j = Stated.laneAt s d j) ∧
    (∀ charged : List Nat, ∃ t : State, exec (.resend d charged) s = .next t ∧ Stated.onlyFabric s t ∧ (t.pair k).resends = satInc (s.pair k).resends ∧
      (t.dirOf d.src d.dst).rot = turned y 1 ∧
      ∀ l' : FLane, y.lanes[n]? = some l' →
        let marked : FLane := if (y.lanes.filter (fun l => (decide (l.st = .drain) || decide (l.st = .train)) && !l.exempt)).length < 2 then { l' with st := .drain, marginal := false }
          else { l' with marginal := true }
        Stated.laneAt t d n = some l' ∨ (l'.st = .active ∧ 7 ≤ y.flitResends ∧ Stated.laneAt t d n = some marked)) ∧
    (∃ t : State, exec (.laneDrainEnd ⟨d, n⟩) s = .next t ∧ Stated.onlyFabric s t ∧
      (l.st = .drain → Stated.laneAt t d n = some { l with st := .train, fails := 0 } ∧ (t.dirOf d.src d.dst).rot = 0) ∧ (l.st ≠ .drain → t.dirOf d.src d.dst = x)) ∧
    (∃ t : State, exec (.laneTrainPass ⟨d, n⟩) s = .next t ∧ Stated.onlyFabric s t ∧
      (l.st = .train → l.darkWait = false → Stated.laneAt t d n = some { l with st := .ready, exempt := false }) ∧ (l.st ≠ .train ∨ l.darkWait = true → t.dirOf d.src d.dst = x)) ∧
    (∃ t : State, exec (.laneTrainFail ⟨d, n⟩) s = .next t ∧ Stated.onlyFabric s t ∧
      (l.st = .train → l.darkWait = false → Stated.laneAt t d n = some (if 2 ≤ l.fails then { l with st := .dead, fails := 3, exempt := false } else { l with fails := l.fails + 1 })) ∧
      (l.st ≠ .train ∨ l.darkWait = true → Stated.laneAt t d n = some l)) ∧
    ∃ t : State, exec (.laneHandback ⟨d, n⟩) s = .next t ∧ Stated.onlyFabric s t ∧
      (l.st = .ready → Stated.laneAt t d n = some { l with st := .active, fails := 0 } ∧ (t.pair k).retrains = satInc (s.pair k).retrains ∧ (t.dirOf d.src d.dst).rot = 0) ∧
      (l.st ≠ .ready → t.fabric = s.fabric)

/-- R239, R240, R241, R400: a lost colour takes its lanes out, and they train when lock returns; flits take the relay as R240 says; a written MODE and RELAY
take effect; and the lanes of a dark plane wait in TRAIN until it is lit. -/
def Stated.FabricRouting : Prop :=
  ∀ (s : State) (d : DirRef), Stated.realDir d →
    let x := s.dirOf d.src d.dst
    (∀ c : Fin 2, ∃ t : State, exec (.colourLost d c) s = .next t ∧ Stated.onlyFabric s t ∧ ((t.dirOf d.src d.dst).belay = true ↔ Stated.throughRelay t d) ∧
      c.val ∈ (t.dirOf d.src d.dst).out ∧ (t.dirOf d.src d.dst).rot = 0 ∧
      ∀ (n : Nat) (l : FLane), Stated.laneAt s d n = some l → n % 2 = c.val →
        Stated.laneAt t d n = some (if l.st = .dead then l else { l with st := .lost, marginal := false, darkWait := false, exempt := false })) ∧
    (∀ c : Fin 2, ∃ t : State, exec (.colourRegained d c) s = .next t ∧ Stated.onlyFabric s t ∧ ((t.dirOf d.src d.dst).belay = true ↔ Stated.throughRelay t d) ∧
      ∀ (n : Nat) (l : FLane), Stated.laneAt s d n = some l → Stated.laneAt t d n =
        some (if n % 2 = c.val ∧ l.st = .lost then { l with st := .train, fails := 0, darkWait := s.boot.planedark.getLsbD (n / 2), exempt := s.boot.planedark.getLsbD (n / 2) } else l)) ∧
    (∃ t : State, exec (.routingApply d) s = .next t ∧ Stated.onlyFabric s t ∧ ((t.dirOf d.src d.dst).belay = true ↔ Stated.throughRelay t d) ∧
      (t.dirOf d.src d.dst).mode = (s.pair (pairKey d.src d.dst)).mode ∧ (t.dirOf d.src d.dst).relay = (s.pair (pairKey d.src d.dst)).relay ∧
      (t.dirOf d.src d.dst).lanes = x.lanes ∧ (t.dirOf d.src d.dst).out = x.out) ∧
    ∀ p : Fin 4,
      (∃ t : State, exec (.planeDark p) s = .next t ∧ Stated.onlyFabric s t ∧ t.boot = { s.boot with planedark := s.boot.planedark ||| BitVec.ofNat 4 (2 ^ p.val) } ∧
        ∀ (n : Nat) (l : FLane), Stated.laneAt s d n = some l → n / 2 = p.val → l.st ≠ .dead → l.st ≠ .lost →
          Stated.laneAt t d n = some { l with st := .train, fails := 0, darkWait := true, exempt := true, marginal := false }) ∧
      ∃ t : State, exec (.planeLit p) s = .next t ∧ Stated.onlyFabric s t ∧ t.boot = { s.boot with planedark := s.boot.planedark &&& ~~~(BitVec.ofNat 4 (2 ^ p.val)) } ∧
        ∀ (n : Nat) (l : FLane), Stated.laneAt s d n = some l → Stated.laneAt t d n = some (if n / 2 = p.val then { l with darkWait := false } else l)

/-- R239 to R241, R388, R400: the lanes of a fabric direction, and its colours, planes and relay. Events of lanes are inputs (log 49); readings of belay,
RELAY and of one flit's resends: log 43. -/
def Obligations.Fabric : Prop := Stated.FabricLanes ∧ Stated.FabricRouting

/-! ### The module's own steps: engines, huts, summit scans and matrix arrays (R191 to R200, R210, R254 to R302, R401) -/

namespace Sys2Proof.Stated

/-- A command is over: it has completed in a state with a reason and masks, and no engine, hut or stack knows it any more (R254, R268). -/
def Over (s : State) (c : Cmd) (st : HState) (reason pmask mmask : Nat) (t : State) : Prop :=
  t = s.completeCmd c st reason pmask mmask ∧ ∀ k ∈ t.cmds, k.id ≠ c.id

/-- A command that names no shape record: an `awrite`, or an `afill` of a scratchpad range (R41). -/
def noRecord (c : Cmd) : Prop := c.op = 1 ∨ (c.op = 5 ∧ c.mod.getLsbD 5 = false)

/-- The acceptances of hut and summit commands: core, opcode and kind (R286, R297). -/
def nearAccept : Instr → Option (Nat × Nat × Nat)
  | .ahutLoad core => some (core, 6, 1)
  | .ahutRun core => some (core, 6, 2)
  | .ahutReduce core => some (core, 6, 3)
  | .asummitPred core => some (core, 7, 1)
  | .asummitTopk core => some (core, 7, 2)
  | _ => none

/-- Whether a LOAD of the same engine to a hut, issued before a command, has not reached the hut yet (R289). -/
def loadOwed (s : State) (c : Cmd) (hut : Nat) : Bool :=
  (s.cmds.takeWhile (fun (k : Cmd) => k.id != c.id)).any (fun (k : Cmd) =>
    k.core == c.core && k.op == 6 && k.sent && k.kind == 1 && k.huts.contains hut && !k.arrived.contains hut && !k.finished)

end Sys2Proof.Stated

/-- R41, R42, R254 to R256: a core's engine accepts its first command that is not yet accepted: a misaligned or unreadable record, a broken record and a failed check
complete it in error with the code that stands first; otherwise it is admitted. -/
def Stated.EngineAcceptance : Prop :=
  ∀ (s : State) (core : Nat),
    let m := Stated.asModule s
    (s.nextCmd core = none → exec (.asyncAccept core) s = .next m) ∧
    ∀ c : Cmd, s.nextCmd core = some c → c.op ≤ 5 →
      (c ∈ s.cmds ∧ c.core = core ∧ c.accepted = false ∧ ∀ n ∈ c.after, ∀ k ∈ s.cmds, k.id ≠ n) ∧
      (c.unverified = true → exec (.asyncAccept core) s = .next m) ∧
      (c.unverified = false → Stated.noRecord c → ∀ (r : Nat) (c' : Cmd), m.checkCmd c = (r, c') →
        (r = 0 → exec (.asyncAccept core) s = .next (m.acceptCmd c' [])) ∧
        (r ≠ 0 → ∃ t : State, exec (.asyncAccept core) s = .next t ∧ Stated.Over m c' .error r 0 0 t)) ∧
      (c.unverified = false → ¬Stated.noRecord c →
        (c.a.toNat % 64 ≠ 0 → ∃ t : State, exec (.asyncAccept core) s = .next t ∧ Stated.Over m c .error 4 0 0 t) ∧
        (c.a.toNat % 64 = 0 → ∀ s1 : State,
          (∀ dark, m.readRecord core c.team.vf c.a.toNat = (.wait dark, s1) → exec (.asyncAccept core) s = .next (s1.darkSince c dark)) ∧
          (∀ k, m.readRecord core c.team.vf c.a.toNat = (.fault k, s1) → ∃ t : State, exec (.asyncAccept core) s = .next t ∧ Stated.Over s1 c .error k.code 0 0 t) ∧
          ∀ bs : List Byte, m.readRecord core c.team.vf c.a.toNat = (.ok bs, s1) →
            let shape : BitVec 512 := BitVec.ofNat 512 (natOfBytes bs)
            let c1 : Cmd := { c with shape := shape }
            (shapeReason shape ≠ 0 → ∃ t : State, exec (.asyncAccept core) s = .next t ∧ Stated.Over s1 c1 .error (shapeReason shape) 0 0 t) ∧
            (shapeReason shape = 0 → ∀ (r : Nat) (c' : Cmd), s1.checkCmd c1 = (r, c') →
              (r = 0 → exec (.asyncAccept core) s = .next (s1.acceptCmd c' bs)) ∧
              (r ≠ 0 → ∃ t : State, exec (.asyncAccept core) s = .next t ∧ Stated.Over s1 c' .error r 0 0 t))))

/-- R254, R257 to R259, R265, R269, R303, R324, R401: a running command's next block is written, fails or waits as one unit, and one sent to a peer lands with the peer's
acknowledgement; one that waited 2^21 cycles on a dark direction fails as
uncorrectable; and a command whose blocks are decided, or that is cancelled, completes in the state its faults give. -/
def Stated.EngineWork : Prop :=
  ∀ (s : State) (id : Nat) (c : Cmd), s.cmds.find? (fun (c : Cmd) => c.id == id) = some c →
    let m := Stated.asModule s
    (s.cmdRuns c = false → exec (.asyncBlockWrite id) s = .next m) ∧
    (s.cmdRuns c = true →
      (∀ r, c.writeFault = some r → exec (.asyncBlockWrite id) s = .next (m.setCmd { c with reject := some r })) ∧
      (c.writeFault = none → s.readIdxs c = none → exec (.asyncBlockWrite id) s = .next m) ∧
      (c.writeFault = none → ∀ (c1 : Cmd) (key : Nat × Nat × Nat) (s1 : State), m.readIdxs c = some c1 → c1.blocks[c1.next]? = some key →
        (c1.away = true →
          (s.pathUp (c1.core / 32) 24 = false → exec (.asyncBlockWrite id) s = .next (m.darkSince c1 true)) ∧
          (s.pathUp (c1.core / 32) 24 = true → exec (.asyncBlockWrite id) s = .next ((m.flits 24 (c1.core / 32) 1).landBlock { c1 with away := false } key))) ∧
        (c1.away = false →
          (∀ dark, m.cmdBlock c1 key = (.waits dark, s1) →
            exec (.asyncBlockWrite id) s = .next (s1.darkSince c1 dark)) ∧
          (∀ k, m.cmdBlock c1 key = (.fails k, s1) →
            exec (.asyncBlockWrite id) s = .next (s1.setCmd { c1 with next := c1.next + 1, fault := worst c1.fault (some k), asked := none, held := [] })) ∧
          (∀ held, m.cmdBlock c1 key = (.written held, s1) → exec (.asyncBlockWrite id) s = .next (s1.landBlock { c1 with held := held } key)) ∧
          ∀ held, m.cmdBlock c1 key = (.sent held, s1) → exec (.asyncBlockWrite id) s = .next (s1.setCmd { c1 with held := held, away := true, asked := none })))) ∧
    (∀ since, c.asked = some since →
      (s.cycle < since + 2 ^ 21 → exec (.asyncDarkTimeout id) s = .next m) ∧
      (since + 2 ^ 21 ≤ s.cycle → c.accepted = false → ∃ t : State, exec (.asyncDarkTimeout id) s = .next t ∧ Stated.Over m c .error 0x20 0 0 t) ∧
      (since + 2 ^ 21 ≤ s.cycle → c.accepted = true →
        exec (.asyncDarkTimeout id) s = .next (m.setCmd { c with next := c.next + 1, fault := some .uncorrectable, asked := none, held := [], away := false }))) ∧
    (c.cancel = true → ∃ t : State, exec (.asyncComplete id) s = .next t ∧ Stated.Over m c .cancelled 0 0 0 t) ∧
    (c.cancel = false → 6 ≤ c.op → ∀ (st : HState) (reason : Nat), c.result = some (st, reason) → c.finished = true →
      ∃ t : State, exec (.asyncComplete id) s = .next t ∧ Stated.Over m c st reason c.pmask.toNat c.mmask.toNat t) ∧
    (c.cancel = false → c.op ≤ 5 → ∀ r, c.reject = some r → ∃ t : State, exec (.asyncComplete id) s = .next t ∧ Stated.Over m c .error r 0 0 t) ∧
    (c.cancel = false → c.op ≤ 5 → c.reject = none → s.cmdRuns c = true → ((c.op = 2 ∨ c.op = 3) → c.idxs.isSome = true) → c.blocks.length ≤ c.next →
      (c.fault = none → c.idxFault = false → ∃ t : State, exec (.asyncComplete id) s = .next t ∧ Stated.Over m c .done 0 0 0 t) ∧
      ∀ k, worst c.fault (if c.idxFault then some .bounds else none) = some k →
        ∃ t : State, exec (.asyncComplete id) s = .next t ∧ Stated.Over m c .error k.code 0 0 t)

/-- R41, R42, R254 to R256: a core's engine accepts its first command that is not yet accepted: a misaligned or unreadable record, a broken record and a
failed check complete it in error with the code that stands first; otherwise it is admitted. R254, R257 to R259, R265, R269, R303, R324, R401: a
running command's next block is written, fails or waits as one unit, and one sent to a peer lands with the peer's acknowledgement; one that waited
2^21 cycles on a dark direction fails as uncorrectable; and a command whose blocks are decided, or that is cancelled, completes in the state its
faults give. Readings of the engine: logs 29, 35 and 72. -/
def Obligations.EngineSteps : Prop := Stated.EngineAcceptance ∧ Stated.EngineWork

/-- R266, R276, R288, R292, R298: acceptance of hut and summit commands (`ahutLoad`, `ahutRun`, `ahutReduce`, `asummitPred`, `asummitTopk`): a block that breaks a rule completes in error with the first reason that applies, and any other is
sent to its huts, or to the stacks, with its bytes counted. -/
def Stated.NearAcceptance : Prop :=
  ∀ (core op kind : Nat) (s : State) (c : Cmd), s.nextCmd core = some c →
    ∀ i ∈ [Instr.ahutLoad core, .ahutRun core, .ahutReduce core, .asummitPred core, .asummitTopk core], Stated.nearAccept i = some (core, op, kind) →
    let m := Stated.asModule s
    (c.unverified = true ∨ c.op ≠ op ∨ c.stores ≠ 0 → exec i s = .next m) ∧
    (c.unverified = false → c.op = op → c.stores = 0 →
      (c.a.toNat % 64 ≠ 0 → ∃ t : State, exec i s = .next t ∧ Stated.Over m c .error 4 0 0 t) ∧
      (c.a.toNat % 64 = 0 → ∀ s1 : State,
        (∀ dark, m.readRecord core c.team.vf c.a.toNat = (.wait dark, s1) → exec i s = .next (s1.darkSince c dark)) ∧
        (∀ k, m.readRecord core c.team.vf c.a.toNat = (.fault k, s1) → ∃ t : State, exec i s = .next t ∧ Stated.Over s1 c .error k.code 0 0 t) ∧
        ∀ bs : List Byte, m.readRecord core c.team.vf c.a.toNat = (.ok bs, s1) →
          let c1 : Cmd := { c with shape := BitVec.ofNat 512 (natOfBytes bs) }
          let first := if (s1.vf c.team.vf).feature (if op = 6 then 3 else 2) = false then 1 else if op = 6 then c1.hutReason else c1.summitReason
          (nearTurn op kind c1 = false → exec i s = .next s1) ∧
          (nearTurn op kind c1 = true → first ≠ 0 → ∃ t : State, exec i s = .next t ∧ Stated.Over s1 c1 .error first 0 0 t) ∧
          (nearTurn op kind c1 = true → first = 0 → ∀ (dark : Bool) (s2 : State), (if op = 6 then s1.lookHut c1 else s1.lookSummit c1) = (.wait dark, s2) →
            exec i s = .next (s2.darkSince c1 dark)) ∧
          (nearTurn op kind c1 = true → first = 0 → ∀ (r : Nat) (s2 : State), (if op = 6 then s1.lookHut c1 else s1.lookSummit c1) = (.reject r, s2) →
            ∃ t : State, exec i s = .next t ∧ Stated.Over s2 c1 .error r 0 0 t) ∧
          (nearTurn op kind c1 = true → first = 0 → ∀ (pages : List (Nat × BitVec 64 × Nat)) (prog : List (BitVec 32)) (s2 : State),
            (if op = 6 then s1.lookHut c1 else s1.lookSummit c1) = (.ok pages prog, s2) →
            (∀ a, c1.bar = some a → ((s2.kd? c1.team).map (·.spad)).getD 0 ≤ a → ∃ t : State, exec i s = .next t ∧ Stated.Over s2 c1 .error 10 0 0 t) ∧
            ((∀ a, c1.bar = some a → a < ((s2.kd? c1.team).map (·.spad)).getD 0) → ∃ t : State, exec i s = .next t ∧ t.mem = s2.mem ∧
              (op = 6 → c1.kind ≠ 1 → ∀ h, (t.hut h).queue = (s2.hut h).queue ++ (if c1.huts.contains h && s2.wayUp (core / 32) (8 + h % 16) then [c.id] else [])) ∧
              (op = 6 → c1.kind = 1 → t.huts = s2.huts) ∧
              (op = 7 → ∀ k < 16, (t.stack k).sumcmd = if s2.wayUp (core / 32) (8 + k) then satInc (s2.stack k).sumcmd else (s2.stack k).sumcmd) ∧
              ∀ x ∈ t.cmds, x.id = c.id → x.accepted = true ∧ x.sent = true ∧ x.acceptedAt = s2.cycle))))

/-- R266, R276, R288, R292, R298: acceptance of hut and summit commands (`ahutLoad`, `ahutRun`, `ahutReduce`, `asummitPred`, `asummitTopk`): a block that
breaks a rule completes in error with the first reason that applies, and any other is sent to its huts, or to the stacks, with its bytes counted. A
peer address is refused by the model's reading (log 14). -/
def Obligations.NearMemoryAcceptance : Prop := Stated.NearAcceptance

/-- R277, R278, R289, R290, R294: a LOAD replaces a hut's program and tag, or is refused while the hut runs; a command starts with cleared registers, its parameters and its
window, or reports NOPROG; slots of a window are granted within the weights; and at its deadline a command's huts stop, with the
bytes of those that ran taken from PEND (R292). -/
def Stated.HutSteps : Prop :=
  ∀ (s : State),
    let m := Stated.asModule s
    (∀ (hut id : Nat) (c : Cmd), s.cmd? id = some c → c.op = 6 → c.kind = 1 → c.sent = true → c.finished = false → c.huts.contains hut = true → c.arrived.contains hut = false →
      Stated.loadOwed s c hut = false → s.wayUp (c.core / 32) (8 + hut % 16) = true → s.past c = false →
      ∃ t : State, exec (.hutLoadArrive hut id) s = .next t ∧ t.mem = s.mem ∧
        ((s.hut hut).running.isSome = true → (t.hut hut).ib = (s.hut hut).ib ∧ (t.hut hut).tag = (s.hut hut).tag ∧
          (t.stack (hut % 16)).busyref = satInc (s.stack (hut % 16)).busyref) ∧
        ((s.hut hut).running = none → (t.hut hut).tag = some (c.team.vf, c.pid, c.plen) ∧ (t.hut hut).running = none ∧
          ∀ n < (s.hut hut).ib.length, (t.hut hut).ib.getD n 0 = if n < c.prog.length then c.prog.getD n 0 else (s.hut hut).ib.getD n 0)) ∧
    (∀ (hut id : Nat) (rest : List Nat) (c : Cmd), (s.hut hut).queue = id :: rest → s.cmd? id = some c →
      ((s.hut hut).running.isSome = true ∨ (s.stack (hut % 16)).huten = false ∨ s.past c = true → exec (.hutCommandStart hut) s = .next m) ∧
      ((s.hut hut).running = none → (s.stack (hut % 16)).huten = true → s.past c = false → Stated.loadOwed s c hut = false →
        (∀ plen : Nat, (s.hut hut).tag = some (c.team.vf, c.pid, plen) → ∃ t : State, exec (.hutCommandStart hut) s = .next t ∧ t.mem = s.mem ∧
          (t.stack (hut % 16)).hutcmd = satInc (s.stack (hut % 16)).hutcmd ∧
          t.hut hut = { s.hut hut with x := List.replicate 24 (List.replicate 8 0), c := (List.range 4).map (fun n => BitVec.ofNat 32 (c.param n)), i0 := 0, i1 := 0,
                                       wstart := (c.window hut).1, wn := (c.window hut).2, pc := 0, loops := [], running := some id, queue := rest, granted := false }) ∧
        ((∀ plen : Nat, (s.hut hut).tag ≠ some (c.team.vf, c.pid, plen)) → exec (.hutCommandStart hut) s = .next (m.leaveHut hut id (some 0x34) false none)))) ∧
    (∀ stack channel : Nat, ∃ t : State, exec (.commandSlotGrant stack channel) s = .next t ∧ t.mem = s.mem ∧
      (∀ h, (t.hut h).granted = true → (s.hut h).granted = true ∨ h ∈ s.slotWaiter stack channel) ∧
      (∀ c ∈ t.cmds, ∀ k ∈ c.granted, (∃ c0 ∈ s.cmds, c0.id = c.id ∧ k ∈ c0.granted) ∨ (k = stack ∧ c.id ∈ s.scanWaiter stack channel)) ∧
      ((t.stack stack).windows.has channel = true → let w := (t.stack stack).windows.get channel (0, 0, 0, 0)
        1 ≤ w.1 + w.2.1 ∧ w.1 + w.2.1 ≤ w.2.2.1 + w.2.2.2)) ∧
    ∀ (id : Nat) (c : Cmd), s.cmd? id = some c → c.accepted = true → (c.op = 6 ∨ c.op = 7) → c.sent = true → c.finished = false →
      (s.cycle < c.acceptedAt + 1024 * c.deadline → exec (.hutDeadline id) s = .next m) ∧
      (c.acceptedAt + 1024 * c.deadline ≤ s.cycle → c.op = 6 →
        ∃ t : State, exec (.hutDeadline id) s = .next t ∧ ∀ h ∈ c.huts, h ∉ c.left → (t.hut h).running ≠ some id ∧ id ∉ (t.hut h).queue) ∧
      (c.acceptedAt + 1024 * c.deadline ≤ s.cycle → c.op = 6 → c.kind = 2 → ∃ t : State, exec (.hutDeadline id) s = .next t ∧ ∃ x ∈ t.cmds, x.id = id ∧ x.finished = true ∧
        x.subbed = c.subbed + ((c.huts.filter (fun h => !c.left.contains h && decide ((s.hut h).running = some id))).map (fun h => 32 * (c.window h).2)).sum) ∧
      (c.acceptedAt + 1024 * c.deadline ≤ s.cycle → c.op = 7 →
        exec (.hutDeadline id) s = .next (m.collect c ((List.range 16).filter (fun k => !c.reported.contains k))))

/-- R277, R293, R294, R299, R301: a stack reads its share block by block, each with a command slot and at the block's home, and poisons its contribution where a block does; the
last report before the deadline lets the collector finish; a late one is discarded and LATEDROP counts it. -/
def Stated.SummitSteps : Prop :=
  ∀ (s : State) (stack id : Nat),
    let m := Stated.asModule s
    (∀ c : Cmd, s.cmd? id = some c → c.op = 7 → c.sent = true → c.finished = false → s.past c = false → c.scanned.contains stack = false → stack < 16 →
      (s.nextBlock c stack = none → exec (.summitScanDone stack id) s = .next (m.setCmd { c with scanned := c.scanned ++ [stack] })) ∧
      (∀ b, s.nextBlock c stack = some b → isDevice (64 * b) = true →
        (c.granted.contains stack = false → exec (.summitScanDone stack id) s = .next m) ∧
        (c.granted.contains stack = true → s.readFree b = true → ∃ (t : State) (c' : Cmd), exec (.summitScanDone stack id) s = .next t ∧
          t = { (m.setCmd c') with stackTab := t.stackTab } ∧ c'.id = c.id ∧ c'.scanAt.get stack 0 = c.scanAt.get stack 0 + 1 ∧ c'.granted.contains stack = false ∧
          c'.scanned = c.scanned ∧ c'.lists.get stack ([], 0) = s.scan c stack b ∧
          c'.pmask = if s.blockPoisons c b then c.pmask ||| BitVec.ofNat 16 (2 ^ stack) else c.pmask) ∧
        (c.granted.contains stack = true → s.readFree b = false → ∃ t : State, exec (.summitScanDone stack id) s = .next t ∧ t.mem = s.mem ∧ t.cmds = s.cmds)) ∧
      (∀ b, s.nextBlock c stack = some b → isDevice (64 * b) = false → ∀ s1 : State,
        (∀ dark, m.reach (8 + stack) c.team.vf [b] [] = .waits dark s1 → exec (.summitScanDone stack id) s = .next s1) ∧
        (m.reach (8 + stack) c.team.vf [b] [] = .go s1 → exec (.summitScanDone stack id) s = .next (s1.summitRead c stack b)))) ∧
    (∀ x : Nat × Nat × Nat, s.late.find? (fun x => x.1 == id && x.2.1 == stack) = some x →
      ∃ t : State, exec (.stackListArrive stack id) s = .next t ∧ t = { m with late := s.late.erase x, stackTab := t.stackTab } ∧
        (t.stack x.2.2).latedrop = satInc (s.stack x.2.2).latedrop) ∧
    ∀ c : Cmd, s.late.find? (fun x => x.1 == id && x.2.1 == stack) = none → s.cmd? id = some c → c.op = 7 → c.sent = true → c.finished = false →
      c.reported.contains stack = false →
      (s.past c = true ∨ c.scanned.contains stack = false ∨ s.wayUp (8 + stack) (8 + s.collector c) = false → exec (.stackListArrive stack id) s = .next m) ∧
      (s.past c = false → c.scanned.contains stack = true → s.wayUp (8 + stack) (8 + s.collector c) = true →
        let c' : Cmd := { c with reported := c.reported ++ [stack] }
        let m' := m.flits (8 + stack) (8 + s.collector c) (msgFlits (8 * (c.lists.get stack ([], 0)).1.length))
        exec (.stackListArrive stack id) s = .next (if (List.range 16).all c'.reported.contains then (m'.setCmd c').collect c' [] else m'.setCmd c'))

/-- R277, R278, R289, R290, R294: a LOAD replaces a hut's program and tag, or is refused while the hut runs; a command starts with cleared registers, its
parameters and its window, or reports NOPROG; slots of a window are granted within the weights; and at its deadline a command's huts stop, with the bytes of
those that ran taken from PEND (R292). R277, R293, R294, R299, R301: a stack reads its share block by block, each with a command slot and at the block's
home, and poisons its contribution where a block does; the last report before the deadline lets the collector finish; a late one is discarded and LATEDROP
counts it. -/
def Obligations.NearMemorySteps : Prop := Stated.HutSteps ∧ Stated.SummitSteps

/-- R191, R192, R195, R198 to R200, R210: the array moves on with its granules; a drain captures its tile, cleared under Z, once the writes before it are ready; its 128 entries go
to its port in order; a delivered tile is added element by element; and one that finds its team retired makes its sender trap; a tile that a dark
direction has held for 2^21 cycles is an uncorrectable error its sender's cluster consumes (log 68). -/
def Stated.ArraySteps : Prop :=
  ∀ (s : State) (r : TeamRef) (slot acc : Nat) (T : Team) (q : Seq), s.team? r = some T → T.ref = r → T.seqs.find? (fun q => q.slot == slot) = some q →
    s.seqRuns T slot = true →
    let m := Stated.asModule s
    (∀ (quad : Nat) (k : KDesc), s.seqTeam quad = some (T, q) → s.kd? r = some k → exec (.arrayFree quad) s = .next (m.setTeam (T.arrayRun k slot s.cycle))) ∧
    (∀ d : Drain, q.drains.find? (fun d => d.acc == acc && d.tile.isNone) = some d →
      let writing : Prop := (∃ j, q.job = some j ∧ j.acc = acc) ∨ s.cycle < q.accReady.getD acc 0
      (writing → exec (.drainCapture r slot acc) s = .next m) ∧
      (¬writing → ∃ (t : State) (T' : Team), exec (.drainCapture r slot acc) s = .next t ∧
        T'.tile (accKey slot acc) = (if d.clear then List.replicate 4096 VReg.zero else T.tile (accKey slot acc)) ∧
        (∀ k, k ≠ accKey slot acc → T'.tile k = T.tile k) ∧
        ((∃ col, d.dest = .port col) → t = (m.setTeam T').tryRetire r) ∧
        ∀ (dst : TeamRef) (ds da : Nat) (bar : Option Nat), d.dest = .peer dst ds da bar → t.team? r = some T' ∧ t.mem = s.mem ∧ t.tiles = s.tiles ++
          [{ id := s.nextId, src := r, srcSlot := slot, srcAcc := acc, pc := d.pc, dst := dst, slot := ds, acc := da, bar := bar, data := T.tile (accKey slot acc), since := s.cycle }])) ∧
    (∀ (d : Drain) (col : Bool) (tile : List VReg), q.drains.find? (fun d => d.acc == acc) = some d → d.dest = .port col → d.tile = some tile →
      (32 ≤ (T.port (portKey slot acc)).entries.length → exec (.drainEntry r slot acc) s = .next m) ∧
      ((T.port (portKey slot acc)).entries.length < 32 → (T.port (portKey slot acc)).readers = [] →
        ∃ T' : Team, exec (.drainEntry r slot acc) s = .next ((m.setTeam T').tryRetire r) ∧
          (T'.port (portKey slot acc)).entries = (T.port (portKey slot acc)).entries ++ [drainEntryOf col tile d.next] ∧ T'.acc = T.acc)) ∧
    (∀ (tile : Tile) (src : Team), s.tiles.find? (fun x => x.id == tile.id) = some tile → tile.dst = r → tile.slot = slot → tile.acc = acc → s.team? tile.src = some src →
      tile.dst ≠ tile.src → tile.bar = none → tile.dst.cluster = tile.src.cluster → T.retired = false → (∀ j, q.job = some j → j.acc ≠ acc) →
      s.wayUp (src.core / 32) (T.core / 32) = true →
      ∃ t : State, exec (.draddApply tile.id) s = .next t ∧ (∀ x ∈ t.tiles, x.id ≠ tile.id) ∧
        ∀ T' : Team, t.team? r = some T' → T'.tile (accKey slot acc) =
          (let l := ((T.tile (accKey slot acc)).zip tile.data).map (fun p => tileAdd p.1 p.2)
           l ++ List.replicate (4096 - l.length) VReg.zero)) ∧
    (∀ (tile : Tile) (src : Team), s.tiles.find? (fun x => x.id == tile.id) = some tile → tile.dst = r → tile.slot = slot → tile.acc = acc → s.team? tile.src = some src →
      T.retired = false → (∀ j, q.job = some j → j.acc ≠ acc) → s.wayUp (src.core / 32) (T.core / 32) = false →
      exec (.draddApply tile.id) s = .next (if tile.since + 2 ^ 21 ≤ s.cycle then m.consume tile.src else m)) ∧
    ∀ tile : Tile, s.tiles.find? (fun x => x.id == tile.id) = some tile → tile.src = r → tile.srcSlot = slot → q.trap = none →
      let there := match s.launch? tile.dst.vf tile.dst.launch with | some l => l.chipletOf tile.dst.cluster | none => T.core / 32
      ((∃ D : Team, s.team? tile.dst = some D ∧ D.retired = true) ∨ (s.clusterOf tile.dst = none) → s.pathUp (T.core / 32) there = true →
        ∃ t : State, exec (.draddLateFailure tile.id) s = .next t ∧ ∀ x ∈ t.tiles, x.id ≠ tile.id) ∧
      ((∃ D : Team, s.team? tile.dst = some D ∧ D.retired = false) → exec (.draddLateFailure tile.id) s = .next m)

/-- R191, R192, R195, R198 to R200, R210: the array moves on with its granules; a drain captures its tile, cleared under Z, once the writes before it are
ready; its 128 entries go to its port in order; a delivered tile is added element by element; and one that finds its team retired makes its sender
trap; a tile that a dark direction has held for 2^21 cycles is an uncorrectable error its sender's cluster consumes (log 68). That a delivered tile is
added as one unit, and what becomes of one on a dark pair, are the model's readings (logs 33 and 68). -/
def Obligations.MatrixSteps : Prop := Stated.ArraySteps

/-! ### The module's own steps: pre-emption, run states, traps, invalidation, harvest (R226, R227, R276, R351, R352, R361, R362, R370 to R381) -/

/-- R371, R372, R378, R396: PREEMPT halts a VF on every quadrant where it has a team; a context that has come to rest is HALTED, begins to be restored once its quadrant is available
again, and runs on once what its staging log reads again can be reached; one on a reclaimed quadrant is spilt. -/
def Stated.Preemption : Prop :=
  ∀ (s : State) (v q : Nat),
    let m := Stated.asModule s
    (∃ t : State, exec (.preempt v) s = .next t ∧ t.mem = s.mem ∧ t.vf v = { s.vf v with preempted := true } ∧ (∀ u, u ≠ v → t.vf u = s.vf u) ∧
      (∀ p ∈ s.heldQuads v, t.frozen p v = true) ∧ ∀ p, p ∉ s.heldQuads v → t.quad p = s.quad p) ∧
    (∀ o : Outgoing, (s.quad q).out = [(v, o)] →
      (o.st = .restoring ∨ (o.st = .halted ∧ ((s.usableQuads v).contains q = true ∨ s.spillable (s.rowsOf v q) (s.banksOf v q) = false)) → exec (.haltComplete q) s = .next m) ∧
      (o.st = .halted → (s.usableQuads v).contains q = false → s.spillable (s.rowsOf v q) (s.banksOf v q) = true →
        ∃ t : State, exec (.haltComplete q) s = .next t ∧ t = { m with quads := t.quads } ∧ t.allSpilt v q = true ∧ ∀ p, p ≠ q → t.quad p = s.quad p) ∧
      (o.st = .halting → (s.teamsOn q v).all (s.slotHalted q) = false → exec (.haltComplete q) s = .next m) ∧
      (o.st = .halting → (s.teamsOn q v).all (s.slotHalted q) = true → s.available v q = false →
        ∃ t : State, exec (.haltComplete q) s = .next t ∧ t.mem = s.mem ∧ (t.quad q).out = [(v, { o with st := .halted, acc := true })]) ∧
      (o.st ≠ .restoring → exec (.restoreComplete q) s = .next m) ∧
      (o.st = .restoring → s.roomBack v q o = false → exec (.restoreComplete q) s = .next m) ∧
      (o.st = .restoring → s.roomBack v q o = true →
        let share := if o.bsramGone then (s.teamsOn q v).filter (·.hasMatrix) else []
        let back : Reach := share.foldl (fun r t => match r with | .go s => s.replayReach t (t.slotOf q) | r => r) (.go m)
        (∀ s1 : State, back = .go s1 → s1.available v q = true → ∃ t : State, exec (.restoreComplete q) s = .next t ∧ (t.quad q).out = []) ∧
        ∀ (dark : Bool) (s1 : State), back = .waits dark s1 → exec (.restoreComplete q) s = .next s1)) ∧
    ∃ t : State, exec (.resumego v) s = .next t ∧ t.mem = s.mem ∧ t.vf v = { s.vf v with preempted := false } ∧
      ∀ p ∈ s.heldQuads v, ∀ o : Outgoing, (s.quad p).out.find? (fun e => e.1 == v) = some (v, o) → o.st = .halted → (s.usableQuads v).contains p = true →
        (s.vf v).runstate ≠ .paused → (t.quad p).out.find? (fun e => e.1 == v) = some (v, { o with st := .restoring })

/-- R371, R377, R378: RUNNING sends the pending messages of the present generation and counts the others; DESCHED holds messages; PAUSED halts a VF that holds no accepted launch,
and is ignored otherwise; KICK sends the event ring's message once. -/
def Stated.RunStates : Prop :=
  ∀ (s : State) (v : Nat),
    let m := Stated.asModule s
    let f := s.vf v
    let now := f.msixPend.filter (fun p => p.2 == f.gen)
    let sent : List (Fn × Nat) := s.out.msix ++ now.map (fun p => (Fn.vf v, p.1))
    let vector := (f.queues.get f.nwq VQueue.reset).vector
    (∃ t : State, exec (.runstateRunning v) s = .next t ∧ t.mem = s.mem ∧ t.out = { s.out with msix := sent } ∧
      t.vf v = { f with runstate := .running, msixPend := [], evDrop := (t.vf v).evDrop } ∧ (t.vf v).evDrop = satInc f.evDrop (f.msixPend.length - now.length)) ∧
    exec (.runstateDesched v) s = .next (m.setVf v { f with runstate := .desched }) ∧
    (s.launches.any (fun l => l.vf == v) = true → exec (.runstatePaused v) s = .next m) ∧
    (s.launches.any (fun l => l.vf == v) = false → ∃ t : State, exec (.runstatePaused v) s = .next t ∧ t.vf v = { f with runstate := .paused } ∧
      ∀ p ∈ s.heldQuads v, t.frozen p v = true) ∧
    ∃ t : State, exec (.kick v) s = .next t ∧ t.out = { s.out with msix := if vector = 0xFFFF then sent else sent ++ [(Fn.vf v, vector)] } ∧ (t.vf v).runstate = .running

/-- R352, R361, R362, R366, R367: an action on a held trap: RESUME makes a resumable issuer ready again, RELAUNCH rolls its cluster back, END ends its grid, whose
record comes once no near-memory command of it that was sent runs on; under END mode an action clears the record; with no valid record it does nothing; and a `brk` RESUME readies every group halted at one. -/
def Stated.TrapActions : Prop :=
  ∀ (s : State) (v : Nat),
    let m := Stated.asModule s
    let x := s.ctx v
    let acts : List Instr := [.trapResume v, .trapRelaunch v, .trapEnd v]
    (x.trap.valid = false → ∀ i ∈ acts, exec i s = .next m) ∧
    (x.trap.valid = true → x.trap.hold = false → ∀ i ∈ acts, exec i s = .next (m.setCtx v { x with trap := { x.trap with valid := false, pending := 0 } })) ∧
    (x.trap.valid = true → x.trap.hold = true → x.trap.resumable = false → exec (.trapResume v) s = .next m) ∧
    (x.trap.valid = true → x.trap.hold = true → ∀ (r : TeamRef) (T : Team) (g : Group), x.trap.team = some r → s.team? r = some T → T.ref = r →
      (x.trap.resumable = true → x.trap.seq = false → T.group? (T.slotOf x.trap.quad.toNat) x.trap.gplace.toNat = some g →
        ∃ (t : State) (T' : Team) (g' : Group), exec (.trapResume v) s = .next t ∧ t.mem = s.mem ∧ t.team? r = some T' ∧
          T'.group? g.slot g.place = some g' ∧ g' = { g with trap := none } ∧ ∀ y, y ∈ T'.threads → g.owns y = true → y.lbuf = []) ∧
      (x.trap.resumable = true → x.trap.seq = true → ∃ (t : State) (T' : Team), exec (.trapResume v) s = .next t ∧ t.team? r = some T' ∧
        ∀ y ∈ T'.seqs, y.slot = T.slotOf x.trap.quad.toNat → y.trap = none) ∧
      (∀ c : Cluster, s.clusterOf r = some c → c.st ≠ .rollback → c.escaped = false → c.retries < 2 →
        ∃ t : State, exec (.trapRelaunch v) s = .next t ∧ t = (m.rollback c).nextTrap v ∧
          ((∀ l : Launch, s.launch? c.vf c.launch = some l → l.ended = none) →
            ∃ c' ∈ t.clusters, c'.is c.vf c.launch c.idx = true ∧ c'.st = .rollback ∧ c'.retries = c.retries + 1 ∧ c'.teams = [])) ∧
      (∀ l : Launch, s.launch? r.vf r.launch = some l → ∃ t : State, exec (.trapEnd v) s = .next t ∧ (∀ c ∈ t.clusters, ¬(c.vf = r.vf ∧ c.launch = r.launch)) ∧
        let record : Prop := ∃ u ∈ t.out.used, u.fn = .vf r.vf ∧ ∃ rc, u.record = some rc ∧ rc.launchId = r.launch ∧ rc.status = 3 ∧ rc.reason = x.trap.cause.toNat
        (record ∨ ∃ l', t.launch? r.vf r.launch = some l' ∧ l'.ended = some (3, x.trap.cause.toNat)) ∧
        ((∀ k ∈ s.cmds, k.team.vf = r.vf → k.grid ≠ some r.launch ∧ (k.team.launch = r.launch → ¬((k.op = 6 ∨ k.op = 7) ∧ k.sent = true))) → record))) ∧
    ∀ (T : Team) (g : Group), s.team? T.ref = some T → T.ref.vf = v → T.group? g.slot g.place = some g → g.brk.isSome = true →
      T.slotOf (T.quads.getD g.slot 0) = g.slot →
      ∃ (t : State) (T' : Team) (g' : Group), exec (.brkResume v) s = .next t ∧ t.mem = s.mem ∧ t.team? T.ref = some T' ∧ T'.group? g.slot g.place = some g' ∧ g'.brk = none ∧
        ∀ y, y ∈ T'.threads → g.owns y = true → y.lbuf = []

/-- R371, R372, R378, R396: PREEMPT halts a VF on every quadrant where it has a team; a context that has come to rest is HALTED, begins to be restored
once its quadrant is available again, and runs on once what its staging log reads again can be reached; one on a reclaimed quadrant is spilt. R371,
R377, R378: RUNNING sends the pending messages of the present generation and counts the others; DESCHED holds messages; PAUSED halts a VF that holds
no accepted launch, and is ignored otherwise; KICK sends the event ring's message once. R352, R361, R362, R366, R367: an action on a held trap: RESUME
makes a resumable issuer ready again, RELAUNCH rolls its cluster back, END ends its grid, whose record comes once no near-memory command of it that
was sent runs on; under END mode an action clears the record; with no valid record it does nothing; and a `brk` RESUME readies every group halted at
one. What ends PREEMPT and PAUSED is the model's reading (log 39), as are END's PENDING (log 31) and the form of spilt parts (log 27). -/
def Obligations.HaltsAndTraps : Prop := Stated.Preemption ∧ Stated.RunStates ∧ Stated.TrapActions

/-- R226, R227, R276: GO drops the cached translations of the range named then and sets BUSY, which clears once those cached since have left too and every access of the context, and
every near-memory command that translated an address of the range, is over. R370: an item that its second has not matched in 2^16 cycles is a mismatch. -/
def Stated.InvalidationAndVerification : Prop :=
  ∀ (s : State) (v : Nat),
    let m := Stated.asModule s
    let c := s.ctx v
    let size : Nat := match c.isize with | 0 => 2 ^ 12 | 1 => 2 ^ 16 | 2 => 2 ^ 21 | _ => 2 ^ 30
    let range : Option (Nat × Nat) := if c.iall = true then none else some (c.iva / size * size, size)
    let named (r : Option (Nat × Nat)) (base n : Nat) : Prop := ∀ a k, r = some (a, k) → base < a + k ∧ a < base + n
    let touches (r : Option (Nat × Nat)) (k : Cmd) : Prop := k.team.vf = v ∧ ((k.op = 6 ∧ ∃ n < k.nreg, named r (k.regionPage n * 4096) (2 ^ 21)) ∨
      ((k.op = 6 ∨ k.op = 7) ∧ ∃ p ∈ k.pages, named r (p.1 * 4096) 4096))
    (c.ibusy = true → exec (.invalidateGo v) s = .next m) ∧
    (c.ibusy = false → ∃ t : State, exec (.invalidateGo v) s = .next t ∧ t.mem = s.mem ∧ (t.ctx v).ibusy = true ∧ (t.ctx v).igo = range ∧
      (∀ e : TlbEntry, e ∈ t.tlb ↔ e ∈ s.tlb ∧ ¬(e.ctx = v ∧ named range e.base e.size)) ∧
      ∀ n : Nat, n ∈ (t.ctx v).iwait ↔ ∃ k ∈ s.cmds, k.id = n ∧ touches range k) ∧
    (c.ibusy = false → exec (.invalidateComplete v) s = .next m) ∧
    (c.ibusy = true → ∃ t : State, exec (.invalidateComplete v) s = .next t ∧ t = { m with tlb := t.tlb, ctxs := t.ctxs } ∧
      (∀ e : TlbEntry, e ∈ t.tlb ↔ e ∈ s.tlb ∧ ¬(e.ctx = v ∧ named c.igo e.base e.size)) ∧
      ((∀ k ∈ s.cmds, k.id ∉ c.iwait ∧ ¬touches c.igo k) ∧ s.accessesDone v s.cycle = true → t.ctx v = { c with ibusy := false, iwait := [] }) ∧
      (¬((∀ k ∈ s.cmds, k.id ∉ c.iwait ∧ ¬touches c.igo k) ∧ s.accessesDone v s.cycle = true) → t.ctxs = s.ctxs)) ∧
    ∀ (quad place : Nat) (T : Team) (g : Group), (s.groupsOn quad).find? (fun x => x.2.place == place) = some (T, g) →
      let late : Prop := (∃ e ∈ g.storeQ, e.unverified = true ∧ e.since + 2 ^ 16 ≤ s.cycle) ∨
        (∃ k ∈ s.cmds, k.team = T.ref ∧ k.place = g.key ∧ k.unverified = true ∧ k.acceptedAt + 2 ^ 16 ≤ s.cycle) ∨ ∃ a, g.heldAt = some a ∧ a + 2 ^ 16 ≤ s.cycle
      (late → exec (.verifyTimeout quad place) s = .next (m.consume T.ref)) ∧ (¬late → exec (.verifyTimeout quad place) s = .next m)

/-- R379 to R381, R321, R327: a harvest reads DT of each unit's leaf and clears it there and in cached copies, or is refused with HERR; when it ends, bit i mod 8 of byte
i div 8 of the bitmap is the bit of unit i, and no other byte has changed. Tables and bitmap are reached at their homes, from the I/O chiplet's port 24: behind a host's
copy or an earlier request the harvest waits. -/
def Stated.Harvest : Prop :=
  ∀ (s : State) (v : Nat),
    let m := Stated.asModule s
    let c := s.ctx v
    let bad : Prop := c.hcount = 0 ∨ 2 ^ 24 < c.hcount ∨ 2 ^ 40 < c.hbmp + (c.hcount + 7) / 8
    let leaf (n : Nat) : Option (Nat × Bool) := s.leafOfUnit v (c.hgo.1 / 4096 + n)
    let begun : Ctx := { c with herr := false, hbusy := true, hsince := s.cycle, hread := false, hgo := (c.hva, c.hcount, c.hbmp), hdirty := [] }
    let need := s.harvestBlocks v
    let map := blocksOf c.hgo.2.2 ((c.hdirty.length + 7) / 8)
    (c.hbusy = true → exec (.harvestGo v) s = .next m) ∧
    (c.hbusy = false → bad → exec (.harvestGo v) s = .next (m.setCtx v { c with herr := true })) ∧
    (c.hbusy = false → ¬bad → exec (.harvestGo v) s = .next ((m.setCtx v begun).harvestRead v)) ∧
    (∀ (dark : Bool) (s1 : State), s.homeWait 24 need.1 need.2 = some (dark, s1) → s.harvestRead v = s1) ∧
    (s.homeWait 24 need.1 need.2 = none → s.mem.wf = true → let t := s.harvestRead v
      (t.ctx v).hbusy = c.hbusy ∧ (t.ctx v).hread = true ∧ (t.ctx v).hsince = s.cycle ∧
      (t.ctx v).hdirty = (List.range c.hgo.2.1).map (fun n => match leaf n with | some (_, d) => d | none => false) ∧
      ∀ n < c.hgo.2.1, ∀ (a : Nat) (d : Bool), leaf n = some (a, d) → pteBit (t.mem.nat a 8) 9 = false ∧ ∀ e ∈ t.tlb, e.leaf = a → e.pte.getLsbD 9 = false) ∧
    (c.hbusy = false → exec (.harvestComplete v) s = .next m) ∧
    (c.hbusy = true → c.hread = false → exec (.harvestComplete v) s = .next (m.harvestRead v)) ∧
    (c.hbusy = true → c.hread = true → s.accessesDone v c.hsince = false → exec (.harvestComplete v) s = .next m) ∧
    (c.hbusy = true → c.hread = true → s.accessesDone v c.hsince = true →
      (∀ (dark : Bool) (s1 : State), m.homeWait 24 [] map = some (dark, s1) → exec (.harvestComplete v) s = .next s1) ∧
      (m.homeWait 24 [] map = none → s.mem.wf = true → ∃ t : State, exec (.harvestComplete v) s = .next t ∧ (t.ctx v).hbusy = false ∧
        (∀ n < c.hdirty.length, (t.mem.read (c.hgo.2.2 + n / 8)).getLsbD (n % 8) = c.hdirty.getD n false) ∧
        ∀ a, a < c.hgo.2.2 ∨ c.hgo.2.2 + (c.hdirty.length + 7) / 8 ≤ a → t.mem.read a = s.mem.read a))

/-- R226, R227, R276: GO drops the cached translations of the range named then and sets BUSY, which clears once those cached since have left too and every
access of the context, and every near-memory command that translated an address of the range, is over. R370: an item that its second has not matched
in 2^16 cycles is a mismatch. R379 to R381, R321, R327: a harvest reads DT of each unit's leaf and clears it there and in cached copies, or is refused
with HERR; when it ends, bit i mod 8 of byte i div 8 of the bitmap is the bit of unit i, and no other byte has changed. Tables and bitmap are reached
at their homes, from the I/O chiplet's port 24: behind a host's copy or an earlier request the harvest waits. The second's comparison is an input (log
48); how the module's own accesses wait at homes is its reading (log 66). -/
def Obligations.InvalidationAndHarvest : Prop := Stated.InvalidationAndVerification ∧ Stated.Harvest

/-! ### The module's own steps: bivouac, monitors, boot, lanes and registers (R7, R74, R75, R100, R101, R387 to R407) -/

/-- R391, R393 to R397, R387, R389: an idle VF collapses, and is COLLAPSED, with its event, when caches and TLBs hold nothing of it, a W2 VF lending its quadrants; a waking one is ACTIVE again with the
rest banks out of self-refresh; banks of the rest range rest while they may; and CLR clears a monitor, whose samples of the same cycle count after it. -/
def Stated.Bivouac : Prop :=
  ∀ (s : State) (v : Nat),
    let m := Stated.asModule s
    let f := s.vf v
    let ripe : Prop := s.idle v = true ∧ f.bstate = .active ∧ f.idle ≤ f.timer
    (¬ripe → exec (.collapseBegin v) s = .next m) ∧
    (ripe → ∃ t : State, exec (.collapseBegin v) s = .next t ∧ t.mem = s.mem ∧ t.out = s.out ∧ (t.vf v).bstate = .collapsing ∧ (t.vf v).collapses = satInc f.collapses ∧ (t.vf v).timer = 0 ∧
      ∀ q < f.nwq, ((t.vf v).queues.get q VQueue.reset).noNotify = false ∧
        ((t.vf v).queues.get q VQueue.reset).availEvent = ((f.queues.get q VQueue.reset).readIdx + (f.queues.get q VQueue.reset).avail.length) % 65536) ∧
    (f.bstate ≠ .collapsing → exec (.collapseComplete v) s = .next m) ∧
    (f.bstate = .collapsing → ∃ t : State, exec (.collapseComplete v) s = .next t ∧ t.mem = s.mem ∧ (∀ e ∈ t.tlb, e.ctx ≠ v) ∧
      (∀ core, ∀ l ∈ t.icache.get core [], l.ctx ≠ v) ∧ ((t.vf v).bstate = .collapsed → ∀ e ∈ t.coh.l2, e.ctx ≠ v) ∧
      ((∀ e ∈ s.coh.l2, e.ctx ≠ v) → (t.vf v).bstate = .collapsed ∧
        (f.held = [] → f.evBufs ≠ [] → t.out.events = s.out.events ++ [(v, { kind := 3, cause := f.wclass, gen := f.gen, cluster := 0, launchId := 0, retries := 0 })]) ∧
        (f.wclass = 2 → ∀ b : Nat, f.lendvf.toNat = b → b ≠ v → b < 128 → (s.vf b).created = true → (s.vf b).bstate ≠ .collapsed →
          ∀ q ∈ s.ownQuads v, (∀ e ∈ (s.quad q).out, e.1 = b) → (t.quad q).lentTo = some b))) ∧
    (f.bstate ≠ .waking → exec (.wakeComplete v) s = .next m) ∧
    (f.bstate = .waking → (∀ q ∈ s.ownQuads v, (s.quad q).lentTo = none ∧ ∀ e ∈ (s.quad q).out, e.1 = v) →
      ∃ t : State, exec (.wakeComplete v) s = .next t ∧ t.mem = s.mem ∧ (t.vf v).bstate = .active ∧ (t.vf v).wakeAt = none ∧ (t.vf v).timer = 0 ∧
        (∀ k, (t.stack k).selfRefresh = false) ∧ (∀ q < f.nwq, ((t.vf v).queues.get q VQueue.reset).kicked = true) ∧
        ∀ a, f.wakeAt = some a → (t.vf v).lastwake = BitVec.ofNat 32 (min ((s.cycle - a + 1999) / 2000) (2 ^ 32 - 1))) ∧
    (∀ k : Nat, k < 16 → s.mayRest k = true → exec (.selfRefreshEntry k) s = .next (m.setStack k { s.stack k with selfRefresh := true })) ∧
    (∀ k : Nat, 16 ≤ k ∨ s.mayRest k = false → exec (.selfRefreshEntry k) s = .next m) ∧
    ∀ n : Nat, ∃ t : State, exec (.monitorClr n) s = .next t ∧ t = { m with monitors := t.monitors } ∧ (∀ k, k ≠ n → t.monitors.get k Monitor.reset = s.monitors.get k Monitor.reset) ∧
      let old := s.monitors.get n Monitor.reset
      let new := t.monitors.get n Monitor.reset
      new.en = old.en ∧ new.src = old.src ∧ new.target = old.target ∧ new.lane = old.lane ∧ new.dir = old.dir ∧
      (old.sampledAt ≠ s.cycle ∨ old.samples = [] → new.min = 0xFFFFFFFF ∧ new.max = 0 ∧ new.count = 0 ∧ new.buckets = []) ∧
      (old.sampledAt = s.cycle → new.count = BitVec.ofNat 64 old.samples.length)

/-- R391, R393 to R397, R387, R389: an idle VF collapses, and is COLLAPSED, with its event, when caches and TLBs hold nothing of it, a W2 VF lending its
quadrants; a waking one is ACTIVE again with the rest banks out of self-refresh; banks of the rest range rest while they may; and CLR clears a
monitor, whose samples of the same cycle count after it. That the COLLAPSED event comes with the state is read from R426 (log 67). How the steps of
R395 are divided between the events is the model's reading (log 44). -/
def Obligations.BivouacAndMonitors : Prop := Stated.Bivouac

/-- R399, R404 to R407, R74, R101: power and an out-of-band reset return every register to its reset value and keep host memory and the repair record; the stages of boot
in order, each failure with its FAILCODE; and the thermal responses. -/
def Stated.BootStages : Prop :=
  ∀ (s : State),
    let m := Stated.asModule s
    let b := s.boot
    let fails (n : Nat) : State := { m with boot := { b with stage := 15, failcode := n } }
    let fresh (t : State) : Prop := t = { State.reset with mem := t.mem, badBlocks := t.badBlocks, agenda := s.agenda, tick := s.tick + 1, nextId := s.nextId, out := s.out, boot := t.boot } ∧
      (s.mem.wf = true → ∀ a, 2 ^ 40 ≤ a → t.mem.read a = s.mem.read a)
    (∃ t : State, exec .powerOn s = .next t ∧ fresh t ∧
      t.boot = { Boot.reset with repair := b.repair, repairOld := b.repair.length, images := b.images, failcode := if b.tripped then 4 else 0 }) ∧
    (∃ t : State, exec .oobReset s = .next t ∧ fresh t ∧
      t.boot = { Boot.reset with repair := b.repair, repairOld := b.repair.length, images := b.images, railsOff := b.railsOff, tripped := b.tripped }) ∧
    (b.stage = 0 → b.romDone = false → exec .bootRom s = .next { m with boot := { b with stage := 1, romDone := true } }) ∧
    (b.stage ≠ 0 ∨ b.romDone = true → exec .bootRom s = .next m) ∧
    (b.stage ≠ 1 → exec .fwverify s = .next m) ∧
    (b.stage = 1 → (b.images.take 2).all (fun f => !f.passes) = true → exec .fwverify s = .next (fails 1)) ∧
    (b.stage = 1 → ∀ f rest : _, b.images = f :: rest → f.passes = true → exec .fwverify s = .next { m with boot :=
      { b with stage := 2, slot := false, ecdsaOk := true, lmsOk := true, attest := b.attest ++ [sha384 f.bytes] } }) ∧
    (b.stage = 1 → ∀ e f rest : _, b.images = e :: f :: rest → e.passes = false → f.passes = true → exec .fwverify s = .next { m with boot :=
      { b with stage := 2, slot := true, ecdsaOk := true, lmsOk := true, attest := b.attest ++ [sha384 f.bytes] } }) ∧
    (∀ ok : Bool, (b.stage ≠ 2 → exec (.meminit ok) s = .next m) ∧
      (b.stage = 2 → exec (.meminit ok) s = .next (if ok then { m with boot := { b with stage := 3 } } else fails 2)) ∧
      (b.stage ≠ 3 → exec (.fabricTrain ok) s = .next m) ∧ (b.stage = 3 → ok = false → exec (.fabricTrain ok) s = .next (fails 3)) ∧
      (b.stage = 3 → ok = true → ∃ t : State, exec (.fabricTrain ok) s = .next t ∧ t = { m with boot := { b with stage := 4 }, fabric := t.fabric } ∧
        ∀ (d : DirRef) (n : Nat) (l : FLane), Stated.realDir d → Stated.laneAt s d n = some l → Stated.laneAt t d n =
          some (let dark := b.planedark.getLsbD (n / 2); { st := if dark then .train else .active, fails := 0, darkWait := dark, exempt := dark, marginal := false }))) ∧
    (b.stage ≠ 4 → exec .repair s = .next m) ∧
    (b.stage = 4 → b.repair.take b.repairOld = [] → exec .repair s = .next { m with boot := { b with stage := 5 }, pf0 := { s.pf0 with ready := true }, pf1 := { s.pf1 with ready := true } }) ∧
    (b.stage = 4 → ∀ q n : Nat, n < 32 → b.repair.take b.repairOld = [(q, n)] → s.quad q = Quad.reset → ∃ t : State, exec .repair s = .next t ∧ t.pf0.ready = true ∧ t.pf1.ready = true ∧
      t.boot.stage = 5 ∧ t.quad q = { Quad.reset with steered := true, flane := n, failcnt := 1 }) ∧
    (b.throt = true → exec .junctionThrottle s = .next m) ∧
    (b.throt = false → ∃ t : State, exec .junctionThrottle s = .next t ∧ t.boot = { b with throt := true } ∧ ∀ v, t.ctx v = { s.ctx v with refill := (s.ctx v).refill / 2 }) ∧
    exec .junctionRecover s = .next { m with boot := { b with throt := false } } ∧
    exec .thermalTrip s = .next { m with boot := { b with railsOff := true, tripped := true } }

/-- R7, R74, R101, R399, R404 to R407: what module reset leaves, the two events it follows, the stages of boot, and the thermal responses. Register values
are those of the Reset columns; memory that lists nothing is the model's form (log 1), empty slots and repair record its choice (log 6), HALTED at
reset, that the rails stay off over an out-of-band reset, and PLANEDARK, its readings (logs 15, 20, 21), and device memory after a reset in a run free
(log 19). -/
def Obligations.ResetAndBoot : Prop := Stated.ResetLeaves ∧ Stated.BootStages

/-- R100, R101: a first failed lane of 0 to 31 is steered past once no run is in progress, lane 32 leaves no spare, a second failure takes the quadrant out of service; each is
counted and recorded; and GO retires a lane of an empty quadrant as if it had failed. -/
def Stated.SpareLanes : Prop :=
  ∀ (s : State) (q n : Nat) (pf : Fin 2),
    let m := Stated.asModule s
    let x := s.quad q
    let noted : Boot := if s.boot.repair.contains (q, n) then s.boot else { s.boot with repair := s.boot.repair ++ [(q, n)] }
    let known : Prop := (x.steered = true ∧ x.flane = n) ∨ x.steering = some n ∨ (x.sparebad = true ∧ n = 32)
    let second : Prop := x.steered = true ∨ x.steering.isSome = true ∨ x.sparebad = true
    (x.dead = true ∨ known ∨ 32 < n → exec (.laneFailure q n) s = .next m) ∧
    (x.dead = false → ¬known → ¬second → n < 32 → exec (.laneFailure q n) s =
      .next ({ m with boot := noted } |>.setQuad q { x with failcnt := min 255 (x.failcnt + 1), steering := some n })) ∧
    (x.dead = false → ¬known → ¬second → n = 32 → exec (.laneFailure q n) s =
      .next ({ m with boot := noted } |>.setQuad q { x with failcnt := min 255 (x.failcnt + 1), sparebad := true })) ∧
    (x.dead = false → ¬known → second → n ≤ 32 → ∃ t : State, exec (.laneFailure q n) s = .next t ∧ t.boot = noted ∧ (t.quad q).dead = true ∧
      (t.quad q).failcnt = min 255 (x.failcnt + 1)) ∧
    (∀ k, x.steering = some k →
      (x.holder.isSome = true → exec (.laneSteer q) s = .next m) ∧
      (x.holder = none → exec (.laneSteer q) s = .next (m.setQuad q { x with steering := none, steered := true, flane := k }))) ∧
    (x.steering = none → exec (.laneSteer q) s = .next m) ∧
    (let empty : Prop := ∀ T ∈ s.slotsOn q, ∀ g ∈ T.1.groups, g.slot ≠ T.2
     (n < 32 → x.dead = false → empty → ∃ t : State, exec (.laneGo pf q n) s = .next t ∧ exec (.laneFailure q n) s = .next t) ∧
     (32 ≤ n ∨ x.dead = true ∨ ¬empty → exec (.laneGo pf q n) s = .next m))

/-- R7, R71, R75, R101, R227, R228, R278, R316, R351, R361, R374, R379, R390, R393, R403: what a write to a register of a PF leaves it reading; through a VF, and at a reserved place,
a write is ignored. The clauses from 2^32 on are about configuration that the model places at offsets of its own (logs 18 and 70). -/
def Stated.RegisterWrites : Prop :=
  ∀ (s : State) (i : Fin 2) (x : BitVec 64),
    let m := Stated.asModule s
    let free : Prop := s.pf0.vfEnable = false ∧ s.pf1.vfEnable = false
    (∀ v off : Nat, off < 2 ^ 32 → exec (.registerWrite (.vf v) off x) s = .next m) ∧
    (∀ v : Nat, (s.vf v).enabled.isSome = true → exec (.registerWrite (.vf v) (2 ^ 34 + 48) 0) s = exec (.deviceStatusReset v) s) ∧
    (∀ off : Nat, off < 2 ^ 32 → off % 8 ≠ 0 → exec (.registerWrite (.pf i) off x) s = .next m) ∧
    (∃ t : State, exec (.registerWrite (.pf i) 0 x) s = .next t ∧ t.pf i = { s.pf i with caperr := (s.pf i).caperr && !(x.getLsbD 2 && (s.pf i).caperrAt != some s.cycle) }) ∧
    (∃ t : State, exec (.registerWrite (.pf i) 0x10 x) s = .next t ∧ (free → t.readReg (.pf i) 0x10 = x >>> 21 <<< 21) ∧ (¬free → t = m)) ∧
    (∀ v < 128, (s.vf v).enabled = some (1 - i) → exec (.registerWrite (.pf i) (0x1010 + 256 * v) x) s = .next m) ∧
    (∀ v < 128, (s.vf v).enabled ≠ some (1 - i) → exec (.registerWrite (.pf i) (0x1010 + 256 * v) x) s = exec (.registerWrite (.pf i) 0x10 x) s) ∧
    (∀ v q : Nat, q < 2 ^ 27 → (s.vf v).enabled = none → exec (.registerWrite (.vf v) (2 ^ 32 + 32 * q) x) s = .next m) ∧
    (∀ v q : Nat, q < 2 ^ 27 → (s.vf v).enabled.isSome = true → ∃ t : State, exec (.registerWrite (.vf v) (2 ^ 32 + 32 * q) x) s = .next t ∧
      t.readReg (.vf v) (2 ^ 32 + 32 * q) = x &&& 0xFFFF) ∧
    (∃ t : State, exec (.registerWrite (.pf i) (2 ^ 34 + 24) x) s = .next t ∧ t.readReg (.pf i) (2 ^ 34 + 24) = x &&& 0xFFFFFFFF) ∧
    (∀ v < 128, ∃ t : State, exec (.registerWrite (.pf i) (0x10000 + 128 * v) x) s = .next t ∧ t.readReg (.pf i) (0x10000 + 128 * v) = x &&& 0xFFFFFFFFFF001) ∧
    (∀ v < 128, ∃ t : State, exec (.registerWrite (.pf i) (0x10000 + 128 * v + 8) x) s = .next t ∧ t.readReg (.pf i) (0x10000 + 128 * v + 8) = x &&& 0x1FFFFFFFFFFFFFF) ∧
    (∀ v < 128, ∃ t : State, exec (.registerWrite (.pf i) (0x10000 + 128 * v + 0x18) x) s = .next t ∧ t.readReg (.pf i) (0x10000 + 128 * v + 0x18) = x &&& 0xFFFF) ∧
    (∀ k < 16, ∃ t : State, exec (.registerWrite (.pf i) (0x20000 + 256 * k) x) s = .next t ∧ t.readReg (.pf i) (0x20000 + 256 * k) = x &&& 0x1FF) ∧
    (∃ t : State, exec (.registerWrite (.pf i) 0x21000 x) s = .next t ∧ (free → t.readReg (.pf i) 0x21000 = x &&& 0xFFFFE00000) ∧ (¬free → t = m)) ∧
    (∃ t : State, exec (.registerWrite (.pf i) 0x21008 x) s = .next t ∧ (free → t.readReg (.pf i) 0x21008 = x &&& 0x7FFFF) ∧ (¬free → t = m)) ∧
    (∀ v < 128, ∃ t : State, exec (.registerWrite (.pf i) (0x22000 + 8 * v) x) s = .next t ∧
      t.readReg (.pf i) (0x22000 + 8 * v) = (x &&& 7) ||| (s.readReg (.pf i) (0x22000 + 8 * v) &&& ~~~7)) ∧
    (∀ v < 128, x.getLsbD 4 = false → ∃ t : State, exec (.registerWrite (.pf i) (0x23000 + 8 * v) x) s = .next t ∧
      t.readReg (.pf i) (0x23000 + 8 * v) = (x &&& 7) ||| (s.readReg (.pf i) (0x23000 + 8 * v) &&& ~~~7)) ∧
    (∀ v < 128, ∃ t : State, exec (.registerWrite (.pf i) (0x24000 + 64 * v + 0x38) x) s = .next t ∧ t.readReg (.pf i) (0x24000 + 64 * v + 0x38) = x &&& 1) ∧
    (∀ v < 128, x.getLsbD 1 = true ∧ x.getLsbD 0 = true → exec (.registerWrite (.pf i) (0x24000 + 64 * v + 0x30) x) s = exec (.trapEnd v) s ∧ ∃ t, exec (.trapEnd v) s = .next t) ∧
    (∀ v < 128, x = 8 → exec (.registerWrite (.pf i) (0x26000 + 16 * v) x) s = .next (((m.run v)).preempt v)) ∧
    (∀ v < 128, ∃ t : State, exec (.registerWrite (.pf i) (0x27000 + 32 * v) x) s = .next t ∧ t.readReg (.pf i) (0x27000 + 32 * v) = x &&& 0x1FFFFFFFFFFF000) ∧
    (∀ v < 128, ∃ t : State, exec (.registerWrite (.pf i) (0x27000 + 32 * v + 8) x) s = .next t ∧ t.readReg (.pf i) (0x27000 + 32 * v + 8) = x &&& 0x1FFFFFF) ∧
    (∃ t : State, exec (.registerWrite (.pf i) 0x28000 x) s = .next t ∧ (¬free → t = m) ∧
      (free → ((x &&& 0xFFFFFC0000000).toNat + 2 ^ 31 ≤ 2 ^ 40 → t.readReg (.pf i) 0x28000 = x &&& 0xFFFFFC0000000) ∧ (2 ^ 40 < (x &&& 0xFFFFFC0000000).toNat + 2 ^ 31 → t = m))) ∧
    (∀ v < 128, ∃ t : State, exec (.registerWrite (.pf i) (0x2B000 + 16 * v) x) s = .next t ∧
      t.readReg (.pf i) (0x2B000 + 16 * v) = (x &&& 0xFF4) ||| (s.readReg (.pf i) (0x2B000 + 16 * v) &&& 3)) ∧
    (let w := (x &&& 0xFFF).toNat
     (1200 ≤ w ∧ w ≤ 2800 → exec (.registerWrite (.pf i) 0x2C008 x) s = .next { m with boot := { s.boot with pwrlim := w } }) ∧
     (w < 1200 ∨ 2800 < w → exec (.registerWrite (.pf i) 0x2C008 x) s = .next m)) ∧
    ∀ q < 1024, (x.getLsbD 21 = false → exec (.registerWrite (.pf i) (0x30000 + 8 * q) x) s = .next m) ∧
      (x.getLsbD 21 = true → exec (.registerWrite (.pf i) (0x30000 + 8 * q) x) s = exec (.laneGo i q ((x >>> 16 &&& 31).toNat)) s ∧
        ∃ t, exec (.registerWrite (.pf i) (0x30000 + 8 * q) x) s = .next t)

/-- R7, R71, R75, R100, R101, R227, R228, R278, R316, R351, R361, R374, R379, R390, R393, R403: lanes that fail or are retired, and writes to registers;
what stands at offsets from 2^32 on is named by the model (log 18). Dropped low bits of GBBASE, the names of configuration registers and repeated lane
failures are the model's (logs 22, 18, 38, 46 and 70). -/
def Obligations.LanesAndRegisters : Prop := Stated.SpareLanes ∧ Stated.RegisterWrites
end

