-- ==== Sys2Proof/Tests/Slice0.lean ====
section
/-! SUPPORT. The model's own tests: the encoding checks refuse what breaks them, words of the spec's encodings are read, single steps give the spec's results, and for every
statement with hypotheses a state and operands that meet them. Expected results are the spec's examples or worked by hand from its rules. -/
namespace Sys2Proof.Tests
open Sys2Proof Sys2Proof.Machine

set_option maxRecDepth 100000
set_option exponentiation.threshold 4096

/-! ### Encoding checks (R112 to R119, R280, R284) -/

/-- No guard, no operand, MOD 0 and IMM 0. -/
def plain : Fields := { er := false, pg := { neg := false, p := 7 }, d := .none, a := .none, b := .none, c := .none, mod := 0, imm := 0 }

/-- The reason found in an instruction word by an issuer. -/
def reason (k : IssueCtx) (i : Instr) : Option Ill := match i.form with | some (fm, f) => illegal k fm f | none => none

theorem test_wf_accepts : (Instr.nop plain).bad = none ∧ (Instr.vadd { plain with d := .v 3, a := .v 1, b := .v 2 }).bad = none := by decide
theorem test_wf_role : reason (freeCtx .mtx) (.nop plain) = some .role := by decide
theorem test_wf_guard : (Instr.nop { plain with pg := { neg := true, p := 7 } }).bad = some (.word .guard) := by decide
theorem test_wf_guard_of_group : (Instr.fence { plain with pg := { neg := false, p := 1 } }).bad = some (.word .guard) := by decide
theorem test_wf_spec : (Instr.vadd { plain with d := .const 3, a := .v 1, b := .v 2 }).bad = some (.word .spec) := by decide
theorem test_wf_spec_reserved : (Instr.vadd { plain with d := .v 3, a := .reserved 0x3FF, b := .v 2 }).bad = some (.word .spec) := by decide
theorem test_wf_reg : reason { role := .vector, regs := 8, rings := 8, matrix := false } (.vadd { plain with d := .v 8, a := .v 1, b := .v 2 }) = some .reg := by decide
theorem test_wf_reg_pair : (Instr.vadd { plain with d := .v 3, a := .v 2, b := .v 4, mod := 40 }).bad = some (.word .reg) := by decide
theorem test_wf_mod : (Instr.sadd { plain with d := .s 3, a := .s 1, b := .s 2, mod := 3 }).bad = some (.word .mod) := by decide
theorem test_wf_imm : (Instr.nop { plain with imm := 1 }).bad = some (.word .imm) := by decide
theorem test_wf_imm_slot : (Instr.bra { plain with imm := 5 }).bad = some (.word .imm) := by decide
theorem test_wf_prefix_run_end : (Instr.rep { plain with er := true }).bad = some (.word .pfx) := by decide
theorem test_wf_hut_register : (Instr.hadd 0 24 0 0).bad = some (.hut .register) := by decide
theorem test_wf_hut_type : (Instr.hshl 0 0 0 0).bad = some (.hut .type) := by decide
theorem test_wf_hut_field : (Instr.hloop false false 0 4).bad = some (.hut .field) := by decide

/-! ### Words written out from the spec's encodings (R110, R113, R117, R118, R280), one of every family -/

/-- Vector: CLS 000, OP 0x013, PG 0111, D 0x301, A 0x001, B 0x244, C 0x3E0, MOD 0, IMM 5 (the example of R167). -/
theorem test_decode_vsetp : decodeWord (0x004DF010#32 ++ 0x0644F800#32 ++ 0x00000005#32) =
    some (.vsetp { plain with d := .p 1, a := .v 1, b := .const 68, imm := 5 }) := by decide
/-- Scalar: CLS 001, OP 0x000, PG 0111, D 0x103, A 0x241, B 0x242, C 0x3E0. -/
theorem test_decode_sadd : decodeWord (0b0#1 ++ 0b001#3 ++ 0x000#10 ++ 0b0111#4 ++ 0x103#10 ++ 0x241#10 ++ 0x242#10 ++ 0x3E0#10 ++ 0#6 ++ 0#32) =
    some (.sadd { plain with d := .s 3, a := .const 65, b := .const 66 }) := by decide
/-- Memory: the example of R246. -/
theorem test_decode_ld : decodeWord (0x2001C08D#32 ++ 0x0801F800#32 ++ 0x00001002#32) = some (.ld { plain with d := .v 8, a := .b 2, b := .v 1, imm := 0x1002 }) := by decide
/-- Control: the loop branch of R145's example, PG 0001. -/
theorem test_decode_bra : decodeWord (0x30047E0F#32 ++ 0x83E0F800#32 ++ 0xFFFFFFFA#32) = some (.bra { plain with pg := { neg := false, p := 1 }, imm := 0xFFFFFFFA }) := by decide
/-- Asynchronous: the porter's `acopy`. -/
theorem test_decode_acopy : decodeWord (0x4001F214#32 ++ 0x0640F800#32 ++ 0x81000000#32) =
    some (.acopy { plain with d := .h 1, a := .s 1, b := .const 64, imm := 0x81000000 }) := by decide
/-- Matrix: the `mmac` of the chapter's example, ECLASS 3 in MOD. -/
theorem test_decode_mmac : decodeWord (0x5009F609#32 ++ 0x02409098#32 ++ 0x00000004#32) =
    some (.mmac { plain with d := .a 0, a := .const 64, b := .const 64, c := .const 66, mod := 0x18, imm := 4 }) := by decide
/-- The three forms of `mset` by MOD[1:0]: MTX opcode 0x00A with no operand and MOD 1 writes an EXP (R205). -/
theorem test_decode_mset_bexp : decodeWord (0b0#1 ++ 0b101#3 ++ 0x00A#10 ++ 0b0111#4 ++ 0x3E0#10 ++ 0x3E0#10 ++ 0x3E0#10 ++ 0x3E0#10 ++ 1#6 ++ 0x0302#32) =
    some (.msetBexp { plain with mod := 1, imm := 0x302 }) := by decide
/-- System: the fence of the chapter's table. -/
theorem test_decode_fence : decodeWord (0x6081FE0F#32 ++ 0x83E0F83B#32 ++ 0#32) = some (.fence { plain with mod := 0x3B }) := by decide
/-- Prefix: the `rep` of R154's example. -/
theorem test_decode_rep : decodeWord (0x7001FE0F#32 ++ 0x83E0F807#32 ++ 3#32) = some (.rep { plain with mod := 7, imm := 3 }) := by decide
/-- Huts: OP 0x04, T 00, D 1, A 0, B 24, C 1, M 0. -/
theorem test_decode_hfma : decodeHut (0b000100#6 ++ 0b00#2 ++ 1#5 ++ 0#5 ++ 24#5 ++ 1#5 ++ 0#4) = some (.hfma 0 1 0 24 1) := by decide
theorem test_decode_reserved : decodeWord (0b0#1 ++ 0b000#3 ++ 0x026#10 ++ 0#82) = none ∧ decodeHut 0x64000000 = none ∧ decodeHut 1 = none := by decide
/-- The bytes of a slot come least significant first: the `vadd` of the spec's example (R5, R102). -/
theorem test_decode_slot : decodeSlot [0, 0, 0, 0, 0, 0xF8, 0x02, 0x04, 0x30, 0xC0, 0x01, 0x00] = some (.vadd { plain with d := .v 3, a := .v 1, b := .v 2 }) := by decide
theorem test_encode_vadd : encode (.vadd { plain with d := .v 3, a := .v 1, b := .v 2 }) = some [0, 0, 0, 0, 0, 0xF8, 0x02, 0x04, 0x30, 0xC0, 0x01, 0x00] := by decide
theorem test_table_word : decodeTableWord 96 0x0001C0300402F80000000000 = some (.vadd { plain with d := .v 3, a := .v 1, b := .v 2 }) ∧
    decodeTableWord 32 0x60000000 = some .hend := by decide

/-! ### States the tests start from -/

/-- The team of the loaded program (log 9). -/
def team0 : TeamRef := { vf := 0, launch := 1, cluster := 0, cteam := 0 }
/-- Its group about to execute, with every thread in SUB. -/
def ready : State :=
  let s := State.reset.withFetchWord 96 0x3001FE0F83E0F80000000000
  { s with cur := .group 0 team0 0
           clusters := s.clusters.map (fun c => { c with teams := c.teams.map (fun t => { t with threads := t.threads.map (fun x => { x with st := .sub }) }) }) }
/-- The porter group, the matrix stream and hut 0 about to execute. -/
def readyPorter : State := { State.reset.withFetchWord 96 0x4001F2140640F80081000000 with cur := .group 0 team0 0 }
def readyStream : State := { State.reset.withFetchWord 96 0x5001FE0F83E0F80000000000 with cur := .seq 0 team0 0 }
def readyHut : State := { State.reset.withFetchWord 32 0 with cur := .hut 0 }

/-- Changes of every team, group, thread and stream. -/
def onTeams (h : Team → Team) (s : State) : State := { s with clusters := s.clusters.map (fun c => { c with teams := c.teams.map h }) }
def onGroups (h : Group → Group) : State → State := onTeams (fun t => { t with groups := t.groups.map h })
def onThreads (h : Thread → Thread) : State → State := onTeams (fun t => { t with threads := t.threads.map h })
def onSeqs (h : Seq → Seq) : State → State := onTeams (fun t => { t with seqs := t.seqs.map h })
def onCtx (h : Ctx → Ctx) (s : State) : State := s.setCtx 0 (h (s.ctx 0))
/-- s(n), v(n) and p(n) given a value, in the group and in every lane. -/
def withS (n : Nat) (x : DWord) : State → State := onGroups (fun g => g.setS n { val := x, poison := none })
def withV (n : Nat) (x : Nat → Word) : State → State := onThreads (fun t => t.setV n { val := x t.lane, poison := none })
def withPoison (n : Nat) (k : PoisonKind) : State → State := onGroups (fun g => g.setS n { val := 0, poison := some k })

/-- An instruction issues and a condition on its context holds. -/
def issues (s : State) (i : Instr) (c : GCtx → Bool) : Bool := match s.issuing i with | some g => !lastSlot g.pc && c g | none => false
def streams (s : State) (i : Instr) (c : SCtx → Bool) : Bool := match s.seqIssuing i with | some g => !lastSlot g.seq.pc && c g | none => false
def always : GCtx → Bool := fun _ => true

/-- What a step of an instruction leaves: of the state, of the group, and of a lane. -/
def after {α : Type} (i : Instr) (s : State) (h : State → α) : Option α := match exec i s with | .next t => some (h t) | _ => none
def grp (t : State) : Option Group := (t.team? team0).bind (fun x => x.group? 0 0)
def lane (n : Nat) (t : State) : Option Thread := (t.team? team0).bind (fun x => x.thread? 0 n)
def sAfter (n : Nat) (i : Instr) (s : State) : Option (Option DWord) := after i s (fun t => (grp t).map (fun g => (g.sreg n).val))
def vAfter (l n : Nat) (i : Instr) (s : State) : Option (Option Word) := after i s (fun t => (lane l t).map (fun x => (x.vreg n).val))

/-! ### Single steps against the spec's examples -/

/-- R140: `sdiv` of -7 by 2 is -3, and `srem` is -1; by 0 the quotient is -1. -/
theorem test_sdiv : sAfter 3 (.sdiv { plain with d := .s 3, a := .const 57, b := .const 66 }) ready = some (some (-3)) := by decide
theorem test_srem : sAfter 3 (.srem { plain with d := .s 3, a := .const 57, b := .const 66 }) ready = some (some (-1)) := by decide
theorem test_sdiv_zero : sAfter 3 (.sdiv { plain with d := .s 3, a := .const 71, b := .const 64 }) ready = some (some 0xFFFFFFFFFFFFFFFF) := by decide
/-- R141: the field at 60 of length 8 of 0xF000_0000_0000_0000 is 15, and -1 signed. -/
theorem test_sbfe : sAfter 3 (.sbfe { plain with d := .s 3, a := .s 4, b := .s 5, c := .const 72 }) (withS 5 60 (withS 4 0xF000000000000000 ready)) = some (some 15) := by decide
theorem test_sbfe_signed : sAfter 3 (.sbfe { plain with d := .s 3, a := .s 4, b := .s 5, c := .const 72, mod := 1 }) (withS 5 60 (withS 4 0xF000000000000000 ready)) = some (some (-1)) := by decide
/-- R143: the two steps of the 64-bit constant. -/
theorem test_smov : sAfter 8 (.smov { plain with d := .s 8, a := .imm true, imm := 0x89ABCDEF }) ready = some (some 0x89ABCDEF) := by decide
theorem test_smovhi : sAfter 8 (.smovhi { plain with d := .s 8, imm := 0x01234567 }) (withS 8 0x89ABCDEF ready) = some (some 0x0123456789ABCDEF) := by decide
/-- R114: a write to s0 has no effect. -/
theorem test_s0 : sAfter 0 (.sadd { plain with d := .s 0, a := .const 65, b := .const 66 }) ready = some (some 0) := by decide
/-- R139: `.sat` stops at the greatest signed value. -/
theorem test_sadd_sat : sAfter 3 (.sadd { plain with d := .s 3, a := .s 4, b := .const 65, mod := 1 }) (withS 4 0x7FFFFFFFFFFFFFFF ready) = some (some 0x7FFFFFFFFFFFFFFF) := by decide
/-- 1.5 + 2.25 is 3.75, and 1 / 3 under RNE is 0x3EAAAAAB (R51). -/
theorem test_vadd_f32 : vAfter 31 3 (.vadd { plain with d := .v 3, a := .v 1, b := .v 2 }) (withV 2 (fun _ => 0x40100000) (withV 1 (fun _ => 0x3FC00000) ready)) = some (some 0x40700000) := by decide
theorem test_vdiv_f32 : vAfter 5 3 (.vdiv { plain with d := .v 3, a := .const 65, b := .const 67 }) ready = some (some 0x3EAAAAAB) := by decide
/-- R163: the packed sum wraps in each half by itself. -/
theorem test_vadd_i16x2 : vAfter 0 3 (.vadd { plain with d := .v 3, a := .v 1, b := .v 2, mod := 56 }) (withV 2 (fun _ => 0x00010001) (withV 1 (fun _ => 0x7FFFFFFF) ready)) = some (some 0x80000000) := by decide
/-- R157: a lane whose guard is false keeps its register. -/
theorem test_guard : vAfter 4 3 (.vmov { plain with pg := { neg := true, p := 1 }, d := .v 3, a := .const 65, mod := 32 }) (onThreads (fun x => x.setPred 1 true) ready) = some (some 0) := by decide
/-- R169: the reciprocal of 0 is infinity, with DZ. -/
theorem test_vrcp_zero : after (.vrcp { plain with d := .v 3, a := .v 1 }) ready (fun t => (lane 0 t).map (fun x => ((x.vreg 3).val, x.fstat))) = some (some (0x7F800000, 2)) := by decide
/-- R180: the ballot of lanes below 4, and a butterfly shuffle with the neighbour. -/
theorem test_vballot : vAfter 9 3 (.vballot { plain with d := .v 3, a := .p 1, mod := 32 }) (onThreads (fun x => x.setPred 1 (decide (x.lane < 4))) ready) = some (some 15) := by decide
theorem test_vshfx : vAfter 6 3 (.vshfx { plain with d := .v 3, a := .v 1, b := .const 65, mod := 32 }) (withV 1 (fun l => BitVec.ofNat 32 l) ready) = some (some 7) := by decide
/-- R103: slot 4 is followed by slot 0 of the next line. -/
theorem test_next_seq : nextSeq 48 = 64 ∧ nextSeq 0 = 12 := by decide
/-- R118: `nop` changes the program counter. -/
theorem test_nop : after (.nop plain) ready (fun t => (lane 31 t).map (·.pc)) = some (some 12) := by decide
/-- R145: one line back at slot 2 from line 1. -/
theorem test_target : Stated.target 64 0xFFFFFFFA = 24 := by decide
/-- R348, R361: the software trap records its code and the address of the next instruction. -/
theorem test_trap : after (.trap { plain with imm := 7 }) (onCtx (fun c => { c with trap := { c.trap with hold := true } }) ready)
    (fun t => let r := (t.ctx 0).trap; (r.valid, r.cause, r.code, r.pc)) = some (true, 0x38, 7, 12) := by decide
/-- R119: a reserved MOD value traps with ILLMOD, for all lanes. -/
theorem test_illegal : after (.sadd { plain with d := .s 3, a := .s 1, b := .s 2, mod := 3 }) (onCtx (fun c => { c with trap := { c.trap with hold := true } }) ready)
    (fun t => let r := (t.ctx 0).trap; (r.valid, r.cause, r.lanes)) = some (true, 0x15, 0xFFFFFFFF) := by decide
/-- R340: the lanes of one scratchpad atomic at one word return 0, 1, 2, … in lane order (the spec's example of two groups). -/
theorem test_atomic_lanes : (atomRun .add false 4 (some 2) [] ((List.range 3).map (fun l => { addr := 0, val := 1, cmp := 0, block := 0, lane := l }))).1.nat 0 4 = 3 := by decide
/-- R336: the sum of the infinities is the quiet NaN. -/
theorem test_atomic_fadd : atomFadd 0x7F800000 0xFF800000 = 0x7FC00000 ∧ atomFadd 0x80000000 0x80000000 = 0x80000000 := by decide
/-- R61: a sum of products by the residue channels. -/
theorem test_residue : residueSum [(127, 127), (-127, 127), (3, -5)] = -15 := by decide
/-- R201: the second of two arrivals completes a phase. -/
theorem test_arrival : Stated.arrived { Barrier.start 2 with cnt := 1 } 0 = { Barrier.start 2 with phase := true } := by decide
/-- R273: the object of `barinit a, 1` completes at one arrival with PEND 0. -/
theorem test_barinit : after (.barinit { plain with a := .const 64, b := .const 65 }) readyPorter (fun t => (t.team? team0).map (fun x => x.spad.nat 8 2)) = some (some 1) := by decide
/-- R281: `hadd.i32`, `hseti.f32 1`, and `hsum` of eight ones. -/
theorem test_hadd : after (.hadd 1 2 0 1) { readyHut with huts := readyHut.huts.map (fun (e : Nat × Hut) => (e.1, { e.2 with x := [List.replicate 8 5, List.replicate 8 7] ++ List.replicate 22 (List.replicate 8 0) })) }
    (fun t => (t.hut 0).x.getD 2 []) = some (List.replicate 8 12) := by decide
theorem test_hseti : after (.hseti 0 3 1) readyHut (fun t => (t.hut 0).x.getD 3 []) = some (List.replicate 8 0x3F800000) := by decide
/-- R284: `hloop.i0 3, 2` at index 0 enters its body, words 1 to 2. -/
theorem test_hloop : after (.hloop false false 3 2) readyHut (fun t => ((t.hut 0).pc, (t.hut 0).loops.map (fun l => (l.first, l.last, l.count)))) = some (1, [(1, 2, 3)]) := by decide
/-- R189: `mset` of the constant 5, and `mloop` at 1, which goes on. -/
theorem test_mset : after (.mset { plain with d := .s 3, a := .const 69 }) readyStream (fun t => (t.team? team0).map (fun x => x.seqs.map (fun q => (q.s.getD 3 0, q.pc)))) = some (some [(5, 12)]) := by decide
theorem test_mloop : after (.mloop { plain with d := .s 3 }) (onSeqs (fun q => { q with s := q.s.set 3 1 }) readyStream)
    (fun t => (t.team? team0).map (fun x => x.seqs.map (fun q => (q.s.getD 3 9, q.pc)))) = some (some [(0, 12)]) := by decide

/-! ### Witnesses: what the statements about program instructions assume can hold (each theorem gives a state and operands for each clause) -/

def vop : Fields := { plain with d := .v 3, a := .v 1, b := .v 2 }
def sop : Fields := { plain with d := .s 3, a := .s 1, b := .s 2 }
def vI32 : Fields := { vop with mod := 24 }

theorem has_scalar_arithmetic : [Instr.sadd, .ssub, .smul, .smulhi, .sdiv, .srem, .smin, .smax, .sand, .sor, .sxor, .sshl, .sshr, .ssra, .srotl].all (fun mk =>
    (Stated.scalarOp (mk sop)).isSome && issues ready (mk sop) always && issues ready (mk { sop with d := .s 0, a := .const 0, b := .imm true }) always) = true := by decide
theorem has_scalar_one_source : [Instr.sabs, .snot, .spopc, .sclz, .smov].all (fun mk =>
    (Stated.scalarOp (mk { sop with b := .none })).isSome && issues ready (mk { sop with d := .s 63, b := .none }) always) = true := by decide
theorem has_scalar_fields :
    (issues ready (.sbfe { sop with c := .s 3 }) always && issues ready (.sbfi { sop with c := .const 127 }) always && issues ready (.ssel { sop with c := .s 0 }) always &&
      issues ready (.smovhi { plain with d := .s 3, imm := 0xFFFFFFFF }) always &&
      issues ready (.sget { sop with a := .v 31, b := .const 95 }) (fun g => (g.lanes.find? (fun y => g.virt y == (g.once g.f.b).1)).isSome && !g.verified) &&
      issues ready (.sget { sop with a := .v 30, b := .const 96, mod := 1 }) (fun g => g.lanes.all (fun y => g.virt y != (g.once g.f.b).1)) &&
      issues ready (.saddr { sop with a := .b 15, b := .s 1, c := .s 2 }) always && issues (withPoison 1 .format ready) (.saddr { sop with a := .b 1, b := .s 1, c := .const 57 }) (fun g => (g.once g.f.b).2 == some .format && (g.once g.f.c).2.isNone && decide ((BitVec.ofNat 64 (g.once g.f.c).1).toInt < 0)) && issues ready (.sfirst { plain with d := .s 3, a := .p 7, mod := 1 }) always) = true := by decide
theorem has_scalar_compare :
    (match (Instr.scmp { sop with d := .p 1, mod := 14 }).form, ready.gctx? with
      | some (fm, f), some g => g.repNow.isNone && decide (6 ≤ f.mod.toNat % 8) && (illegal g.issueCtx fm { f with mod := f.mod &&& 8 }).isNone && ready.quiet g.site
      | _, _ => false) = true ∧
    (issues ready (.scmp { sop with d := .p 7, mod := 13 }) (fun g => (g.once g.f.a).2.isNone && (g.once g.f.b).2.isNone) &&
      issues (withPoison 1 .bounds ready) (.scmp { sop with d := .p 1 }) (fun g => (worst (g.once g.f.a).2 (g.once g.f.b).2).isSome && g.s.quiet g.site)) = true := by decide

/-- A vector instruction issues, with its drain-port entry where it needs one. -/
def vIssues (s : State) (i : Instr) (c : GCtx → Bool) : Bool := issues s i (fun g => match g.takeEntry with | some g' => c g' | none => false)

theorem has_vector_frame :
    (vIssues ready (.vadd vop) always &&
      vIssues ready (.vsetp { vop with d := .p 7, mod := 0 })
        (fun g => (worstLanes (g.actives.map (fun t => (t, worst (g.typed t g.f.type g.f.a).2 (g.typed t g.f.type g.f.b).2)))).isNone)) = true := by decide
theorem has_vector_integer : [Instr.vadd, .vsub, .vmul, .vmulhi, .vdiv, .vrem, .vmin, .vmax, .vavg, .vand, .vor, .vxor, .vshl, .vshr, .vsra, .vrotl].all (fun mk =>
    (Stated.intOp (mk vI32)).isSome && vIssues ready (mk vI32) (fun g => decide (3 ≤ g.f.type)) && vIssues ready (mk { vI32 with mod := 56 }) always) = true := by decide
theorem has_vector_integer_three : [Instr.vmad, .vclamp, .vbfe, .vfsh].all (fun mk => vIssues ready (mk { vI32 with c := .v 31 }) always) = true := by decide
theorem has_vector_integer_one : [Instr.vabs, .vneg, .vnot, .vpopc, .vclz, .vbrev].all (fun mk => vIssues ready (mk { vI32 with b := .none, a := .const 0 }) always) = true := by decide
theorem has_vector_select :
    (vIssues ready (.vsad { vI32 with c := .v 4 }) always && vIssues ready (.vdot4 { vI32 with c := .v 4, mod := 33 }) always &&
      vIssues ready (.vlut3 { vI32 with c := .v 4, imm := 255 }) always && vIssues ready (.vbfi { vI32 with c := .const 127 }) always &&
      vIssues ready (.vbytesel { vI32 with c := .v 4, mod := 32 }) always && vIssues ready (.vsel { vI32 with c := .p 7 }) always &&
      vIssues ready (.vmov { vI32 with b := .none }) always &&
      vIssues ready (.vsetp { vI32 with d := .p 7, c := .p 1, imm := 0x35 })
        (fun g => decide (3 ≤ g.f.type) && (worstLanes (g.actives.map (fun t => (t, worst (g.typed t g.f.type g.f.a).2 (g.typed t g.f.type g.f.b).2)))).isNone)) = true := by decide
theorem has_vector_float : [Instr.vadd, .vsub, .vmul, .vdiv, .vmin, .vmax, .vcpsgn].all (fun mk =>
    (Stated.floatOp (mk vop)).isSome && vIssues ready (mk vop) (fun g => decide (g.f.type ≤ 2)) && vIssues ready (mk { vop with mod := 16 }) (fun g => decide (g.f.type ≤ 2))) = true := by decide
theorem has_vector_float_one : [Instr.vabs, .vneg, .vsqrt, .vrint, .vfrac, .vclass].all (fun mk =>
    (Stated.floatOp (mk { vop with b := .none })).isSome && vIssues ready (mk { vop with b := .none }) (fun g => decide (g.f.type ≤ 2))) = true := by decide
theorem has_vector_float_three : [Instr.vfma, .vfms, .vfnma].all (fun mk => vIssues ready (mk { vop with c := .v 4, mod := 12 }) always) = true := by decide
theorem has_elementary : [Instr.vrcp, .vrsqrt, .vsqrt, .vexp2, .vlog2, .vsin, .vcos, .vtanh].all (fun mk =>
    vIssues ready (mk { vop with b := .none }) (fun g => g.f.type == 0 && (Stated.specialResult (mk g.f) 0).isSome)) = true := by decide
theorem has_lane_moves :
    (vIssues ready (.vballot { plain with d := .v 3, a := .p 7, mod := 33 }) always && vIssues ready (.vpoll { plain with d := .p 1, a := .p 7, mod := 7 }) always &&
      vIssues ready (.vmatch { vI32 with b := .none }) always &&
      [Instr.vshfl, .vshfup, .vshfdn, .vshfx].all (fun mk => vIssues ready (mk { vI32 with b := .const 95 }) (fun g => g.lanes.all (fun x => (g.typed x 4 g.f.b).2.isNone)))) = true := by decide
/-- The amount of a shuffle may be a v-register. -/
theorem has_lane_moves_register : vIssues ready (.vshfl { vI32 with b := .v 7 }) (fun g => !g.actives.isEmpty && g.actives.all (fun x => (g.typed x 4 g.f.b).2.isNone)) = true := by decide
theorem has_lane_sums : [0, 24, 40, 56].all (fun (m : BitVec 6) => [Instr.vredadd, .vredmin, .vredmax, .vscan].all (fun mk =>
    vIssues ready (mk { vI32 with d := .v 4, a := .v 2, b := .none, mod := m }) always)) = true := by decide
theorem has_float_products :
    (vIssues ready (.vdot2 { vop with c := .v 4, mod := 8 }) always && vIssues ready (.vdot2 { vop with c := .v 4, mod := 57 }) always && vIssues ready (.vldexp vop) always &&
      vIssues ready (.vgetexp { vop with b := .none, mod := 16 }) always &&
      vIssues ready (.vsetp { vop with d := .p 1, imm := 6 }) (fun g => g.f.type == 0 &&
        (worstLanes (g.actives.map (fun t => (t, worst (g.typed t g.f.type g.f.a).2 (g.typed t g.f.type g.f.b).2)))).isNone)) = true := by decide
theorem has_blocks :
    (vIssues ready (.vcvt { vop with b := .none, imm := 3 }) (fun g => !decide (g.f.type = 0 ∧ g.f.imm.toNat % 16 = 2 ∧ g.f.rnd = 5)) &&
      vIssues ready (.vcvt { vop with c := .v 4, mod := 5, imm := 0x10002 }) (fun g => decide (g.f.type = 0 ∧ g.f.imm.toNat % 16 = 2 ∧ g.f.rnd = 5)) &&
      vIssues ready (.vcvtp { vop with mod := 8 }) always && [Instr.vqn8, .vqn4].all (fun mk => vIssues ready (mk vop) always && vIssues ready (mk { vop with b := .imm true, imm := 255 }) always) &&
      vIssues ready (.vbpack { vop with a := .v 4, imm := 0x11 }) always && vIssues ready (.vbunpack { vop with imm := 7 }) always && vIssues ready (.vbscale { vop with b := .none, imm := 0x20 }) always &&
      vIssues ready (.vbzero { plain with d := .v 3, mod := 32, imm := 0x31 }) always && vIssues ready (.vbfmt { vop with b := .none, mod := 32 }) always &&
      vIssues ready (.vcairn { vop with mod := 32, imm := 7 }) always) = true := by decide

/-! Memory: a page of device memory at 2 MiB and a page of tensor blocks behind it, both mapped from 0 and cached by core 0; a record of 4-byte elements in b1 and one
of tensor blocks in b2. -/
def recWords : BitVec 256 := BitVec.ofNat 256 (4096 * 2 ^ 64 + 2 * 2 ^ 128 + 2 ^ 141)
def recBlocks : BitVec 256 := BitVec.ofNat 256 (4096 + 4096 * 2 ^ 64 + 6 * 2 ^ 128 + 2 ^ 140 + 2 ^ 141)
def mapped (s : State) : State :=
  onGroups (fun g => { g with b := (g.b.set 1 { bits := recWords, poison := none, reason := 0 }).set 2 { bits := recBlocks, poison := none, reason := 0 } })
    (onCtx (fun c => { c with en := true })
      { s with tlb := [{ unit := 0, ctx := 0, base := 0, size := 4096, pte := 0x200307, leaf := 0x100000 },
                       { unit := 0, ctx := 0, base := 4096, size := 4096, pte := 0x201347, leaf := 0x100008 }]
               mem := (s.mem.writeBytes 0x200000 (List.replicate 64 0xA5)).writeBytes 0x201000 (List.replicate 64 0x5A) })

theorem has_scratchpad_loads :
    (issues ready (.ldsp { plain with d := .v 3, a := .v 1, imm := 2 }) (fun g => Stated.loadMayIssue g && !g.actives.isEmpty &&
        g.actives.all (fun x => match (g.s.spadAccess g.ref false 4 (g.raw x false g.f.a) g.f.disp).2 with | .ok a => (g.s.seen g.ref g.grp.storeQ .spad a 4).isSome | .error _ => false) &&
        (g.s.absentOf g.ref (distinct ((g.spadLanes false 4).flatMap Acc.lines))).isNone) &&
      issues ready (.ldcl { plain with d := .v 3, a := .const 127, imm := 0x800 }) (fun g => Stated.loadMayIssue g &&
        g.actives.all (fun x => match (g.s.spadAccess g.ref true 1 (g.raw x false g.f.a) g.f.disp).2 with | .ok a => (g.s.seen g.ref g.grp.storeQ .spad a 1).isSome | .error _ => false) &&
        (g.s.absentOf g.ref (distinct ((g.spadLanes true 1).flatMap Acc.lines))).isNone)) = true := by decide

/-- What `GlobalLoads` assumes of an access list. -/
def loadsMay (g : GCtx) (accs : List Acc) : Bool :=
  let r := BufRec.of (g.record g.f.a).bits
  let lines := distinct (accs.flatMap Acc.lines)
  let m := (g.s.mapLines g.team.core g.ref.vf .load lines).1
  let s1 := (g.s.mapLines g.team.core g.ref.vf .load lines).2
  let segs (a : Acc) : List Seg := match a.look m r.tb with | .ok l => l | .error _ => []
  let need := distinct ((accs.flatMap segs).map (·.no))
  Stated.loadMayIssue g && g.s.numbersWf && lines.all (fun x => !g.s.globalStuck g.team.core g.ref.vf (x * 128) .load) &&
    s1.evictRoom (g.team.core / 32) (distinct ((accs.flatMap segs).flatMap (fun y => s1.bypassed (g.team.core / 32) r.cache y.line y.blocks))) &&
    !need.isEmpty && decide (need.length + (g.s.quad g.quad).lodge.length ≤ 64) &&
    accs.all (fun a => match a.look m r.tb with | .ok l => (s1.seenSegs g.ref g.grp.storeQ l).isSome && l.all (fun y => !s1.lateSeg y) | .error _ => true)
theorem has_global_loads :
    (issues (mapped ready) (.ld { plain with d := .v 4, a := .b 1, b := .const 64, imm := 4 }) (fun g => loadsMay g (g.recLanes false 16)) &&
      issues (mapped ready) (.ldb { plain with d := .v 4, a := .b 2, b := .const 64 }) (fun g => loadsMay g (g.blockLanes false)) &&
      issues (mapped ready) (.sld { plain with d := .s 4, a := .b 1, b := .const 64, imm := 3 }) (fun g => loadsMay g [g.groupAcc false 8 (.s g.grp.key 4 8 false)]) &&
      issues (mapped ready) (.recld { plain with d := .b 4, a := .b 1, b := .const 64 }) (fun g => (g.record g.f.a).poison.isNone && loadsMay g [g.groupAcc false 32 (.b g.grp.key 4)])) =
    true := by decide

theorem has_scratchpad_stores :
    ([(Instr.stsp, false), (.stcl, true)].all (fun x => issues ready (x.1 { plain with d := .v 4, a := .const 80, imm := 4 }) (fun g => Stated.storeMayIssue g && !g.actives.isEmpty &&
      g.actives.all (fun t => (g.raw t false g.f.a).2.isNone && (t.data 4 16).2.isNone && (match g.s.spadAddr g.ref x.2 (((g.raw t false g.f.a).1 : Int) + g.f.disp) 16 with | .ok _ => true | .error _ => false)) &&
      (g.s.absentOf g.ref (distinct ((g.spadLanes x.2 16).flatMap Acc.lines))).isNone))) = true := by decide

/-- What `GlobalStores` assumes of an access list. -/
def storesMay (g : GCtx) (accs : List (Acc × List Byte)) : Bool :=
  let r := BufRec.of (g.record g.f.a).bits
  let lines := distinct (accs.flatMap (fun a => a.1.lines))
  let m := (g.s.mapLines g.team.core g.ref.vf .store lines).1
  Stated.storeMayIssue g && (g.record g.f.a).poison.isNone &&
    lines.all (fun x => !g.s.globalStuck g.team.core g.ref.vf (x * 128) .store) &&
    !accs.isEmpty && accs.all (fun a => (errOf (a.1.look m r.tb)).isNone)
theorem has_global_stores :
    (issues (mapped ready) (.st { plain with d := .v 4, a := .b 1, b := .const 64, imm := 4 }) (fun g => storesMay g ((g.recLanes true 16).zip (g.actives.map (fun x => (x.data 4 16).1)))) &&
      issues (mapped ready) (.stb { plain with d := .v 4, a := .b 2, b := .const 64 }) (fun g => storesMay g ((g.blockLanes true).zip (g.actives.map (fun x => (x.data 4 4).1)))) &&
      issues (mapped ready) (.sst { plain with d := .s 4, a := .b 1, b := .const 64, imm := 3 }) (fun g => storesMay g [(g.groupAcc true 8 (.s g.grp.key 0 8 false), bytesOfNat 8 (g.once g.f.d).1)])) =
    true := by decide
/-- The record of b1 poisoned. -/
def badRecord : State → State := onGroups (fun g => { g with b := g.b.set 1 { bits := 0, poison := some .format, reason := 3 } })
theorem has_store_poison :
    (issues (withPoison 5 .format ready) (.stsp { plain with d := .v 4, a := .s 5, imm := 2 }) (fun g => Stated.storeMayIssue g && g.s.quiet g.site &&
        (worstLanes (g.actives.map (fun x => (x, worst none (worst (x.data 4 4).2 (g.raw x false g.f.a).2))))).isSome) &&
      [(withPoison 5 .format (mapped ready), BitVec.ofNat 6 5), (badRecord (mapped ready), BitVec.ofNat 6 1)].all (fun x => [Instr.st, .stb].all (fun mk =>
        issues x.1 (mk { plain with d := .v 4, a := .b 1, b := .s (x.2), imm := if mk plain == .st plain then 2 else 0 }) (fun g => Stated.storeMayIssue g && g.s.quiet g.site &&
          (worstLanes (g.actives.map (fun x => (x, worst (g.record g.f.a).poison (worst (x.data 4 4).2 (worst (g.raw x false g.f.b).2 (g.raw x false g.f.c).2)))))).isSome)) &&
        issues x.1 (.sst { plain with d := .s 4, a := .b 1, b := .s (x.2), imm := 3 }) (fun g => Stated.storeMayIssue g && g.s.quiet g.site &&
          (worst (g.record g.f.a).poison (worst (g.once g.f.d).2 (worst (g.once g.f.b).2 (g.once g.f.c).2))).isSome)) &&
      issues (withPoison 5 .format ready) (.padd { plain with d := .v 4, a := .s 5, b := .const 65, imm := 2 }) (fun g => Stated.storeMayIssue g && g.s.quiet g.site && Stated.roomForValue g &&
        (worstLanes (g.actives.map (fun x => (x, worst none (g.atomPoison .add 4 g.f.a g.f.b x))))).isSome) &&
      issues (withPoison 5 .format (mapped ready)) (.gadd { plain with d := .v 4, a := .b 1, b := .s 5, c := .const 65, imm := 2 }) (fun g => Stated.storeMayIssue g && g.s.quiet g.site && Stated.roomForValue g &&
        (worstLanes (g.actives.map (fun x => (x, worst (g.record g.f.a).poison (g.atomPoison .add 4 g.f.b g.f.c x))))).isSome) &&
      issues (badRecord (mapped ready)) (.gadd { plain with pg := { neg := false, p := 1 }, d := .v 4, a := .b 1, b := .const 64, c := .const 65, imm := 2 }) (fun g =>
        Stated.storeMayIssue g && g.s.quiet g.site && Stated.roomForValue g && g.actives.isEmpty && (g.record g.f.a).poison.isSome)) = true := by decide
/-- What `StoreFailures` assumes: each source is sound, no line waits for a walk, and an access fails. -/
def storeFails (g : GCtx) (accs : List Acc) : Bool :=
  let r := BufRec.of (g.record g.f.a).bits
  let lines := distinct (accs.flatMap Acc.lines)
  let m := g.s.mapLines g.team.core g.ref.vf .store lines
  Stated.storeMayIssue g && (g.record g.f.a).poison.isNone && lines.all (fun x => !g.s.globalStuck g.team.core g.ref.vf (x * 128) .store) && m.2.quiet g.site &&
    (worstOf (accs.map (fun a => errOf (a.look m.1 r.tb)))).isSome
theorem has_store_failures :
    ([Instr.st, .stb].all (fun mk => issues (withS 5 5000 (mapped ready)) (mk { plain with d := .v 4, a := .b 1, b := .s 5, imm := if mk plain == .st plain then 2 else 0 }) (fun g =>
        g.actives.all (fun x => (worst (x.data 4 4).2 (worst (g.raw x false g.f.b).2 (g.raw x false g.f.c).2)).isNone) && storeFails g (if mk plain == .st plain then g.recLanes true 4 else g.blockLanes true))) &&
      issues (withS 5 5000 (mapped ready)) (.sst { plain with d := .s 4, a := .b 1, b := .s 5, imm := 3 }) (fun g =>
        (worst (g.once g.f.d).2 (worst (g.once g.f.b).2 (g.once g.f.c).2)).isNone && storeFails g [g.groupAcc true 8 (.s g.grp.key 0 8 false)]) &&
      [(Instr.stsp, false), (.stcl, true)].all (fun x => issues (withS 5 0x3FFFFFFF ready) (x.1 { plain with d := .v 4, a := .s 5, imm := 2 }) (fun g => Stated.storeMayIssue g && g.s.quiet g.site &&
        g.actives.all (fun t => (g.raw t false g.f.a).2.isNone && (t.data 4 4).2.isNone) && (worstOf ((g.spadLanes x.2 4).map (fun a => errOf a.out))).isSome))) = true := by decide
theorem has_scratchpad_atomics : (Stated.spadAtom { plain with d := .v 4, a := .const 127, b := .const 65, imm := 0x102 }).all (fun x => issues ready x.1 (fun g =>
    Stated.storeMayIssue g && Stated.roomForValue g && !g.actives.isEmpty && g.actives.all (fun t => (g.atomPoison x.2 4 g.f.a g.f.b t).isNone) &&
    g.actives.all (fun t => match (g.s.spadAccess g.ref false 4 (g.raw t false g.f.a) g.f.disp).2 with | .ok a => a == 64 && (g.s.absentOf g.ref (linesOf a 4)).isNone | .error _ => false))) =
    true := by decide
theorem has_memory_atomics : (Stated.memAtom { plain with d := .v 4, a := .b 1, b := .const 64, c := .const 65, imm := 2 }).all (fun x => issues (mapped ready) x.1 (fun g =>
    let acc := (recAccess (g.record g.f.a) true 4 (0, none) (0, none) 0)
    let a : Acc := { dst := .lane 0 0 0 4 false, virt := 0, va := acc.1, n := 4, out := acc.2 }
    Stated.storeMayIssue g && Stated.roomForValue g && !g.actives.isEmpty && (g.record g.f.a).poison.isNone && g.actives.all (fun t => (g.atomPoison x.2 4 g.f.b g.f.c t).isNone) &&
    (match a.look (g.s.mapLines 0 0 .store a.lines).1 false with | .ok (y :: _) => y.pa == 0x200000 | _ => false) &&
    !(g.s.globalStuck 0 0 0 .store) && (g.s.quad g.quad).lodge.isEmpty)) = true := by decide
theorem has_atomic_lane : ((4 = 4 ∨ (4 = 8 ∧ AtomKind.add ≠ .addf)) ∧ Memory.wf [] = true) ∧ ((8 = 4 ∨ (8 = 8 ∧ AtomKind.cas ≠ .addf)) ∧ Memory.wf [] = true) := by decide
theorem has_hints :
    (issues ready (.sptest { plain with d := .p 7, a := .v 1 }) always && issues ready (.pref { plain with a := .b 1, b := .v 1 }) always &&
      issues ready (.resid { plain with a := .b 1, b := .v 1, c := .v 2, mod := 32 }) always && issues ready (.recinv plain) (fun g => g.grp.storeQ.isEmpty && g.lb.isNone) &&
      issues (onGroups (fun g => { g with storeQ := [{ item := .store [(0, 1)], space := .spad, home := [], keep := 1, since := 0, leaves := [], unverified := false, done := [], asked := none }] }) ready)
        (.recinv plain) (fun g => !g.grp.storeQ.isEmpty && g.lb.isNone)) = true := by decide

/-- The lines around line 1 cached with every TGT bit set, and every thread at slot 0 of line 1. -/
def looped (s : State) : State :=
  onThreads (fun x => { x with pc := 64 })
    { s with icache := [(0, [0, 1, 2].map (fun n => { ctx := 0, line := n, slots := List.replicate 5 0x3001FE0F83E0F80000000000, word := 0xF8000000, bad := 0, error := false }))] }

theorem has_transfers :
    (issues ready (.nop plain) always && issues ready (.pause plain) (fun g => g.lb.isNone) &&
      [Instr.bra { plain with imm := 0xFFFFFFFC }, .call { plain with d := .v 4, imm := 8 }].all (fun i => issues (looped ready) i (fun g =>
        decide (0 ≤ Stated.targetLine g.pc g.f.imm) && decide (Stated.targetLine g.pc g.f.imm < 2 ^ 51) && !g.actives.isEmpty &&
        decide ((g.s.targetsOk g.team.core g.ref.vf [Stated.target g.pc g.f.imm]).1 = some []))) &&
      [Instr.bany { plain with a := .p 7, imm := 4 }, .ball { plain with a := .p 7, mod := 1 }].all (fun i => issues (looped ready) i (fun g =>
        decide (0 ≤ Stated.targetLine g.pc g.f.imm) && decide ((g.s.targetsOk g.team.core g.ref.vf [Stated.target g.pc g.f.imm]).1 = some []))) &&
      [Instr.brai { plain with a := .v 4 }, .callr { plain with d := .s 4, a := .imm true, imm := 176 }].all (fun i => issues (looped ready) i (fun g =>
        g.lanes.all (fun x => (g.raw x true g.f.a).2.isNone) && decide ((g.s.targetsOk g.team.core g.ref.vf (distinct (g.lanes.map (fun x => (g.raw x true g.f.a).1)))).1 = some []))) &&
      issues (looped ready) (.ret { plain with a := .v 4 }) (fun g => g.lanes.all (fun x => (g.raw x true g.f.a).2.isNone && legalPc (g.raw x true g.f.a).1))) = true := by decide
/-- Lines without one TGT bit, and a target in the line before. -/
def noTargets (s : State) : State := { looped s with icache := (looped s).icache.map (fun (e : Nat × List ILine) => (e.1, e.2.map (fun l => { l with word := 0 }))) }
/-- A page that may be fetched, whose line 1 no core has cached, and the same with that line held by the host of port 0. -/
def fetchable : State := { mapped ready with tlb := (mapped ready).tlb.map (fun (e : TlbEntry) => { e with pte := e.pte ||| 8 }) }
def withHost (s : State) : State := { s with coh := { s.coh with dir := [(0x8001, { DirEntry.reset with host0 := .m })] } }
def untagged : Fields := { plain with imm := 0xFFFFFFFC }
theorem has_target_checks :
    (issues ready (.bra { plain with imm := 0xFFFFFFFC }) (fun g => !g.actives.isEmpty && g.s.quiet g.site && decide (Stated.targetLine g.pc g.f.imm < 0)) &&
      issues (onThreads (fun x => { x with pc := 2 ^ 57 - 64 }) ready) (.call { plain with d := .v 4, imm := 8 }) (fun g => !g.actives.isEmpty && g.s.quiet g.site && decide (2 ^ 51 ≤ Stated.targetLine g.pc g.f.imm)) &&
      [Instr.bra untagged, .call { untagged with d := .v 4 }, .bany { untagged with a := .p 7 }, .ball { untagged with a := .p 7 }, .bdiv { untagged with a := .p 7 }, .spawn { untagged with d := .p 1, a := .v 1, b := .p 7 }].all
        (fun i => issues (noTargets ready) i (fun g => g.s.quiet g.site && decide (0 ≤ Stated.targetLine g.pc g.f.imm) && decide (Stated.targetLine g.pc g.f.imm < 2 ^ 51) && !g.actives.isEmpty && Stated.quiet g &&
          decide ((g.s.targetsOk g.team.core g.ref.vf [Stated.target g.pc g.f.imm]).1 = some [Stated.target g.pc g.f.imm]))) &&
      [Instr.bany { plain with a := .p 7, imm := 0xFFFFFFFC }, .ball { plain with a := .p 7, imm := 0xFFFFFFFC }, .bdiv { plain with a := .p 7, imm := 0xFFFFFFFC },
        .spawn { plain with d := .p 1, a := .v 1, b := .p 7, imm := 0xFFFFFFFC }].all (fun i => issues ready i (fun g => decide (Stated.targetLine g.pc g.f.imm < 0) && Stated.quiet g)) &&
      [Instr.brai { plain with a := .imm true, imm := 60 }, .callr { plain with d := .s 4, a := .imm true, imm := 60 }].all (fun i => issues (looped ready) i (fun g =>
        g.lanes.all (fun x => (g.raw x true g.f.a).2.isNone) && decide ((g.s.targetsOk g.team.core g.ref.vf (distinct (g.lanes.map (fun x => (g.raw x true g.f.a).1)))).1 = some [60]))) &&
      issues ready (.ret { plain with a := .imm true, imm := 60 }) (fun g => g.lanes.all (fun x => (g.raw x true g.f.a).2.isNone && !legalPc (g.raw x true g.f.a).1)) &&
      [Instr.brai { plain with a := .s 5 }, .callr { plain with d := .s 4, a := .s 5 }, .ret { plain with a := .s 5 }].all (fun i => issues (withPoison 5 .bounds ready) i (fun g =>
        g.s.quiet g.site && (worstLanes (g.lanes.map (fun x => (x, (g.raw x true g.f.a).2)))).isSome)) &&
      issues (withHost fetchable) (.bra { plain with imm := 8 }) (fun g => (g.s.targetsOk g.team.core g.ref.vf [Stated.target g.pc g.f.imm]).1.isNone) &&
      legalPc 112 && ((looped ready).iline 0 0 1).isSome && !legalPc 60 && (ready.iline 0 0 1).isNone &&
      (match fetchable.readLine 0 0 1 with | .line l s1 => !s1.badAt l.pa 64 | _ => false)) = true := by decide
/-- Lanes 0 to 2 and 31 have entered entry 5, lane 31 has still to join; the other lanes have no entry. -/
def open5 : CEntry := { id := 5, pc := 0, parent := none, expect := [(0, 0), (0, 1), (0, 2), (0, 31)], inside := [(0, 0), (0, 1), (0, 2), (0, 31)], bins := [] }
def entered : State := onTeams (fun t => { t with
  stack := [open5], threads := t.threads.map (fun x => { x with entry := if x.lane < 3 ∨ x.lane = 31 then some 5 else none, st := if x.lane = 31 then .wait else x.st }) }) (looped ready)
/-- R131, R148: the lanes under the entry are held by its bins, the others go on. -/
theorem test_join : after (.join plain) entered (fun t => (lane 0 t).any (fun x => decide (x.st = .held) && decide (x.pc = 76)) && (lane 3 t).any (fun x => decide (x.pc = 76)) &&
    (t.team? team0).any (fun T => decide (T.stack.map (fun e => (e.inside, e.bins.length)) = [([(0, 31)], 3)]))) = some true := by decide
theorem has_regrouping :
    (Stated.unitsEmpty (teamOfWord false false) &&
      issues (looped ready) (.join plain) (fun g => Stated.quiet g && g.lanes.all (fun x => x.entry.isNone)) &&
      issues entered (.join plain) (fun g => Stated.quiet g && Stated.unitsEmpty { g.team with stack := [] } && decide (g.team.stack = [open5]) && g.lanes.all (fun x => x.entry.isNone || x.entry == some 5) &&
        g.lanes.any (fun x => x.entry == some 5) && decide ((0, 31) ∈ open5.inside) && g.lanes.all (fun x => decide (x.pos ≠ (0, 31))) && decide ((g.lanes.filter (fun x => x.entry.isSome)).length < 32) &&
        g.lanes.all (fun x => g.team.threads.all (fun y => y.block != x.block || y.lane != x.lane || decide (y = x)))) &&
      issues (looped ready) (.bdiv { plain with a := .p 1, imm := 8 }) (fun g => Stated.quiet g && decide ((g.s.targetsOk g.team.core g.ref.vf [Stated.target g.pc g.f.imm]).1 = some [])) &&
      issues (onThreads (fun x => { x with st := if x.lane < 31 then .sub else .wait }) ready) (.reorder { plain with a := .v 1, b := .imm true, imm := 0xFF }) (fun g => Stated.quiet g &&
        (g.once g.f.b).2.isNone && g.lanes.all (fun x => g.team.threads.any (fun y => !g.runs y && !y.porter && g.team.slotOfBlock y.block == g.team.slotOfBlock x.block && y.st.here))) &&
      issues (looped ready) (.spawn { plain with d := .p 1, a := .v 1, b := .p 7, imm := 4 }) (fun g => decide ((g.s.targetsOk g.team.core g.ref.vf [Stated.target g.pc g.f.imm]).1 = some [])) &&
      issues ready (.exit { plain with pg := { neg := false, p := 7 } }) always) = true := by decide
theorem has_repetition : (issues ready (.rep { plain with mod := 63, imm := 63 }) always && streams readyStream (.rep { plain with mod := 1 }) (fun _ => true)) = true := by decide

def aop : Fields := { plain with d := .h 15, a := .s 1 }
theorem has_async_commands :
    ([Instr.acopy { aop with b := .const 64 }, .agather { aop with b := .const 64, c := .s 2 }, .ascatter { aop with b := .const 64, c := .s 2 }, .astage { aop with b := .const 64, c := .s 2 },
      .afill { aop with c := .s 2, mod := 32 }, .ahut aop, .asummit { aop with d := .none }].all (fun i => issues readyPorter i (fun g =>
        g.acquires.isEmpty && (worst (g.once g.f.a).2 (worst (g.once g.f.b).2 (g.once g.f.c).2)).isNone && decide (g.s.engineHeld g.team.core < engineRoom) &&
        (match g.f.d with | .h n => decide ((g.grp.hreg n.toNat).st ≠ .pending) | _ => true))) &&
      issues (mapped readyPorter) (.awrite { aop with a := .b 1, b := .const 64, c := .s 2 }) (fun g => g.acquires.isEmpty && (g.record g.f.a).poison.isNone)) = true := by decide
def held (st : HState) (s : State) : State := onGroups (fun g => g.setH 2 { Handle.null with st := st, cmd := some 7 }) s
theorem has_handles :
    ([HState.null, .done, .error, .cancelled, .part, .poisoned].all (fun st => issues (held st readyPorter) (.hwait { plain with a := .h 2 }) (fun g => Stated.roomForValue g && decide ((g.grp.hreg 2).st ≠ .pending))) &&
      issues (held .pending readyPorter) (.hwait { plain with a := .h 2 }) (fun g => g.lb.isNone && decide ((g.grp.hreg 2).st = .pending)) &&
      issues (held .part readyPorter) (.htest { plain with d := .s 3, a := .h 2 }) (fun g => !g.verified) &&
      issues (held .pending readyPorter) (.hpass { plain with a := .h 2, imm := 60 }) (fun g => !g.verified && (g.grp.hreg 2).signal.isNone) &&
      issues (held .done readyPorter) (.hpass { plain with a := .h 2, b := .const 79, imm := 30 }) (fun g => (g.once g.f.b).2.isNone) &&
      issues (held .null readyPorter) (.hcancel { plain with a := .h 2 }) always && issues (held .pending readyPorter) (.hcancel { plain with a := .h 2 }) always) = true := by decide
theorem has_barrier_objects :
    [Instr.barinit { plain with a := .imm true, b := .const 64, imm := 4080 }, .barexp { plain with a := .const 64, b := .const 0 }, .barexp { plain with a := .const 80, b := .s 1, mod := 32 }].all
      (fun i => issues readyPorter i (fun g => (g.once g.f.a).2.isNone && (g.once g.f.b).2.isNone && (g.once g.f.a).1 % 16 == 0 && !g.verified && g.s.cmds.isEmpty &&
        (match g.s.kd? g.ref with | some k => decide ((g.once g.f.a).1 < k.spad) | none => false))) = true := by decide

def oneStore : SqEntry := { item := .store [(0, 1)], space := .spad, home := [], keep := 1, since := 0, leaves := [], unverified := false, done := [], asked := none }
def storing : State → State := onGroups (fun g => { g with storeQ := [oneStore] })
theorem has_fences :
    (issues ready (.fence { plain with mod := 0x33 }) (fun g => g.grp.storeQ.isEmpty) && issues (storing ready) (.fence { plain with mod := 0x20 }) (fun g => !g.grp.storeQ.isEmpty) &&
      issues (storing ready) (.fence { plain with mod := 0x14 }) (fun g => !g.f.mod.getLsbD 5)) = true := by decide
/-- What the clauses about barriers and rings assume. -/
def syncs (c : GCtx → Bool) (g : GCtx) : Bool := !g.verified && g.lb.isNone && c g
theorem has_group_sync :
    (issues ready (.nbarr { plain with imm := 15 }) (syncs fun g => g.settled) && issues ready (.nbarr { plain with mod := 32 }) (syncs fun g => g.settled && (g.team.barriers[0]?).isSome) &&
      issues (onTeams (fun t => { t with barriers := t.barriers.map (fun b => { b with phase := true }) }) ready) (.nbwait { plain with imm := 15 }) (syncs fun g => g.team.phase 15 != g.grp.lp.getLsbD 15) &&
      issues ready (.nbwait plain) (syncs fun g => g.team.phase 0 == g.grp.lp.getLsbD 0) &&
      issues ready (.ringw { plain with a := .const 64, imm := 7 }) (syncs fun g => (g.once g.f.a).2.isNone && g.team.ringFull 7 0 == g.f.imm.getLsbD 3) &&
      issues ready (.ringw { plain with a := .const 79, imm := 15 }) (syncs fun g => g.team.ringFull 7 15 != g.f.imm.getLsbD 3) &&
      issues ready (.rings { plain with a := .const 64, mod := 32 }) (syncs fun g => g.settled) &&
      [(0 : BitVec 6), 32].all (fun m => issues (withS 4 4080 ready) (.barwait { plain with a := .s 4, b := .const 65, mod := m }) (syncs fun g => (g.once g.f.a).2.isNone && (g.once g.f.a).1 % 16 == 0 &&
        g.team.present ((g.once g.f.a).1 / 128) && (match g.s.kd? g.ref with | some k => decide ((g.once g.f.a).1 + 16 ≤ k.spad) | none => false)))) = true := by decide

def enabled (b : Bool) : State → State := onCtx (fun c => { c with diagen := b, injen := b, brken := b })
theorem has_system_registers :
    (issues ready (.sread { plain with d := .s 4, a := .special 4 }) (fun g => !g.verified && g.team.pend.isEmpty) && issues ready (.sread { plain with d := .v 4, a := .special 16 }) always &&
      issues ready (.swrite { plain with d := .special 16, a := .imm true, imm := 0xFFFFFFFF }) (fun g => g.lanes.all (fun x => (g.raw x false g.f.a).2.isNone)) &&
      issues ready (.swrite { plain with d := .special 17, a := .s 1 }) (fun g => g.lanes.all (fun x => (g.raw x false g.f.a).2.isNone)) &&
      issues ready (.swrite { plain with d := .special 18, a := .const 127 }) (fun g => g.lanes.all (fun x => (g.raw x false g.f.a).2.isNone)) &&
      issues ready (.isync plain) always && issues ready (.icinv { plain with a := .const 64, b := .const 64 }) (fun g => (g.once g.f.a).2.isNone && (g.once g.f.b).2.isNone) &&
      issues (enabled true ready) (.brk { plain with imm := 0xFFFF }) always && issues (enabled false ready) (.brk plain) always &&
      [(0 : BitVec 32), 4, 7].all (fun n => issues (enabled true ready) (.diagrd { plain with d := .s 3, imm := n }) always &&
        issues (enabled true ready) (.diagwr { plain with a := .const 64, imm := n }) (fun g => decide (n.toNat < ((g.s.quad g.quad).diag.get 0 (List.replicate 8 0)).length))) &&
      issues (enabled true ready) (.errinj { plain with a := .const 96, imm := 4 }) (fun g => (g.once g.f.a).2.isNone) &&
      issues (enabled false ready) (.diagrd { plain with d := .s 3, imm := 7 }) (fun g => !(g.s.ctx 0).diagen && g.s.quiet g.site) && issues (enabled false ready) (.diagwr { plain with a := .const 64 }) always &&
      issues (enabled false ready) (.errinj { plain with a := .const 64 }) (fun g => !(g.s.ctx 0).injen)) = true := by decide
def holding : State → State := onCtx (fun c => { c with trap := { c.trap with hold := true } })
theorem has_software_trap : issues (holding ready) (.trap { plain with imm := 0xFFFF }) (fun g => !(g.s.ctx 0).trap.valid && (g.s.ctx 0).trap.hold && g.s.quiet g.site) = true := by decide
theorem has_trap_record : ((holding ready).ctx 0).trap.hold = true ∧ ((holding ready).ctx 0).trap.valid = false ∧
    ((onCtx (fun c => { c with trap := { c.trap with valid := true, hold := true, pending := 0xFFFFFFFF } }) ready).ctx 0).trap.valid = true ∧ (0x38 : BitVec 8) ≠ 0x20 ∧ (0x38 : BitVec 8) ≠ 0x28 := by
  decide
theorem has_poison_consumption :
    ([Instr.reorder { plain with a := .v 1, b := .s 5 }, .ringw { plain with a := .s 5 }, .rings { plain with a := .s 5 }, .barwait { plain with a := .s 5, b := .const 65 },
      .icinv { plain with a := .s 5, b := .const 64 }, .diagwr { plain with a := .s 5 }, .errinj { plain with a := .s 5 }, .swrite { plain with d := .special 16, a := .s 5 },
      .scmp { sop with d := .p 1, b := .s 5 }].all (fun i => issues (enabled true (withPoison 5 .format ready)) i (fun g =>
        g.s.quiet g.site && (worst (g.once g.f.a).2 (g.once g.f.b).2) == some .format && (worstLanes (g.lanes.map (fun x => (x, worst (g.raw x false g.f.a).2 (g.raw x false g.f.b).2)))).isSome)) &&
      [Instr.barinit { plain with a := .s 5, b := .const 64 }, .barexp { plain with a := .s 5, b := .const 64 }, .hpass { plain with a := .h 2, b := .s 5, imm := 2 }, .acopy { aop with a := .s 5, b := .const 64 }, .agather { aop with a := .s 5, b := .const 64, c := .s 2 },
        .ascatter { aop with a := .s 5, b := .const 64, c := .s 2 }, .astage { aop with a := .s 5, b := .const 64, c := .s 2 }, .afill { aop with a := .s 5, c := .s 2, mod := 32 }, .ahut { aop with a := .s 5 },
        .asummit { aop with d := .none, a := .s 5 }, .awrite { aop with a := .b 1, b := .const 64, c := .s 5 }].all (fun i => issues (withPoison 5 .format (mapped readyPorter)) i (fun g =>
          g.s.quiet g.site && g.acquires.isEmpty && (worst (g.record g.f.a).poison (worst (g.once g.f.a).2 (worst (g.once g.f.b).2 (g.once g.f.c).2))) == some .format))) = true := by decide
theorem has_trap_ends : (ready.ctx 0).trap.hold = false ∧ ((ready.launch? 0 1).any (fun l => l.ended.isNone)) = true ∧ (0x11 : BitVec 8) ≠ 0x20 ∧ (0x11 : BitVec 8) ≠ 0x28 := by decide
theorem has_illegal : (match Instr.form (.nop { plain with imm := 1 }), ready.gctx? with
    | some (fm, f), some g => decide ((g.legal fm f).1 = some .imm) | _, _ => false) = true := by decide
theorem has_refused_scope : [(5 : BitVec 6), 6].all (fun sc => match Instr.form (.fence { plain with mod := sc }), (ready.setVf 0 { ready.vf 0 with act := true }).gctx? with
    | some (fm, f), some g => decide (g.legal fm f = (none, f)) && carriesScope fm && ((g.s.vf 0).policyOld.isNone && (g.s.vf 0).act && !(g.s.vf 0).devOk && !(g.s.vf 0).sysOk) && f.scope == sc.toNat
    | _, _ => false) = true := by decide

/-! The matrix stream and the huts. -/
def loopedStream : State := onSeqs (fun q => { q with pc := 64, s := (q.s.set 3 2).set 5 (0x0000000000000000) }) (looped readyStream)
theorem has_matrix_control :
    (streams readyStream (.mnop plain) (fun _ => true) && streams readyStream (.mset { plain with d := .s 0, a := .imm true }) (fun _ => true) &&
      streams readyStream (.madd { plain with d := .s 63, a := .s 3, b := .const 0 }) (fun _ => true) &&
      streams (onSeqs (fun q => { q with s := q.s.set 3 1 }) readyStream) (.mloop { plain with d := .s 3 }) (fun c => Stated.seqValue c c.f.d - 1 == 0) &&
      streams loopedStream (.mloop { plain with d := .s 3, imm := 0xFFFFFFFC }) (fun c => Stated.seqValue c c.f.d - 1 != 0 && decide (0 ≤ Stated.targetLine c.seq.pc c.f.imm) &&
        decide ((c.s.targetOk c.team.core c.ref.vf (Stated.target c.seq.pc c.f.imm)).1 = some true)) &&
      streams loopedStream (.mbra { plain with mod := 6 }) (fun c => decide ((c.s.targetOk c.team.core c.ref.vf (Stated.target c.seq.pc c.f.imm)).1 = some true)) &&
      streams loopedStream (.mbra { plain with a := .s 3, b := .const 66 }) (fun c => Stated.relation 64 0 false (Stated.seqValue c c.f.a) (Stated.seqValue c c.f.b)) &&
      streams loopedStream (.mbra { plain with a := .s 3, b := .const 66, mod := 1 }) (fun c => !Stated.relation 64 1 false (Stated.seqValue c c.f.a) (Stated.seqValue c c.f.b)) &&
      streams (onTeams (fun t => { t with barriers := t.barriers.map (fun b => { b with phase := true }) }) readyStream) (.mbarw { plain with imm := 15 }) (fun c => c.team.phase 15 != c.seq.lp.getLsbD 15) &&
      streams readyStream (.mbarw plain) (fun c => c.team.phase 0 == c.seq.lp.getLsbD 0) &&
      streams readyStream (.mbara { plain with imm := 15 }) (fun c => c.seq.job.isNone && c.seq.drains.isEmpty) &&
      streams readyStream (.mringw { plain with a := .const 79, imm := 7 }) (fun c => c.team.ringFull 7 15 == c.f.imm.getLsbD 3) &&
      streams readyStream (.mringw { plain with a := .const 64, imm := 8 }) (fun c => c.team.ringFull 0 0 != c.f.imm.getLsbD 3) &&
      streams readyStream (.mrings { plain with a := .const 64, mod := 1 }) (fun c => c.seq.job.isNone) &&
      streams readyStream (.msetBexp { plain with mod := 1, imm := 0xFF0F }) (fun c => (c.team.barriers[15]?).isSome) &&
      streams readyStream (.msetRing { plain with mod := 2, imm := 0x3F3FF7 }) (fun c => match c.team.rings[7]? with | some y => y.stages.all (fun x => decide (x = (false, 0))) | none => false) &&
      streams readyStream (.mseed { plain with a := .const 65 }) (fun _ => true) && streams readyStream (.mexit plain) (fun _ => true)) = true := by decide
def powered (l : Int) : State → State := onCtx (fun c => { c with level := l })
def wideSpad (s : State) : State := { s with launches := s.launches.map (fun l => { l with kd := { l.kd with spad := 16384 } }) }
theorem has_matrix_array :
    (streams readyStream (.mzero { plain with d := .a 3 }) (fun c => c.mayWrite 3 && c.seq.job.isNone) &&
      streams (wideSpad readyStream) (.mldacc { plain with d := .a 0, a := .const 64 }) (fun c => c.mayWrite 0 && (match c.s.kd? c.ref with | some k => decide (16384 ≤ k.spad) | none => false) &&
        (linesOf 0 16384).all c.team.present && c.team.badLines.isEmpty) &&
      streams (powered 1 readyStream) (.mmac { plain with d := .a 0, a := .const 64, b := .const 64, c := .const 64, mod := 0x38, imm := 4 }) (fun c => c.mayWrite 0 && decide (c.s.usec ≤ c.s.refilled) &&
        decide (0 < (c.s.ctx 0).level)) &&
      streams (powered 0 readyStream) (.mmac { plain with d := .a 0, a := .const 64, b := .const 64, c := .const 65, imm := 4 }) (fun c => decide ((c.s.ctx 0).level ≤ 0))) = true := by decide
theorem has_residue_sums : (List.replicate 62 ((127 : Int), (-127 : Int))).length ≤ 62 ∧ ∀ t ∈ List.replicate 62 ((127 : Int), (-127 : Int)), -127 ≤ t.1 ∧ t.1 ≤ 127 ∧ -127 ≤ t.2 ∧ t.2 ≤ 127 :=
  ⟨by decide, fun t h => by rw [List.eq_of_mem_replicate h]; decide⟩
/-- A segment of 62 N8 codes 127 and -127. -/
def fullSegment : Segment := { a := Blk.of ([0x10, 127] ++ List.replicate 62 0x7F), ia := 0, b := Blk.of ([0x10, 127] ++ List.replicate 62 0x81), ib := 0, n := 62 }
theorem has_residue_segment : fullSegment.a.nan = false ∧ fullSegment.b.nan = false ∧
    (List.range fullSegment.n).map (fun k => (fullSegment.a.code (fullSegment.ia + k), fullSegment.b.code (fullSegment.ib + k))) = (List.replicate 62 ((127 : Int), (-127 : Int))).map (fun t => (some t.1, some t.2)) :=
  ⟨by decide, by decide, by decide +kernel⟩
theorem test_residue_segment : fullSegment.residueVal = .fin true 999998 0 := by decide +kernel
theorem has_matrix_drains :
    (streams readyStream (.mdrain { plain with a := .a 3, mod := 3 }) (fun c => c.seq.drains.isEmpty) &&
      streams readyStream (.mdradd { plain with a := .a 0, b := .s 5, imm := 0x1F0 }) (fun c => c.seq.drains.isEmpty &&
        decide (c.s.target { vf := 0, launch := 1, cluster := 0, cteam := 0 } = .go) && (match c.s.launch? 0 1 with | some l => decide (0 < l.kd.footprint l.verify) | none => false)) &&
      streams (onSeqs (fun q => { q with s := q.s.set 5 0xFFFFFFFF }) readyStream) (.mdradd { plain with a := .a 0, b := .s 5 }) (fun c => 
        decide (c.s.target { vf := 0, launch := 1, cluster := 0xFFFFFFFF, cteam := 0 } = .trap) && c.s.quiet c.site)) = true := by decide
theorem has_hut_results :
    ((readyHut.hctx?).any (fun k => k.hut.loops.all (fun l => l.last != k.hut.pc)) &&
      [Instr.hadd 0 0 1 2, .hsub 3 23 27 26, .hmul 1 2 3 4, .hfma 0 1 0 24 1, .hmin 2 0 1 2, .hmax 3 0 1 2, .habs 1 0 1, .hand 0 1 2, .hor 0 1 2, .hxor 0 1 2, .hshl 1 0 1 2, .hshr 2 0 1 2,
       .hcmp 0 0 1 2 5, .hsel 0 1 2 3, .hmov 0 27, .hbcast 0 1 7, .hsum 2 0 1, .hseti 0 0 0x40000, .hidx 1 0 3].all (fun i => decide (hutIllegal i = none) && (Stated.hutResult 0 i).isSome)) = true := by
  decide
theorem has_hut_conversions : (readyHut.hctx?).isSome = true ∧ hutIllegal (.hcvt 0 23 27 3) = none ∧ hutIllegal (.hcvt 3 0 0 0) = none := by decide
theorem has_hut_control :
    (readyHut.hctx?).isSome = true ∧ hutIllegal (.hloop true false 4095 96) = none ∧ hutIllegal (.hloop false true 4 1) = none ∧ hutIllegal (.hloop false true 3 1) = none ∧
    (readyHut.hut 0).c.getD 3 0 = 0 := by decide
/-- A hut command of one region at page 0, and hut 0 running it with a window of 32 bytes. -/
def hutCmd (pte : BitVec 64) : Cmd := { cmdOfWord with shape := ((1 : BitVec 160) <<< 144).zeroExtend 512, pages := [(0, pte, 0x100000)] }
def hutRuns (pte : BitVec 64) : State :=
  { readyHut with cmds := [hutCmd pte], huts := readyHut.huts.map (fun (e : Nat × Hut) => (e.1, { e.2 with granted := true, wn := 1 })) }
/-- A context of a hut that meets a condition on its unit u of region n: outside, or at its place in memory. -/
def hutAt (s : State) (c : HCtx → Bool) : Bool := match s.hctx? with | some k => k.hut.loops.isEmpty && c k | none => false
theorem has_hut_memory :
    (hutAt (hutRuns 0x200003) (fun k => decide (k.hut.wn ≤ 1) && k.cmd.nreg == 1 && k.hut.granted && ((hutRuns 0x200003).coh.dirEntry (k.cmd.phys 0 / 64)).owner.isNone && k.cmd.phys 0 == 0x200000 &&
        !((hutRuns 0x200003).badAt 0x200000 32) && (hutRuns 0x200003).homeClear 0x8000 && (((hutRuns 0x200003).coh.dirEntry (0x200000 / 64)).hostConflicts false).isEmpty) &&
      hutAt (hutRuns 0x200003) (fun k => match k.leaf 0 with | some p => !pteBit p.1.toNat 2 | none => false) &&
      hutAt (hutRuns 0x200007) (fun k => match k.leaf 0 with | some p => pteBit p.1.toNat 2 && k.hut.granted && decide ((hutRuns 0x200007).coh.dirEntry (0x200000 / 64) = DirEntry.reset) && ((hutRuns 0x200007).leavesWait (stackPort 0) (k.dirties 0)).isNone | none => false) &&
      (hutRuns 0x200007).mem.wf) = true := by decide

/-! ### Witnesses: encodings, the step and the invariants -/

theorem has_encodings : (decodeWord 0x0001C0300402F80000000000).isSome = true ∧ (Instr.nop plain).bad = none ∧ (encodeWord (.nop plain)).isSome = true ∧ (Instr.nop plain).form.isSome = true ∧
    (decodeHut 0x60000000).isSome = true ∧ (encodeHut (.hadd 3 23 27 26)).isSome = true := by decide
/-- The state whose next turn a quadrant, a sequencer, a hut or an event has, without what the test states say of the issuer. -/
def turn (u : Turn) (s : State) : State := { s with agenda := [(0, u)], cur := .module }
theorem has_step_event : ((turn (.event .energyRefill) State.reset).nextTurn.1 = .event .energyRefill) ∧ (turn (.event .energyRefill) State.reset).nextTurn.2.settleOwed.restTimers.boot.railsOff = false := by decide
theorem has_step_quad :
    (let s := (turn (.quad 0) ready).nextTurn.2.settleOwed.restTimers
     let s2 := (s.wakeQuad 0).arbitrate 0
     !s.boot.railsOff && match (s2.quad 0).holder with
     | some (r, p) => match s2.team? r with
       | some t => match t.group? (t.slotOf 0) p with
         | some g => match t.subscribe (s2.ownsBuffers 0 r p) g with
           | (t', some pc) => ((Stated.slotWord (s2.setTeam t') t'.core r.vf pc).bind decodeWord).isSome && pc == 0
           | _ => false
         | none => false
       | none => false
     | none => false) = true := by decide
/-- An identity mapping of the first 2 MiB for context 0 in core 0's TLB. -/
def identity (s : State) : State :=
  onCtx (fun c => { c with en := true }) { s with tlb := [{ unit := 0, ctx := 0, base := 0, size := 4096, pte := 0x10F, leaf := 0x100000 }] }
theorem has_step_fill :
    (let s2 := ((turn (.quad 0) (identity { ready with icache := [] })).nextTurn.2.settleOwed.restTimers.wakeQuad 0).arbitrate 0
     !s2.boot.railsOff && (s2.quad 0).holder.isSome && (s2.iline 0 0 0).isNone && !s2.walkStuck 0 0 0 .fetch && (match s2.translate 0 0 0 .fetch with | (.ok _, _) => true | _ => false)) = true := by decide
theorem has_step_buffer :
    (let i : Instr := .vadd vop
     let e : LbEntry := { pc := 0, word := 0x0001C0300402F80000000000 }
     let s := (turn (.lb 0 5) (onThreads (fun x => if x.lane = 5 then { x with st := .lb, lbuf := [e] } else x)
       ({ ready with quads := ready.quads.map (fun (q : Nat × Quad) => (q.1, { q.2 with holder := some (team0, 0), bufOwner := some (team0, 0), queue := [] })) } : State))).nextTurn.2.settleOwed.restTimers
     !s.boot.railsOff && ((s.quad 0).holder == some (team0, 0)) && s.ownsBuffers 0 team0 0 && (match s.team? team0 with
       | some t => match t.group? (t.slotOf 0) 0 with
         | some g => !(g.lbOver s.cycle && t.allLb g) && ((t.members g).find? (fun x => x.lane == 5 && decide (x.st = .lb))).any (fun x => (x.captured).any (fun y => decide (y = e)) && decide (x.lbNext = some i))
         | none => false
       | none => false)) = true := by decide
theorem has_step_stream :
    (let s := (turn (.seq 0) readyStream).nextTurn.2.settleOwed.restTimers
     !s.boot.railsOff && match s.seqTeam 0 with
     | some (t, x) => !x.exited && x.trap.isNone && ((Stated.slotWord s t.core t.ref.vf x.pc).bind decodeWord).isSome
     | none => false) = true := by decide
def hutPc (n : Nat) : State := turn (.hut 0) { readyHut with huts := readyHut.huts.map (fun (e : Nat × Hut) => (e.1, { e.2 with pc := n })) }
theorem has_step_hut :
    (((hutPc 0).nextTurn.2.settleOwed.restTimers.hut 0).running.isSome ∧ ((hutPc 0).nextTurn.2.settleOwed.restTimers.hut 0).pc = 0 ∧ ((hutPc 0).nextTurn.2.settleOwed.restTimers.hut 0).tag = some (0, 0, 96) ∧ (hutPc 0).nextTurn.2.settleOwed.restTimers.cmds.all (fun c => !(c.id == 1 && (hutPc 0).nextTurn.2.settleOwed.restTimers.past c)) = true ∧ (decodeHut (((hutPc 0).nextTurn.2.settleOwed.restTimers.hut 0).ib.getD 0 0)).isSome) ∧
    (hutPc 0).nextTurn.2.settleOwed.restTimers.boot.railsOff = false ∧ ((hutPc 96).nextTurn.2.settleOwed.restTimers.hut 0).running.isSome ∧ 96 ≤ ((hutPc 96).nextTurn.2.settleOwed.restTimers.hut 0).pc := by decide
theorem has_placed_word : (decodeTableWord 96 0x3001FE0F83E0F80000000000).isSome = true ∧ (decodeTableWord 96 0x5001FE0F83E0F80000000000).isSome = true ∧
    (decodeTableWord 32 0x60000000).isSome = true := by decide
theorem has_invariants : ready.storesWf = true ∧ ready.numbersWf = true ∧
    (match step { turn (.quad 0) ready with cur := .module } with | .next _ => true | _ => false) = true := by decide

/-! ### Witnesses: functions, queues and administration -/

/-- A step of an event answers a next state that meets a condition. -/
def then? (i : Instr) (s : State) (c : State → Bool) : Bool := match exec i s with | .next t => c t | _ => false
/-- VF 0, enabled by PF 0 and created with two work queues and the timelines feature. -/
def vfUp : State :=
  { State.reset.setVf 0 { Vf.reset with enabled := some 0, created := true, ready := true, nwq := 2, parts := [0], tr := { Transport.reset with features := 0x10000000003, featuresOk := true } } with parts := [(0, [0])] }
/-- VF 1 enabled beside it. -/
def vfNew : State := vfUp.setVf 1 { Vf.reset with enabled := some 0 }
theorem has_negotiation :
    (vfNew.transport (.vf 1)).featuresOk = false ∧ (vfNew.transport (.vf 1)).unusable = false ∧ vfUp.ready (.vf 0) = true ∧ (vfUp.transport (.vf 0)).unusable = false ∧
    vfUp.ready (.pf 0) = false ∧ then? (.featuresOk (.vf 1) 0x1300000003) vfNew (fun t => (t.transport (.vf 1)).featuresOk) = true ∧
    then? (.featuresOk (.vf 1) 0x1300000003) vfNew (fun t => (t.transport (.vf 1)).unusable) = false ∧ then? (.featuresOk (.vf 1) (2 ^ 37)) vfNew (fun t => (t.transport (.vf 1)).unusable) = true ∧
    vfNew.present (.vf 1) = true ∧ vfUp.present (.vf 0) = true ∧ vfUp.present (.vf 1) = false ∧ (vfUp.vf 0).enabled.isSome = true ∧ (vfUp.vf 1).enabled = none := by decide
/-- A chain with a request and a final buffer that takes a record. -/
def chain (head : Nat) (req : List Byte) (rest : List Byte := []) : Chain := { head := head, req := req, rest := rest, finalLen := 32, finalWritable := true }
def signalReq (tl v : Byte) : List Byte := [2, tl, 0, 0, 0, 0, 0, 0, v, 0, 0, 0, 0, 0, 0, 0]
/-- The request stands first in work queue 1 of VF 0. -/
def asked (c : Chain) (s : State) : State := s.setVf 0 { s.vf 0 with queues := [(1, { VQueue.reset with avail := [c], kicked := true })] }
def reads (s : State) : Bool :=
  let f := s.vf 0
  let q := f.queues.get 1 VQueue.reset
  f.ready && !f.tr.unusable && decide (f.bstate = .active) && decide (1 < f.nwq) && q.kicked && q.enabled && decide ((s.launches.filter (fun (l : Launch) => l.vf == 0)).length < 256) && !q.avail.isEmpty
theorem has_notify : (State.reset.vf 0).ready = false ∧ (vfUp.vf 0).ready = true ∧ (vfUp.vf 0).tr.unusable = false ∧ (vfUp.vf 0).bstate = .active ∧ 2 = (vfUp.vf 0).nwq ∧ 1 ≠ (vfUp.vf 0).nwq ∧
    ((vfUp.setVf 0 { vfUp.vf 0 with bstate := .collapsed }).vf 0).bstate = .collapsed := by decide
theorem has_signal : [signalReq 0 5, signalReq 7 255].all (fun r => reads (asked (chain 3 r) vfUp) && r.head? == some 2 && decide (16 ≤ r.length) && fieldAt r 2 6 == 0 && decide (fieldAt r 1 1 ≤ 7) &&
    ((asked (chain 3 r) vfUp).vf 0).feature 1 &&
    then? (.signal 0 1) (asked (chain 3 r) vfUp) (fun t => t.out.used == [Stated.answered (.vf 0) 1 3 0 0 0 0xFF 0 0] && (t.vf 0).timelines.getD (fieldAt r 1 1) 0 == BitVec.ofNat 64 (fieldAt r 8 8))) = true := by decide
/-- A launch packet of one cluster of kernel 0 of container 0, and the module with that container loaded: a code line with TGT of slot 0, and a kernel of one group. -/
def launchReq : List Byte := [1] ++ List.replicate 15 0 ++ [1, 0, 0, 0, 1, 0, 0, 0, 1, 0, 0, 0] ++ List.replicate 68 0 ++ [0xFF, 0xFF] ++ List.replicate 30 0
def kernelBytes : List Byte :=
  List.replicate 8 0 ++ List.replicate 16 0xFF ++ [32, 0, 1, 0, 1, 0, 1, 1, 32, 0, 0, 0, 0, 16, 0, 0] ++ List.replicate 88 0
def loaded : State :=
  let s := vfUp.setVf 0 { vfUp.vf 0 with containers := [{ ctr := 0, feat := 0, segs := [(1, 0, 0, 0x200000, 4096), (4, 0, 0, 0x300000, 128)] }] }
  { s with mem := (s.mem.writeBytes 0x200000 (List.replicate 63 0 ++ [8])).writeBytes 0x300000 kernelBytes }
def admits (s : State) (c : Chain) : Option (List Nat ⊕ Nat) :=
  match (Stated.asModule s).frontHead 0 1 with
  | some (_, s1) => match s1.admitLaunch 0 c with | .ok _ _ _ shares => some (.inl shares) | .refused r _ _ => some (.inr r)
  | none => none
theorem has_launch : launchReq.length = 128 ∧ kernelBytes.length = 128 ∧ reads (asked (chain 3 launchReq) loaded) = true ∧ launchReq.head? = some 1 ∧
    admits (asked (chain 3 launchReq) loaded) (chain 3 launchReq) = some (.inl [1, 0, 0, 0, 0, 0, 0, 0]) := by decide
theorem has_launch_refused : admits (asked (chain 3 launchReq) vfUp) (chain 3 launchReq) = some (.inr 0x43) ∧
    then? (.launch 0 1) (asked (chain 3 launchReq) vfUp) (fun t => t.out.used == [Stated.answered (.vf 0) 1 3 0 1 0x43 0xFF 0 0]) = true := by decide
/-- A launch of VF 0 read from queue 1 with a placed cluster, and its queue reset feature. -/
def launched : State := { vfUp with launches := [{ launchOfWord false false with queue := 1, head := 9 }], clusters := [clusterOfWord false false] }
theorem has_function_resets :
    1 < (launched.vf 0).nwq ∧ (launched.vf 0).feature 40 = true ∧ (launched.launches.map (fun l => (l.vf, l.id))).Nodup ∧ launched.launches.all (fun l => l.ended.isNone) = true ∧ launched.cmds.isEmpty = true ∧ (∃ l ∈ launched.launches, l.vf = 0 ∧ l.queue = 1) ∧ (State.reset.pf 1).linkUp = false ∧ (launched.vf 0).enabled = some 0 ∧
    then? (.queueReset 0 1) launched (fun t => t.launches.isEmpty && t.out.used.any (fun u => u.head == 9 && u.record.any (fun r => r.status == 2 && r.launchId == 1))) = true ∧
    then? (.pfFunctionLevelReset 0) launched (fun t => t.launches.isEmpty && (t.vf 0).queues.isEmpty && (t.vf 0).gen == 1 && t.out.used.isEmpty) = true := by decide
def withPf (n : Nat) (on : Bool) (g : Nat) : State := { State.reset with pf0 := { Pf.reset with numvfs := n, vfEnable := on }, gbbase := g, spillbase := g }
theorem has_virtual_functions :
    ((withPf 129 false 1).pf 0).vfEnable = false ∧ 128 < ((withPf 129 false 1).pf 0).numvfs ∧ (withPf 1 false 0).gbbase = 0 ∧ (withPf 128 false (2 ^ 21)).gbbase ≠ 0 ∧
    then? (.vfEnable 0 true) (withPf 129 false 1) (fun t => t.pf0.caperr && !t.pf0.vfEnable) = true ∧
    then? (.vfEnable 0 true) (withPf 2 false (2 ^ 21)) (fun t => t.pf0.vfEnable && decide ((t.vf 1).enabled = some 0) && decide ((t.vf 2).enabled = none)) = true ∧
    ((withPf 2 true 1).pf 0).vfEnable = true ∧ then? (.vfEnable 0 false) { vfUp with pf0 := { Pf.reset with numvfs := 2, vfEnable := true } } (fun t => !(t.vf 0).created && decide ((t.vf 0).enabled = none)) = true ∧
    then? (.numvfsWrite 0 1) (withPf 2 true 1) (fun t => t.pf0.numvfs == 2) = true ∧ (128 ≤ 128 ∧ ((withPf 2 false 1).pf 0).vfEnable = false) ∧
    then? (.numvfsWrite 0 0) { vfUp with pf0 := { Pf.reset with numvfs := 1, vfEnable := false } } (fun t => !(t.vf 0).created && t.pf0.numvfs == 0) = true := by decide
/-- An administration request stands first in PF 0's queue. -/
def adminAsked (c : Chain) (s : State) : State := { s with pf0 := { s.pf0 with ready := true, adminQ := { VQueue.reset with avail := [c], kicked := true } } }
def adminReads (s : State) (c : Chain) (kind size : Nat) : Bool :=
  s.pf0.ready && !s.pf0.tr.unusable && s.pf0.adminQ.kicked && decide (s.pf0.adminQ.avail = [c]) && c.finalWritable && decide (32 ≤ c.finalLen) && c.req.head? == some (BitVec.ofNat 8 kind) &&
    decide (size ≤ c.req.length)
def answers (i : Instr) (s : State) (c : Chain) (status reason : Nat) : Bool := then? i s (fun t => t.out.used == [Stated.answered (.pf 0) 0 c.head 0 status reason 0xFF 0 0])
def partReq (idx : Byte) (mask : List Byte) : Chain := chain 5 ([0x12, idx] ++ List.replicate 14 0) (mask ++ List.replicate (128 - mask.length) 0)
theorem has_create_part :
    ([(partReq 63 [1], State.reset, 0, 0), (partReq 0 [2], vfUp, 1, 0x50), (partReq 63 [], State.reset, 1, 0x51), (partReq 1 [1], vfUp, 1, 0x52)].all (fun x =>
      let s := adminAsked x.1 x.2.1
      adminReads s x.1 0x12 16 && fieldAt x.1.req 2 14 == 0 && decide (fieldAt x.1.req 1 1 ≤ 63) && decide (128 ≤ x.1.rest.length) && answers (.createPart 0) s x.1 x.2.2.1 x.2.2.2)) = true := by decide
/-- A CREATE_VF request: class, VF, queues, idle time, keep count and partitions. -/
def vfReq (cls v nq idle kn parts : Byte) : Chain :=
  chain 6 ([0x10, cls, v, nq, 3, 0, 0, 0, idle, 0, 0, 0, 0, 0, 0, 0] ++ [0, 0, 0x10, 0, 0, 0, 0, 0, kn, 0, 0, 0, 0, 0, 0, 0] ++ [7, 0, 0, 0, 0, 0, 0, 0, parts, 0, 0, 0, 0, 0, 0, 0] ++ List.replicate 16 0)
def spare : State := { State.reset.setVf 127 { Vf.reset with enabled := some 0 } with parts := [(0, [0]), (1, [1])] }
theorem has_create_vf :
    ([(vfReq 3 127 16 0 0 3, spare, 0, 0), (vfReq 3 127 17 0 0 1, spare, 1, 0x42), (vfReq 3 127 16 1 0 1, spare, 1, 0x42), (vfReq 2 127 1 0 0 1, spare, 1, 0x42), (vfReq 3 1 1 0 0 1, spare, 1, 0x53), (vfReq 3 127 1 0 0 4, spare, 1, 0x54),
       (vfReq 0 127 1 1 2 1, spare, 1, 0x55), (vfReq 1 127 1 1 0 1, spare, 1, 0x56)].all (fun x =>
      let s := adminAsked x.1 x.2.1
      adminReads s x.1 0x10 64 && answers (.createVf 0) s x.1 x.2.2.1 x.2.2.2)) = true := by decide
def destroyReq (v : Byte) : Chain := chain 7 ([0x11, v] ++ List.replicate 14 0)
theorem has_destroy_vf :
    ([(destroyReq 0, launched, 0, 0), (destroyReq 127, launched, 1, 0x53), ({ destroyReq 0 with req := [0x11, 0, 1] ++ List.replicate 13 0 }, launched, 1, 0x42)].all (fun x =>
      let s := adminAsked x.1 x.2.1
      adminReads s x.1 0x11 16 && answers (.destroyVf 0) s x.1 x.2.2.1 x.2.2.2)) = true := by decide
/-- A container header of one segment whose table entry is of no kind, and one with a wrong magic word. -/
def header (magic : Byte) : List Byte := [magic, 0x57, 0x4D, 0x43, 1, 0, 1, 0, 64, 0, 0, 0, 0, 0, 0, 0] ++ List.replicate 112 0
def booted : State := { State.reset with boot := { State.reset.boot with stage := 5 } }
theorem has_container :
    (headerOk (header 0x53) = true ∧ booted.boot.stage = 5 ∧ [(0, 0)].length = fieldAt (header 0x53) 6 2) ∧ headerOk (header 0) = false ∧ State.reset.boot.stage ≠ 5 ∧
    (loadSegs booted (header 0x53) [(segEntry (header 0x53) 64 0, (0, 0))]).2 = false := by decide
/-- A container whose one segment is well formed is loaded whenever its signatures verify; whether they do, no model fixes (log 4). -/
def goodImage : List Byte := header 0x53 |>.take 64 |> (· ++ ([3, 12, 0, 0, 0, 0, 0, 0, 0, 0, 0, 0, 0, 0, 0, 0] ++ List.replicate 8 0 ++ [0, 16, 0, 0, 0, 0, 0, 0] ++ List.replicate 32 0) ++ List.replicate 96 0)
theorem has_loaded_container (h : (segEntry goodImage 64 0).signed goodImage = true) :
    headerOk goodImage = true ∧ (segEntry goodImage 64 0).ok booted goodImage (0, 0) = true ∧ (loadSegs booted goodImage [(segEntry goodImage 64 0, (0, 0))]).2 = true ∧
    ([(segEntry goodImage 64 0, (0, 0))].foldlM (State.placeSeg 0 goodImage) ([0x10000, 0x11000, 0x12000, 0x13000], booted)).isSome = true ∧
    ([(segEntry goodImage 64 0, (0, 0))].foldlM (State.placeSeg 0 goodImage) ([], booted)).isNone = true := by
  have h1 : (segEntry goodImage 64 0).ok booted goodImage (0, 0) = true := by decide
  refine ⟨by decide, h1, ?_, by decide, by decide⟩
  simp [loadSegs, h1, h]

/-! ### Witnesses: dispatch, events, energy and regrouping clocks -/

/-- Two launches of VF 0 wait for their first cluster on chiplet 0, the later one with more priority. -/
def waiting : State :=
  let l := { launchOfWord false false with nextCl := [0, 1, 1, 1, 1, 1, 1, 1], ready := some 0 }
  { vfUp with gbbase := 2 ^ 21, cycle := 2000000, launches := [l, { l with id := 2, order := 5, pkt := { l.pkt with prio := 2 } }] }
theorem has_dispatch :
    (waiting.quads.isEmpty = true ∧ waiting.preemptHolds 0 = false ∧ waiting.mem.wf = true ∧ (waiting.firstLaunch 1).isNone = true) ∧
    ((Stated.asModule waiting).firstLaunch 0).any (fun l => l.id == 2 && decide (l.nextOn 0 = some (0, 0)) && decide ((Stated.asModule waiting).findPlace l.vf l.kd l.verify 0 = some (0, 0, [[0]]))) = true ∧
    (({ waiting with parts := [] } : State).findPlace 0 (kernelOfWord false false) false 0).isNone = true ∧
    then? .priorityAging waiting (fun t => t.launches.map (·.prio) == [1, 3]) = true := by decide
theorem has_no_dead_quadrant : (∀ q, (waiting.quad q).dead = false) ∧ ∀ q, (waiting.quad q).out = [] := ⟨fun _ => rfl, fun _ => rfl⟩
theorem has_held_launch :
    (let s := ((({ waiting with clusters := launched.clusters } : State).setVf 0 { waiting.vf 0 with preempted := true }).setQuad 0 { Quad.reset with out := [(0, { st := .halted, banks := [], rows := [], acc := false, bsramGone := false })] })
     s.preemptHolds 0 = true ∧ ((Stated.asModule s).firstLaunch 0).isSome = true ∧ s.quads.all (fun (q : Nat × Quad) => !q.2.dead) = true) := by decide
def ev (gen : BitVec 16) : VEvent := { kind := 1, cause := 0, gen := gen, cluster := 0, launchId := 0, retries := 0 }
theorem has_events_and_energy :
    then? (.eventDeliver 0) (vfUp.setVf 0 { vfUp.vf 0 with held := [ev 1, ev 0, ev 0], evBufs := [4] }) (fun t => decide ((t.vf 0).held = [ev 0]) && decide (t.out.events = [(0, ev 0)]) && (t.vf 0).evDrop == 1) = true ∧
    State.reset.usec ≤ State.reset.refilled ∧ waiting.refilled < waiting.usec := by decide
/-- A team with an open compaction entry, a reorder unit, a spawned thread and a pool entry, at a cycle. -/
def regs0 : GroupRegs := { s := List.replicate 64 SReg.zero, b := List.replicate 16 BReg.null, lp := 0, keyFrom := 0, wrote := 0 }
def clocked (cycle : Nat) : State :=
  { onTeams (fun t => { t with
      threads := t.threads.map (fun x => if x.lane < 3 then { x with st := .held } else x)
      stack := [{ id := 5, pc := 0, parent := none, expect := [(0, 0), (0, 3)], inside := [(0, 0)], bins := [{ block := 0, lane := 0, target := 64, join := false, at_ := 0, order := 0, regs := regs0 }] }]
      reorder := [(0, [{ block := 0, lane := 1, key := 2, mask := 0, regs := regs0, at_ := 0 }])]
      spawned := [{ block := 0, lane := 2, pc := 64, at_ := 0, order := 0 }] }) ready with cycle := cycle }
theorem has_regrouping_clocks : [clocked 255, clocked 256].all (fun s => match s.team? team0 with
    | some t => !t.retired && t.haltedAt.isNone && (t.stack.find? (fun e => e.id == 5)).isSome &&
        then? (.compactionTimeout team0 5) s (fun t' => match t'.team? team0 with | some x => (x.stack.all (fun e => e.bins.isEmpty)) == decide (256 ≤ s.cycle) | none => false) &&
        then? (.reorderTimeout team0 0) s (fun t' => match t'.team? team0 with | some x => (x.reorder.get 0 []).isEmpty == decide (256 ≤ s.cycle) | none => false) &&
        then? (.spawnLeftoverTimeout team0 0) s (fun t' => match t'.team? team0 with | some x => x.spawned.isEmpty == decide (256 ≤ s.cycle) | none => false)
    | none => false) = true := by decide
theorem has_halted_clocks : ((onTeams (fun t => { t with haltedAt := some 3 }) (clocked 300)).team? team0).any (fun t => t.haltedAt.isSome) = true := by decide

/-! ### Witnesses: replies, walks, store queues and instruction lines -/

/-- A load of the group waits for lane 0's v3, with one entry out since cycle 0; it is the only one. -/
def loadOut : State :=
  let e : LodgeEntry := { id := 1, team := team0, op := 7, st := .out, line := 0, port := 8, home := false, await := [], since := 0, lanes := [(0, 0)] }
  let p : PendOp := { id := 7, place := 0, vals := [.v 0 0 3 { val := 0x5A, poison := none }], entries := [1], bank := false, known := true, acquire := false, late := [] }
  (onTeams (fun t => { t with pend := [p] }) ready).setQuad 0 { Quad.reset with lodge := [e] }
def v3 (t : State) : Option VReg := (lane 0 t).map (fun x => x.vreg 3)
def landed (x : VReg) (t : State) : Bool := decide (v3 t = some x) && (t.quad 0).lodge.isEmpty && (match t.team? team0 with | some T => T.pend.isEmpty | none => false)
theorem has_lodge_reply :
    ((loadOut.quad 0).lodge.map (fun e => (e.await.length, loadOut.pathUp 0 e.port)) = [(0, true)]) ∧ (loadOut.team? team0).any (fun T => T.ref == team0 && T.pend.all (fun p => p.known && p.late.isEmpty)) = true ∧
    then? (.lodgeReply 0 1 false) loadOut (landed { val := 0x5A, poison := none }) = true ∧ then? (.lodgeReply 0 1 true) loadOut (landed { val := 0, poison := some .uncorrectable }) = true ∧
    then? (.lodgeTimeout 0 1) { loadOut with cycle := 2 ^ 21 } (fun t => landed { val := 0, poison := some .uncorrectable } t && (t.ctx 0).lodgeto == 1) = true ∧
    loadOut.cycle < 0 + 2 ^ 21 := by decide
def bankLoad : State :=
  onTeams (fun t => { t with pend := [{ id := 7, place := 0, vals := [.v 0 0 3 { val := 0x5A, poison := none }], entries := [], bank := true, known := true, acquire := false, late := [] }] }) ready
theorem has_scratchpad_reply : (bankLoad.team? team0).any (fun T => T.ref == team0 && T.quads.contains 0 && T.pend.all (fun p => p.bank && p.known && p.late.isEmpty && p.place / 16 == T.slotOf 0)) = true ∧
    then? (.scratchpadLoadReturn 0 7) bankLoad (landed { val := 0x5A, poison := none }) = true := by decide
theorem has_scratchpad_reply_unique : ∀ c ∈ bankLoad.clusters, ∀ T ∈ c.teams, ∀ p ∈ T.pend, p.id = 7 → c.teams.length = 1 ∧ T.pend.length = 1 := by decide
/-- Tables for page 0 of context 0, with the leaf given, and a walk of core 0 that waits for it since cycle 0. -/
def walking (leaf : Nat) : State :=
  let s := onCtx (fun c => { c with en := true, root := 0x100000 }) State.reset
  let m := [0x101001, 0x102001, 0x103001, 0x104001].mapIdx (fun i x => (0x100000 + 4096 * i, x))
  { s with mem := ((m ++ [(0x104000, leaf)]).foldl (fun (m : Memory) (x : Nat × Nat) => m.writeBytes x.1 (bytesOfNat 8 x.2)) []), walkWait := [(0, 0, 0, 0)] }
/-- No lane from or to the port of stack 0 carries flits. -/
def darkPort (i j : Nat) (s : State) : State :=
  let d : FDir := { FDir.reset with lanes := List.replicate 8 { st := .lost, fails := 0, darkWait := false, exempt := false, marginal := false }, out := [0, 1] }
  s.setPair (pairKey i j) { Pair.reset with a := d, b := d }
def walkedTo (s : State) : Nat := match walkFrom s 0 5 (s.ctx 0).root false with | .leaf l a e => if s.leafBad 0 l a e || !pteBit e 1 then 1 else 2 | .poison _ => 0
theorem has_page_walk :
    (walking 0x200017).walkWait.any (Stated.waitsFor 0 0 0) = true ∧ (walking 0x200017).walkStuck 0 0 0 .load = false ∧ (walking 0x200017).mem.wf = true ∧ walkedTo (walking 0x200017) = 2 ∧
    walkedTo (walking 0x200C17) = 1 ∧ walkedTo (walking 0x200015) = 1 ∧ walkedTo (walking 0) = 0 ∧ State.reset.walkWait.any (Stated.waitsFor 0 0 0) = false ∧
    (darkPort 0 (8 + (walking 0x200017).homeStack 0x100000) (walking 0x200017)).walkStuck 0 0 0 .load = true ∧
    then? (.pageWalk 0 0 0) (walking 0x200017) (fun t => t.mem.nat 0x104000 8 == 0x200117 && t.walkWait.isEmpty && !t.tlb.isEmpty) = true ∧
    (walking 0).walkDark 0 0 0 = false ∧ then? (.walkDarkTimeout 0 0 0) { darkPort 0 (8 + (walking 0).homeStack 0x100000) (walking 0) with cycle := 2 ^ 21 } (fun t => decide (t.walkFail = [(0, 0, 0)])) = true := by decide
/-- The group's store queue holds one store of a byte at 0x200000 or in the scratchpad, asked for at cycle 0. -/
def queued (sp : Space) (un : Bool) : State :=
  onGroups (fun g => { g with storeQ := [{ item := .store [(0x200000, 7)], space := sp, home := [], keep := 1, since := 0, leaves := [], unverified := un, done := [], asked := some 0 }] }) ready
def owning (s : State) : State := { s with coh := { s.coh with l1 := [{ core := 0, block := 0x8000, st := .e, keep := 1 }], l2 := [{ chiplet := 0, block := 0x8000, st := .e, ctx := 0, keep := 1 }] } }
def headIs (s : State) (c : Team → Group → SqEntry → Bool) : Bool := match s.headOf 0 0 with | some (T, g, e) => e.home.isEmpty && c T g e | none => false
/-- The queue's store has left for its peer, whose acknowledgement it waits for. -/
def peerSent : State → State := onGroups (fun g => { g with storeQ := g.storeQ.map (fun e => { e with done := [0x8000] }) })
def dirHas (d : DirEntry) (s : State) : State := { s with coh := { s.coh with dir := [(0x8000, d)] } }
def wrote (t : State) : Bool := t.mem.read 0x200000 == 7 && (grp t).any (fun g => g.storeQ.isEmpty)
theorem has_store_queues :
    (headIs (queued .phys true) (fun _ _ e => e.unverified) && headIs (queued .spad false) (fun _ _ e => !e.unverified && decide (e.space = .spad)) &&
      headIs (owning (queued .phys false)) (fun T _ e => !e.unverified && decide (e.space = .phys) && e.blocks.all (fun b => decide ((owning ready).coh.l1St ((owning ready).l1Core T (64 * b)) b = .e))) &&
      headIs (queued .phys false) (fun T _ e => !e.unverified && e.blocks.any (fun b => decide (ready.coh.l1St (ready.l1Core T (64 * b)) b = .i))) &&
      headIs (queued (.peer 5) false) (fun T _ e => decide (e.space = .peer 5) && ready.pathUp (T.core / 32) ioPort) &&
      then? (.storeQueueDrain 0 0) (queued .phys true) (fun t => !wrote t) && then? (.storeQueueDrain 0 0) (owning (queued .phys false)) wrote &&
      then? (.storeQueueDrain 0 0) (queued (.peer 5) false) (fun t => decide (t.out.peer = [(5, .write 0x200000 [7])]) && (grp t).any (fun g => decide (g.storeQ.map (·.done) = [[0x8000]]))) &&
      then? (.storeQueueDrain 0 0) (peerSent (queued (.peer 5) false)) (fun t => t.out.peer.isEmpty && (grp t).any (fun g => g.storeQ.isEmpty)) && !(queued (.peer 5) false).missFull 0 &&
      (ready.leavesWait 0 []).isNone && (match (dirHas { DirEntry.reset with host0 := .s } ready).leavesWait 0 [0x200000] with | some (dark, _) => !dark | none => false) &&
      decide ((queued (.peer 5) false).missFull 0 = false)) = true := by decide
theorem has_dark_store :
    (let dark := darkPort 0 (8 + ready.homeStack 0x200000) { queued .phys false with cycle := 2 ^ 21 }
     headIs dark (fun T _ e => e.asked == some 0 && (e.blocks.map (fun b => dark.portOf (64 * b))).any (fun p => !dark.pathUp (T.core / 32) p)) &&
       headIs (queued .phys false) (fun T _ e => e.asked == some 0 && !(e.blocks.map (fun b => ready.portOf (64 * b))).any (fun p => !ready.pathUp (T.core / 32) p))) = true := by decide
/-- Code at 0x200000, mapped from 0; one slot's parity does not fit. -/
def coded : State :=
  let s := onCtx (fun c => { c with en := true }) State.reset
  { s with tlb := [{ unit := 0, ctx := 0, base := 0, size := 4096, pte := 0x200309, leaf := 0x100000 }], mem := s.mem.writeBytes 0x200000 ([1] ++ List.replicate 59 0 ++ [0, 0, 0, 8]) }
theorem has_instruction_line :
    ((coded.iline 0 0 0).isNone && !coded.walkStuck 0 0 0 .fetch && (match (Stated.asModule coded).translate 0 0 0 .fetch with | (.ok l, s1) => l.pa == 0x200000 && (match s1.reach 0 0 [l.pa / 64] [] with | .go _ => true | _ => false) | _ => false) && decide ((coded.icache.get 0 []).length < 2048) &&
      then? (.icacheFill 0 0 0 0x10) coded (fun t => (t.icache.get 0 []).any (fun x => x.slots.getD 0 0 == 1 && x.word == 0x08000000 && x.bad == 0x11))) = true := by decide
theorem has_instruction_drop :
    (let s := onGroups (fun g => { g with parked := some (.icinv (some [0]) (some (0, 64))) }) ready
     ((s.groupsOn 0).find? (fun x => x.2.place == 0)).isSome && then? (.icacheLinesDropped 0 0) s (fun t => (t.icache.get 0 []).isEmpty && (grp t).any (fun g => g.parked.isNone))) = true := by decide

/-! ### Witnesses: the bell, homes, forwards, hosts and peers -/

def withCoh (h : Coh → Coh) (s : State) : State := { s with coh := h s.coh }
/-- Core 3's request for device block 0x8000 or host block 2^42 waits on the bell of chiplet 0 since cycle 0. -/
def bellReq (kind : BellKind) (block : Nat) : BellReq := { core := 3, kind := kind, block := block, sent := 0, ctx := 0, keep := 1 }
def ringing (kind : BellKind) (block cycle : Nat) : State := { withCoh (fun c => { c with bell := [(0, [bellReq kind block])] }) State.reset with cycle := cycle }
def l2Has (st : Mesi) : State → State := withCoh (fun c => { c with l2 := [{ chiplet := 0, block := 0x8000, st := st, ctx := 0, keep := 1 }] })
def l1Has (core : Nat) (st : Mesi) : State → State := withCoh (fun c => { c with l1 := c.l1 ++ [{ core := core, block := 0x8000, st := st, keep := 1 }] })
theorem has_bell :
    ((State.reset.coh.bell.get 0 []).isEmpty && (ringing .gets 0x8000 13).cycle == 13 && (bellFirst ((ringing .gets 0x8000 14).bellGoes 0) (bellDue 14 ((ringing .gets 0x8000 14).coh.bell.get 0 [])) []).isSome && isDevice (64 * 0x8000) &&
      decide ((ringing .getx 0x8000 14).coh.l2St 0 0x8000 = .i) && decide ((l2Has .s (ringing .upg 0x8000 14)).coh.l2St 0 0x8000 = .s) &&
      then? (.bellDeliver 0) (ringing .put 0x8000 14) (fun t => (t.coh.bell.get 0 []).isEmpty) &&
      decide ((l2Has .e (ringing .gets 0x8000 14)).coh.l2St 0 0x8000 = .e) && decide ((l2Has .m (ringing .getx 0x8000 14)).coh.l2St 0 0x8000 = .m) &&
      then? (.bellDeliver 0) (ringing .gets 0x8000 14) (fun t => (t.coh.homes.get (t.homeStack 0x200000) []).length == 1 && (t.coh.bell.get 0 []).isEmpty)) = true := by decide
/-- A request for block 0x8000 waits at its home. -/
def k0 : Nat := State.reset.homeStack 0x200000
def homeReq (kind : HomeKind) : HomeReq := { kind := kind, block := 0x8000, who := 0, core := 3, src := 0, ctx := 0, keep := 1, waitFwd := false, since := 0 }
def atHome (kind : HomeKind) (s : State := State.reset) : State := withCoh (fun c => { c with homes := [(k0, [homeReq kind])] }) s
def answerable (s : State) : Bool := s.whoUp k0 0 && s.coh.notices.isEmpty && s.canAllocate 0 0x8000 && (s.coh.homes.get k0 []).length == 1
def asks (i : Instr) (kind : HomeKind) : Bool := answerable (atHome kind) && (match Stated.homeEvent i with | some (k, want, _, _) => k == k0 && want kind | none => false)
theorem has_home_order :
    (asks (.homeRead k0) .read && asks (.homeOwnership k0) .ownership && asks (.homeAtomic k0) .atomic && asks (.homeHst k0) .hst && asks (.homeHst k0) .uncachedWrite && asks (.homeHutRead k0) .hutRead &&
      asks (.homeUncachedRead k0) .uncachedRead && !(darkPort 0 (8 + k0) (atHome .read)).whoUp k0 0 &&
      (let s := dirHas { DirEntry.reset with host0 := .e } (atHome .ownership)
       !((s.coh.dirEntry 0x8000).hostConflicts true).isEmpty && then? (.homeOwnership k0) s (fun t => t.coh.backInv.length == 1)) &&
      (let s := dirHas { DirEntry.reset with present := 2, owner := some 1 } (atHome .read)
       ((s.coh.dirEntry 0x8000).hostConflicts false).isEmpty && then? (.homeRead k0) s (fun t => (t.coh.fwds.get 1 []).length == 1 && (t.coh.homes.get k0 []).all (fun r => r.waitFwd)))) = true := by decide
/-- Witness of the order among the requests of a home: with one request, none stands before it. -/
theorem has_home_first : Stated.First (atHome .read) k0 (fun x => decide (x = .read)) (homeReq .read) :=
  ⟨0, rfl, by decide, fun h => Exists.elim h.2 (fun _ hn => List.not_mem_nil hn.1), fun j _ h => absurd h (Nat.not_lt_zero j)⟩
/-- The store-queue heads that an atomic and an uncached write come from. -/
def atomHead : SqEntry :=
  { item := .atomic .add false 4 [{ addr := 0x200000, val := 5, cmp := 0, block := 0, lane := 0 }] none none, space := .phys, home := [0x8000], keep := 1, since := 0, leaves := [], unverified := false, done := [], asked := some 0 }
def storeHead : SqEntry := { atomHead with item := .store [(0x200000, 7)] }
theorem has_home_service :
    (decide ((atHome .read).coh.dirEntry 0x8000 = DirEntry.reset) && decide ((atHome .read).coh.l2St 0 0x8000 = .i) &&
      (let s := onGroups (fun g => { g with storeQ := [atomHead] }) (atHome .atomic ready)
       (match (Stated.asModule s).sourceOf (homeReq .atomic) with | some (_, _, e) => decide (e = atomHead) | none => false) && then? (.homeAtomic k0) s (fun t => t.mem.nat 0x200000 4 == 5 && (t.coh.homes.get k0 []).isEmpty)) &&
      (let s := onGroups (fun g => { g with storeQ := [storeHead] }) (atHome .uncachedWrite ready)
       (match (Stated.asModule s).sourceOf (homeReq .uncachedWrite) with | some (_, _, e) => decide (e = storeHead) | none => false) && then? (.homeHst k0) s (fun t => t.mem.read 0x200000 == 7 && (t.coh.homes.get k0 []).isEmpty)) &&
      then? (.homeHst k0) (atHome .hst) (fun t => (t.coh.homes.get k0 []).isEmpty) && then? (.homeHutRead k0) (atHome .hutRead) (fun t => (t.coh.homes.get k0 []).isEmpty) &&
      then? (.homeUncachedRead k0) (atHome .uncachedRead) (fun t => (t.coh.homes.get k0 []).isEmpty) &&
      then? (.homeNotice k0) (dirHas { DirEntry.reset with present := 1, owner := some 0 } (atHome (.notice true))) (fun t => (t.coh.homes.get k0 []).isEmpty && (t.coh.dirEntry 0x8000).present == 0)) = true := by decide
def forwarded (own : Bool) : State :=
  dirHas { DirEntry.reset with present := 1, owner := some 0 } (l1Has 3 .m (l2Has .m (withCoh (fun c => { c with fwds := [(0, [{ block := 0x8000, stack := k0, own := own }])] }) State.reset)))
def noticed (sent : Bool) : State → State := withCoh (fun c => { c with notices := [{ chiplet := 0, block := 0x8000, dirty := true, sent := sent }] })
theorem has_forwards_and_notices :
    ((forwarded true).pathUp 0 (8 + k0) && !(darkPort 0 (8 + k0) (forwarded true)).pathUp 0 (8 + k0) &&
      then? (.forward 0) (forwarded true) (fun t => decide (t.coh.l1St 3 0x8000 = .i) && (t.coh.dirEntry 0x8000).present == 0) &&
      then? (.forward 0) (forwarded false) (fun t => decide (t.coh.l1St 3 0x8000 = .s) && (t.coh.dirEntry 0x8000).owner.isNone) &&
      then? (.forward 0) (noticed true (forwarded true)) (fun t => decide (t.coh.l1St 3 0x8000 = .m) && (t.coh.dirEntry 0x8000).present == 0) &&
      (noticed true State.reset).wayUp (8 + k0) 0 && then? (.noticeAck 0 0x8000) (noticed true State.reset) (fun t => t.coh.notices.isEmpty) &&
      then? (.noticeAck 0 0x8000) (noticed false State.reset) (fun t => !t.coh.notices.isEmpty) &&
      (noticed false State.reset).wayUp 0 ((noticed false State.reset).portOf 0x200000) && !(darkPort 0 (8 + k0) (noticed false State.reset)).wayUp 0 ((noticed false State.reset).portOf 0x200000) &&
      then? (.noticeResend 0 0x8000) (noticed false State.reset) (fun t => t.coh.notices.all (fun n => n.sent) && (t.coh.homes.get k0 []).length == 1)) = true := by decide
/-- A block of the host behind port 0, held by chiplet 0 in a state and dirty or not. -/
def hb : Nat := 2 ^ 42
def hostHeld (st : Mesi) : State :=
  withCoh (fun c => { c with filter := [(0, hb, 0, st)], l2 := [{ chiplet := 0, block := hb, st := st, ctx := 0, keep := 1 }], l1 := [{ core := 3, block := hb, st := st, keep := 1 }] }) State.reset
theorem has_host_snoops :
    (2 ^ 48 ≤ 64 * hb ∧ 64 * hb < 3 * 2 ^ 48 ∧ (64 * hb < 2 ^ 49 ↔ (0 : Fin 2) = 0)) ∧ (64 * (3 * 2 ^ 42 - 1) < 3 * 2 ^ 48 ∧ (64 * (3 * 2 ^ 42 - 1) < 2 ^ 49 ↔ (1 : Fin 2) = 0)) ∧
    ((hostHeld .m).coh.holders hb).any (fun f => (hostHeld .m).coh.dirty f.2.2.1 hb) = true ∧ ((hostHeld .s).coh.holders hb).any (fun f => (hostHeld .s).coh.dirty f.2.2.1 hb) = false ∧
    then? (.snpinv 0 hb) (hostHeld .m) (fun t => decide (t.out.snoop = [(0, hb, 1)]) && t.coh.l1.isEmpty) = true ∧
    then? (.snpdata 0 hb) (hostHeld .e) (fun t => decide (t.out.snoop = [(0, hb, 2)]) && t.coh.l1.all (fun e => decide (e.st = .s))) = true ∧
    then? (.snpcur 0 hb) (hostHeld .m) (fun t => decide (t.out.snoop = [(0, hb, 5)])) = true := by decide
def asksHost (own : Bool) (s : State) : State := withCoh (fun c => { c with cxlReqs := [{ port := 0, block := hb, core := 3, own := own, ctx := 0, keep := 1 }] }) s
theorem has_host_grants :
    (State.reset.coh.cxlReqs.find? (fun r => r.port == 0 && r.block == hb)).isNone = true ∧ (asksHost true State.reset).pathUp 24 0 = true ∧ (asksHost true State.reset).canAllocate 0 hb = true ∧
    (List.replicate 64 (7 : Byte)).length = 64 ∧ State.reset.mem.wf = true ∧ then? (.cxlCacheResponse 0 hb .s (List.replicate 64 7)) (asksHost true State.reset) (fun t => t.coh.cxlReqs.length == 1) = true := by decide
/-- Both ports' links are up for `CXL.mem`, with the first decoder of each committed over all device memory (R69). -/
def hosted (s : State := State.reset) : State :=
  let p : Pf := { State.reset.pf0 with linkUp := true, cxl := true, hdm := [{ base := 0, size := 2 ^ 40, committed := true }] }
  { s with pf0 := p, pf1 := p }
theorem has_host_requests :
    (64 * 0x8000 < 2 ^ 40 ∧ hosted.hdmOpen 0 0x8000 = true ∧ State.reset.hdmOpen 0 0x8000 = false ∧ hosted.trackersFull 0 = false ∧ (State.reset.coh.homes.get k0 []).all (fun r => r.block != 0x8000) = true ∧ State.reset.pathUp 24 (8 + k0) = true ∧ (State.reset.coh.dirEntry 0x8000).chiplets = []) ∧
    then? (.hostM2sRequest 0 0x8000 .readOwn) hosted (fun t => decide ((t.coh.dirEntry 0x8000).host0 = .e) && decide (t.out.host = [(0, 0x8000, true)])) = true ∧
    then? (.hostM2sRequest 0 0x8000 (.write (List.replicate 64 9))) hosted (fun t => t.mem.read 0x20003F == 9) = true ∧
    then? (.hostM2sRequest 0 0x8000 .readShared) (dirHas { DirEntry.reset with host1 := .e } hosted) (fun t => (t.coh.homes.get k0 []).length == 1 && t.coh.backInv.length == 1) = true ∧
    then? (.birsp 1 0x8000 (some (List.replicate 64 9))) (withCoh (fun c => { c with backInv := [(1, 0x8000, true)] }) (dirHas { DirEntry.reset with host1 := .e } State.reset))
      (fun t => decide ((t.coh.dirEntry 0x8000).host1 = .i) && t.mem.read 0x200000 == 9 && t.coh.backInv.isEmpty) = true ∧
    then? (.hostDarkTimeout 0 0x8000) (darkPort 24 (8 + k0) { withCoh (fun c => { c with homes := [(k0, [{ homeReq (.hostM2s .readOwn) with who := 8 }])] }) State.reset with cycle := 2 ^ 21 })
      (fun t => decide (t.out.host = [(0, 0x8000, false)]) && (t.coh.homes.get k0 []).isEmpty) = true ∧ (darkPort 24 (8 + k0) State.reset).pathUp 24 (8 + k0) = false := by decide
theorem has_peer_requests :
    (2 ^ 40 < 2 ^ 40 - 7 + peerSize (.read 8) ∧ 2 ^ 40 - 8 + peerSize (.read 8) ≤ 2 ^ 40 ∧ 0 < peerSize (.write [1]) ∧ State.reset.badAt 0x200000 8 = false ∧
      State.reset.pathUp 24 (8 + State.reset.homeStack (64 * 0x8000)) = true ∧ (State.reset.coh.homes.get k0 []).isEmpty = true ∧ (State.reset.coh.dirEntry 0x8000).host0 = .i ∧ (State.reset.coh.dirEntry 0x8000).host1 = .i) ∧
    then? (.peerRequest 3 (2 ^ 40 - 7) (.read 8)) State.reset (fun t => decide (t.out.peer = [(3, .answer (2 ^ 40 - 7) none)])) = true ∧
    then? (.peerRequest 3 0x200000 (.atomicAdd 4 5)) State.reset (fun t => t.mem.nat 0x200000 4 == 5 && decide (t.out.peer = [(3, .answer 0x200000 (some [0, 0, 0, 0]))])) = true ∧
    then? (.peerDarkTimeout 3 0x200000) (darkPort 24 (8 + k0) { State.reset with cycle := 2 ^ 21, peerReqs := [(3, 0x200000, .read 8, 0)] }) (fun t => decide (t.out.peer = [(3, .answer 0x200000 none)]) && t.peerReqs.isEmpty) = true := by decide

/-! ### Witnesses: the fabric -/

def dir01 : DirRef := { src := 0, dst := 1 }
/-- Lane 7 of the direction in a state. -/
def laneIs (l : FLane) (s : State) : State := s.setPair (pairKey 0 1) { Pair.reset with a := { FDir.reset with lanes := FDir.reset.lanes.set 7 l, flitResends := 7 } }
def lane7 (t : State) : Option FLane := Stated.laneAt t dir01 7
def flane (st : LaneState) (fails : Nat) : FLane := { st := st, fails := fails, darkWait := false, exempt := false, marginal := false }
theorem has_fabric_lanes :
    (dir01.src ≠ dir01.dst ∧ dir01.src < 25 ∧ dir01.dst < 25 ∧ ((24 : Nat) < 25)) ∧
    then? (.fecWindowEnd ⟨dir01, 7⟩ 4097) (laneIs (flane .active 0) State.reset) (fun t => decide (lane7 t = some (flane .drain 0))) = true ∧
    then? (.fecWindowEnd ⟨dir01, 7⟩ 4096) (laneIs (flane .active 0) State.reset) (fun t => decide (lane7 t = some (flane .active 0))) = true ∧
    then? (.resend dir01 [7]) (laneIs (flane .active 0) State.reset) (fun t => (t.pair (pairKey 0 1)).resends == 1) = true ∧
    then? (.laneDrainEnd ⟨dir01, 7⟩) (laneIs (flane .drain 0) State.reset) (fun t => decide (lane7 t = some (flane .train 0))) = true ∧
    then? (.laneTrainPass ⟨dir01, 7⟩) (laneIs (flane .train 2) State.reset) (fun t => decide (lane7 t = some (flane .ready 2))) = true ∧
    then? (.laneTrainFail ⟨dir01, 7⟩) (laneIs (flane .train 1) State.reset) (fun t => decide (lane7 t = some (flane .train 2))) = true ∧
    then? (.laneTrainFail ⟨dir01, 7⟩) (laneIs (flane .train 2) State.reset) (fun t => decide (lane7 t = some (flane .dead 3))) = true ∧
    then? (.laneHandback ⟨dir01, 7⟩) (laneIs (flane .ready 2) State.reset) (fun t => decide (lane7 t = some (flane .active 0)) && (t.pair (pairKey 0 1)).retrains == 1) = true := by decide
theorem has_fabric_routing :
    then? (.colourLost dir01 1) State.reset (fun t => decide (lane7 t = some (flane .lost 0)) && decide (Stated.laneAt t dir01 6 = some (flane .active 0))) = true ∧
    then? (.colourRegained dir01 1) (laneIs (flane .lost 0) State.reset) (fun t => decide (lane7 t = some (flane .train 0))) = true ∧
    then? (.routingApply dir01) (State.reset.setPair (pairKey 0 1) { Pair.reset with mode := 1, relay := 24 }) (fun t => (t.dirOf 0 1).mode == 1 && (t.dirOf 0 1).relay == 24) = true ∧
    then? (.planeDark 3) State.reset (fun t => t.boot.planedark == 8 && decide (lane7 t = some { flane .train 0 with darkWait := true, exempt := true })) = true ∧
    then? (.planeLit 3) (laneIs { flane .train 0 with darkWait := true, exempt := true } { State.reset with boot := { State.reset.boot with planedark := 8 } }) (fun t => t.boot.planedark == 0 && decide (lane7 t = some { flane .train 0 with exempt := true })) = true := by decide

/-! ### Witnesses: engines, huts, summit scans and arrays -/

/-- One command of core 0's engine. -/
def command (c : Cmd) (s : State := mapped readyPorter) : State := { s with cmds := [c] }
def newCmd : Cmd := { cmdOfWord with id := 4, team := team0, accepted := false, sent := false }
def acceptIs (s : State) (r : Nat) : Bool :=
  match s.nextCmd 0 with
  | some c => decide (c.op ≤ 5) && c.core == 0 && !c.accepted && !c.unverified && ((Stated.asModule s).checkCmd c).1 == r
  | none => false
def recordGives (s : State) (c : Cmd) (w : Nat) : Bool :=
  match (Stated.asModule s).readRecord c.core c.team.vf c.a.toNat with | (.wait _, _) => w == 0 | (.fault _, _) => w == 1 | (.ok bs, _) => w == (if shapeReason (BitVec.ofNat 512 (natOfBytes bs)) = 0 then 2 else 3)
/-- A fill of one line of the scratchpad, and one past its end. -/
def fillCmd (n : DWord) : Cmd := { newCmd with op := 5, b := n }
/-- Shape records: 64 bytes from 0 that may be written, 8 bytes, and one of no rank; kept at addresses 0, 64 and 128 of the engine's record cache. -/
def recorded (s : State) : State := { s with recCache := [(0, [(0, 0, bytesOfNat 64 (2 ^ 69 + 2 ^ 80 + 64 * 2 ^ 96)), (0, 64, bytesOfNat 64 (2 ^ 80))])] }
theorem has_acceptance :
    ((State.reset.nextCmd 0).isNone && acceptIs (command (fillCmd 64)) 0 && acceptIs (command (fillCmd 2)) 7 && ((command { fillCmd 64 with unverified := true }).nextCmd 0).any (fun c => c.unverified) &&
      (fillCmd 64).op == 5 && !(fillCmd 64).mod.getLsbD 5 && newCmd.op != 1 && newCmd.op != 5 && { newCmd with a := 60 }.a.toNat % 64 != 0 &&
      recordGives (recorded (command newCmd)) newCmd 2 && acceptIs (recorded (command { newCmd with op := 0, shape := BitVec.ofNat 512 (2 ^ 69 + 2 ^ 80 + 64 * 2 ^ 96) })) 0 &&
      recordGives (recorded (command newCmd)) { newCmd with a := 64 } 3 && recordGives (command newCmd) { newCmd with a := 0x40000000 } 1 &&
      recordGives (darkPort 0 (8 + k0) (onCtx (fun c => { c with root := 0x200000 }) (command newCmd))) { newCmd with a := 0x40000000 } 0 &&
      then? (.asyncAccept 0) (command (fillCmd 64)) (fun t => t.cmds.all (fun c => c.accepted && c.total == 64)) &&
      then? (.asyncAccept 0) (command (fillCmd 2)) (fun t => t.cmds.isEmpty) &&
      ({ newCmd with after := [9] } : Cmd).after.all (fun n => (command newCmd).cmds.all (fun k => k.id != n))) = true := by decide
def fillRuns : Cmd := { fillCmd 64 with accepted := true, total := 64, counted := 64 }
def copyRuns (base : Nat) : Cmd := { newCmd with op := 0, accepted := true, total := 64, counted := 64, shape := BitVec.ofNat 512 (base + 2 ^ 69 + 2 ^ 80 + 64 * 2 ^ 96) }
/-- How the next block of a running command ends: 0 it waits, 1 it fails, 2 it is written. -/
def blockEnds (s : State) (c : Cmd) : Option Nat :=
  if s.cmdRuns c && c.writeFault.isNone then
    match s.readIdxs c with
    | some c1 => (c1.blocks[c1.next]?).map (fun key => match ((Stated.asModule s).cmdBlock c1 key).1 with | .waits _ => 0 | .fails _ => 1 | .written _ => 2 | .sent _ => 3)
    | none => none
  else none
theorem has_block_written : blockEnds (command fillRuns) fillRuns = some 2 ∧
    then? (.asyncBlockWrite 4) (command fillRuns) (fun t => t.cmds.all (fun c => c.next == 1 && c.subbed == 64)) = true := by decide
theorem has_block_failed : blockEnds (command (copyRuns 0x40000000)) (copyRuns 0x40000000) = some 1 := by decide
theorem has_block_waiting : blockEnds (darkPort 0 (8 + k0) (command (copyRuns 0))) (copyRuns 0) = some 0 := by decide
theorem has_block_stopped :
    ((command { fillRuns with cancel := true }).cmdRuns { fillRuns with cancel := true } = false) ∧
    (command { newCmd with op := 1, accepted := true, b := 4 }).cmdRuns { newCmd with op := 1, accepted := true, b := 4 } = true ∧ ({ newCmd with op := 1, accepted := true, b := 4 } : Cmd).writeFault.isSome = true ∧
    ((command { copyRuns 0 with op := 2, imm := 1 }).team? team0).isSome = true ∧
    (onTeams (fun t => { t with absent := [(0, 1)] }) (command { copyRuns 0 with op := 2, imm := 1 })).readIdxs { copyRuns 0 with op := 2, imm := 1 } = none := by decide
theorem has_command_timeout : ({ copyRuns 0 with asked := some 0 } : Cmd).asked = some 0 ∧
    then? (.asyncDarkTimeout 4) (command { copyRuns 0 with asked := some 0 }) (fun t => t.cmds.all (fun c => c.next == 0)) = true ∧
    then? (.asyncDarkTimeout 4) { command { copyRuns 0 with asked := some 0 } with cycle := 2 ^ 21 } (fun t => t.cmds.all (fun c => c.next == 1 && decide (c.fault = some .uncorrectable))) = true ∧
    then? (.asyncDarkTimeout 4) { command { newCmd with asked := some 0 } with cycle := 2 ^ 21 } (fun t => t.cmds.isEmpty) = true := by decide
theorem has_completion :
    then? (.asyncComplete 4) (command { fillRuns with cancel := true }) (fun t => t.cmds.isEmpty) = true ∧
    then? (.asyncComplete 4) (command { newCmd with result := some (.part, 0), finished := true }) (fun t => t.cmds.isEmpty) = true ∧
    then? (.asyncComplete 4) (command { fillRuns with reject := some 4 }) (fun t => t.cmds.isEmpty) = true ∧
    ({ fillRuns with next := 1 } : Cmd).blocks.length ≤ 1 ∧ then? (.asyncComplete 4) (command { fillRuns with next := 1 }) (fun t => t.cmds.isEmpty) = true ∧
    then? (.asyncComplete 4) (command { fillRuns with next := 1, fault := some .pageFault }) (fun t => t.cmds.isEmpty) = true := by decide
/-- An `ahut` RUN block on huts 0 and 1: KIND 2, PID 7, DEADLINE 1, LEN 2,048, one region at page 0; LOAD, REDUCE and the summit commands likewise. -/
def nearBlock (fields : List (Nat × Nat)) : Nat := sumOf (fields.map (fun x => x.2 * 2 ^ (8 * x.1)))
def runBlock : Nat := nearBlock [(0, 2), (2, 7), (6, 1), (12, 2048), (18, 1)]
def loadBlock : Nat := nearBlock [(0, 1), (2, 7), (5, 1), (6, 1), (12, 2048), (40, 0)]
def reduceBlock : Nat := nearBlock [(0, 3), (2, 7), (6, 1), (12, 2048), (18, 1), (40, 0)]
def predBlock : Nat := nearBlock [(0, 1), (1, 2), (6, 1), (8, 0), (16, 8), (24, 128), (32, 1)]
def topkBlock : Nat := nearBlock [(0, 2), (1, 2), (4, 1), (6, 1), (8, 0), (16, 8), (24, 128)]
def nearCmd (op : Nat) (block : Nat) : Cmd := { newCmd with op := op, shape := BitVec.ofNat 512 block }
/-- VF 0 with every feature, SUMMIT and HUTS among them, negotiated (R72). -/
def featured (s : State) : State := s.setVf 0 { s.vf 0 with tr := { Transport.reset with features := 0xFFFFFFFF, featuresOk := true } }
/-- A page of compute range at 0, readable and writable, whose first word is `hend`, and the block in the record cache. -/
def nearState (op block : Nat) : State :=
  featured <| onCtx (fun c => { c with en := true })
    { command (nearCmd op block) with
      ccbase := 1, ccframes := 1, mem := State.reset.mem.writeBytes 0x200000 (bytesOfNat 4 0x60000000)
      tlb := [{ unit := 0, ctx := 0, base := 0, size := 2 ^ 21, pte := 0x200397, leaf := 0x100000 }], recCache := [(0, [(0, 0, bytesOfNat 64 block)])] }
/-- What an acceptance finds: 0 a wait, 1 a reason of the block alone, 2 a reason of its pages, 3 nothing, 4 a feature that was not negotiated. -/
def looks (op kind block : Nat) (s : State) : Option Nat :=
  match s.nextCmd 0 with
  | some c =>
    if c.unverified || c.op != op || c.a.toNat % 64 != 0 then none
    else match (Stated.asModule s).readRecord 0 0 c.a.toNat with
      | (.ok bs, s1) =>
        let c1 : Cmd := { c with shape := BitVec.ofNat 512 (natOfBytes bs) }
        if !nearTurn op kind c1 || natOfBytes bs != block then none
        else if !(s1.vf 0).feature (if op = 6 then 3 else 2) then some 4
        else if (if op = 6 then c1.hutReason else c1.summitReason) ≠ 0 then some 1
        else match (if op = 6 then s1.lookHut c1 else s1.lookSummit c1) with
          | (.wait _, _) => some 0
          | (.reject _, _) => some 2
          | (.ok _ _, _) => some 3
      | _ => none
  | none => none
theorem has_near_hut : looks 6 1 loadBlock (nearState 6 loadBlock) = some 3 ∧ looks 6 2 runBlock (nearState 6 runBlock) = some 3 ∧ looks 6 3 reduceBlock (nearState 6 reduceBlock) = some 3 ∧
    looks 6 2 (runBlock + 1) (nearState 6 (runBlock + 2)) = none ∧ looks 6 2 (runBlock + 2 ^ 136) (nearState 6 (runBlock + 2 ^ 64)) = none := by decide
theorem has_near_summit : looks 7 1 predBlock (nearState 7 predBlock) = some 3 ∧ looks 7 2 topkBlock (nearState 7 topkBlock) = some 3 := by decide
theorem has_near_reasons : looks 6 2 (runBlock + 2 ^ 64) (nearState 6 (runBlock + 2 ^ 64)) = some 1 ∧ looks 7 1 (predBlock + 2 ^ 24) (nearState 7 (predBlock + 2 ^ 24)) = some 1 ∧
    looks 6 2 runBlock { nearState 6 runBlock with tlb := [] } = some 2 ∧
    looks 6 2 runBlock (darkPort 0 8 (onCtx (fun c => { c with root := 0x200000 }) { nearState 6 runBlock with tlb := [] })) = some 0 := by decide
/-- A LOAD of one word sent to huts 0 and 1, and a RUN waiting at hut 0 whose tag fits. -/
def sentLoad : Cmd := { nearCmd 6 loadBlock with accepted := true, sent := true, prog := [0x60000000] }
def sentRun : Cmd := { nearCmd 6 runBlock with accepted := true, sent := true }
def atHut (h : Hut → Hut) (c : Cmd) : State := { State.reset with cmds := [c], huts := [(0, h { Hut.reset with tag := some (0, 7, 1) })] }
theorem has_hut_load :
    (sentLoad.op = 6 ∧ sentLoad.kind = 1 ∧ sentLoad.sent = true ∧ sentLoad.finished = false ∧ sentLoad.huts.contains 0 = true ∧ sentLoad.arrived.contains 0 = false ∧ Stated.loadOwed (atHut id sentLoad) sentLoad 0 = false ∧
      (atHut id sentLoad).wayUp 0 8 = true ∧ ((atHut id sentLoad).hut 0).running = none) ∧
    then? (.hutLoadArrive 0 4) (atHut id sentLoad) (fun t => (t.hut 0).ib.getD 0 0 == 0x60000000 && decide ((t.hut 0).tag = some (0, 7, 1))) = true ∧
    then? (.hutLoadArrive 0 4) (atHut (fun h => { h with running := some 9 }) sentLoad) (fun t => (t.hut 0).ib.getD 0 0 == 0 && (t.stack 0).busyref == 1) = true := by decide
theorem has_hut_start :
    ((atHut (fun h => { h with queue := [4] }) sentRun).cmd? 4).isSome = true ∧ ((atHut (fun h => { h with queue := [4] }) sentRun).stack 0).huten = true ∧
    Stated.loadOwed (atHut (fun h => { h with queue := [4] }) sentRun) sentRun 0 = false ∧ (sentRun.team.vf, sentRun.pid) = (0, 7) ∧
    then? (.hutCommandStart 0) (atHut (fun h => { h with queue := [4] }) sentRun) (fun t => decide ((t.hut 0).running = some 4) && (t.hut 0).wn == 32 && (t.stack 0).hutcmd == 1) = true ∧
    then? (.hutCommandStart 0) (atHut (fun h => { h with queue := [4], tag := none }) sentRun) (fun t => (t.hut 0).queue.isEmpty && t.cmds.all (fun c => decide (c.hutFault = some 0x34))) = true ∧
    ((atHut (fun h => { h with queue := [4], running := some 3 }) sentRun).hut 0).running.isSome = true := by decide
theorem has_hut_deadline :
    sentRun.deadline = 1 ∧ (atHut id sentRun).cycle < sentRun.acceptedAt + 1024 * sentRun.deadline ∧
    then? (.hutDeadline 4) { atHut (fun h => { h with running := some 4, tag := some (0, 7, 1) }) sentRun with cycle := 1024 } (fun t => (t.hut 0).running.isNone && t.cmds.all (fun c => c.finished)) = true := by decide
/-- A scan of 8 integers at 0, sent, that stack `k` has or has not scanned. -/
def scanCmd (l : List Nat) : Cmd := { nearCmd 7 topkBlock with sent := true, scanned := l, pages := [(0, 0x200007, 0x100000)] }
def scanning (l : List Nat) : State := { State.reset with cmds := [scanCmd l] }
/-- The one element of stack `k`'s first block is scanned with the slot it was granted. -/
def hasSlot (c : Cmd) (k : Nat) : Cmd := { c with granted := [k] }
theorem has_summit_scan :
    (scanCmd []).op = 7 ∧ (scanCmd []).sent = true ∧ (scanCmd []).finished = false ∧ (scanning []).past (scanCmd []) = false ∧
    (scanning []).nextBlock (scanCmd []) k0 = some 0x8000 ∧ (scanning []).nextBlock (scanCmd []) ((k0 + 1) % 16) = none ∧ (scanning []).readFree 0x8000 = true ∧
    (atHome .read).readFree 0x8000 = false ∧
    then? (.summitScanDone ((k0 + 1) % 16) 4) (scanning []) (fun t => t.cmds.all (fun c => c.scanned.contains ((k0 + 1) % 16))) = true ∧
    then? (.summitScanDone k0 4) (scanning []) (fun t => t.cmds.all (fun c => c.scanAt.get k0 0 == 0)) = true ∧
    then? (.summitScanDone k0 4) { scanning [] with cmds := [hasSlot (scanCmd []) k0] } (fun t => t.cmds.all (fun c => c.scanAt.get k0 0 == 1 && c.granted.isEmpty && (c.lists.get k0 ([], 1)).2 == 8)) = true ∧
    (scanning []).blockPoisons (scanCmd []) 0x8000 = false ∧ ({ scanning [] with badBlocks := [0x8000] } : State).blockPoisons (scanCmd []) 0x8000 = true := by decide
theorem has_summit_report :
    (scanning [3]).wayUp 11 (8 + (scanning [3]).collector (scanCmd [3])) = true ∧ (scanCmd [3]).reported.contains 3 = false ∧ (scanCmd []).scanned.contains 3 = false ∧
    then? (.stackListArrive 3 4) (scanning [3]) (fun t => t.cmds.all (fun c => c.reported.contains 3)) = true ∧
    then? (.stackListArrive 3 4) { State.reset with late := [(4, 3, 2)] } (fun t => t.late.isEmpty && (t.stack 2).latedrop == 1) = true := by decide

/-! ### Witnesses: arrays, halts and traps, invalidation and harvest -/

/-- The stream's team with a drain of accumulator 0, and with a tile on its way. -/
def drainOf (dest : DrainTo) (tile : Option (List VReg)) : Drain := { acc := 0, clear := true, dest := dest, tile := tile, next := 0, pc := 0 }
def draining (d : Drain) : State := onSeqs (fun q => { q with drains := [d] }) readyStream
def streamOk (s : State) (c : Team → Seq → Bool) : Bool :=
  match s.team? team0 with
  | some T => T.ref == team0 && s.seqRuns T 0 && (match T.seqs.find? (fun q => q.slot == 0) with | some q => c T q | none => false)
  | none => false
theorem has_array_drains :
    (streamOk readyStream (fun _ q => (match readyStream.seqTeam 0 with | some (_, q') => decide (q' = q) | none => false) && (readyStream.kd? team0).isSome) &&
      streamOk (draining (drainOf (.port false) none)) (fun _ q => q.job.isNone && decide (q.accReady.getD 0 0 ≤ (draining (drainOf (.port false) none)).cycle) && (q.drains.find? (fun d => d.acc == 0 && d.tile.isNone)).isSome) &&
      streamOk (onSeqs (fun q => { q with accReady := [5] }) (draining (drainOf (.port false) none))) (fun _ q => decide (0 < q.accReady.getD 0 0)) &&
      streamOk (draining (drainOf (.port true) (some []))) (fun T q => decide ((T.port (portKey 0 0)).entries.length < 32) && (T.port (portKey 0 0)).readers.isEmpty && q.drains.any (fun d => decide (d.next < 127) && d.tile.isSome)) &&
      then? (.drainEntry team0 0 0) (draining (drainOf (.port true) (some []))) (fun t => match t.team? team0 with | some T => (T.port (portKey 0 0)).entries.length == 1 | none => false)) = true := by decide
theorem has_full_port : streamOk (onTeams (fun t => { t with ports := [(0, { entries := List.replicate 32 [], readers := [] })] }) (draining (drainOf (.port true) (some []))))
    (fun T _ => decide (32 ≤ (T.port (portKey 0 0)).entries.length)) = true := by decide
def sender : TeamRef := { team0 with cteam := 1 }
def tile1 (src dst : TeamRef) : Tile := { id := 3, src := src, srcSlot := 0, srcAcc := 0, pc := 0, dst := dst, slot := 0, acc := 0, bar := none, data := [], since := 0 }
/-- Two teams of one cluster on two cores, and a tile between them. -/
def pair (src dst : TeamRef) (done : Bool) : State :=
  { readyStream with
    clusters := readyStream.clusters.map (fun c => { c with teams := c.teams.flatMap (fun t => [t, { t with ref := sender, core := 1, quads := [4], retired := done }]) }), tiles := [tile1 src dst] }
theorem has_tiles :
    (streamOk (pair sender team0 false) (fun T q => !T.retired && q.job.isNone && (pair sender team0 false).wayUp 0 0 && ((pair sender team0 false).team? sender).any (fun D => D.core / 32 == 0)) &&
      decide (sender ≠ team0) && decide (sender.cluster = team0.cluster) && ((pair sender team0 false).tiles.find? (fun x => x.id == 3)).isSome &&
      streamOk (pair team0 sender true) (fun _ q => q.trap.isNone) && ((pair team0 sender true).team? sender).any (fun D => D.retired) && ((pair team0 sender false).team? sender).any (fun D => !D.retired) &&
      then? (.draddLateFailure 3) (pair team0 sender true) (fun t => t.tiles.isEmpty) && then? (.draddLateFailure 3) (pair team0 sender false) (fun t => !t.tiles.isEmpty)) = true := by decide
/-- VF 0's context on quadrant 0 in a state of pre-emption. -/
def outIs (st : QState) : State := { ready with vfs := vfUp.vfs, parts := vfUp.parts }.setQuad 0 { Quad.reset with out := [(0, { st := st, rows := [], banks := [], acc := false, bsramGone := false })] }
theorem has_preemption :
    (outIs .halting).available 0 0 = true ∧ ((outIs .halting).setVf 0 { vfUp.vf 0 with preempted := true }).available 0 0 = false ∧ ((outIs .halting).teamsOn 0 0).all ((outIs .halting).slotHalted 0) = true ∧
    ((storing (outIs .halting)).teamsOn 0 0).all ((storing (outIs .halting)).slotHalted 0) = false ∧
    (outIs .restoring).roomBack 0 0 { st := .restoring, rows := [], banks := [], acc := false, bsramGone := false } = true ∧
    ({ outIs .halted with parts := [] } : State).spillable ({ outIs .halted with parts := [] } |>.rowsOf 0 0) ({ outIs .halted with parts := [] } |>.banksOf 0 0) = true ∧
    then? (.haltComplete 0) { outIs .halted with parts := [] } (fun t => t.allSpilt 0 0) = true ∧
    then? (.preempt 0) { ready with vfs := vfUp.vfs } (fun t => t.frozen 0 0 && (t.vf 0).preempted) = true ∧
    then? (.haltComplete 0) ((outIs .halting).setVf 0 { vfUp.vf 0 with preempted := true }) (fun t => (t.quad 0).out.any (fun e => decide (e.2.st = .halted) && e.2.acc)) = true ∧
    then? (.restoreComplete 0) (outIs .restoring) (fun t => (t.quad 0).out.isEmpty) = true ∧
    then? (.resumego 0) ((outIs .halted).setVf 0 { vfUp.vf 0 with preempted := true }) (fun t => (t.quad 0).out.any (fun e => decide (e.2.st = .restoring))) = true := by decide
theorem has_run_states :
    then? (.runstateRunning 0) (State.reset.setVf 0 { Vf.reset with gen := 1, msixPend := [(3, 1), (4, 0)] }) (fun t => decide (t.out.msix = [(.vf 0, 3)]) && (t.vf 0).evDrop == 1) = true ∧
    launched.launches.any (fun l => l.vf == 0) = true ∧ vfUp.launches.any (fun l => l.vf == 0) = false ∧
    then? (.runstatePaused 0) vfUp (fun t => decide ((t.vf 0).runstate = .paused)) = true ∧
    then? (.kick 0) (State.reset.setVf 0 { Vf.reset with nwq := 1, queues := [(1, { VQueue.reset with vector := 2 })] }) (fun t => decide (t.out.msix = [(.vf 0, 2)])) = true := by decide
def tinfo : TrapInfo := { cause := 0x38, reason := 0, code := 7, pc := 12, repIdx := 0, lanes := 0xFFFFFFFF, addr := 0, resumable := true }
/-- A record of the group's trap, held or not. -/
def recordOf (hold res seq : Bool) : TrapRec :=
  { TrapRec.reset with valid := true, resumable := res, seq := seq, cause := 0x38, code := 7, pc := 12, lanes := 0xFFFFFFFF, pending := 0xFFFFFFFF, launchId := 1, team := some team0, hold := hold }
def trappedGroup (hold res : Bool) : State := onCtx (fun c => { c with trap := recordOf hold res false }) (onGroups (fun g => { g with trap := some tinfo }) ready)
def trappedStream : State := onCtx (fun c => { c with trap := recordOf true true true }) (onSeqs (fun q => { q with trap := some tinfo }) readyStream)
theorem has_trap_actions :
    (State.reset.ctx 0).trap.valid = false ∧ then? (.trapEnd 0) (trappedGroup false true) (fun t => !(t.ctx 0).trap.valid) = true ∧ ((trappedGroup true false).ctx 0).trap.resumable = false ∧
    then? (.trapResume 0) (trappedGroup true true) (fun t => (grp t).any (fun g => g.trap.isNone)) = true ∧
    then? (.trapResume 0) trappedStream (fun t => (t.team? team0).any (fun T => T.seqs.all (fun q => q.trap.isNone))) = true ∧
    ((trappedGroup true true).clusterOf team0).any (fun c => decide (c.st ≠ .rollback) && !c.escaped && decide (c.retries < 2)) = true ∧
    then? (.trapRelaunch 0) (trappedGroup true true) (fun t => t.clusters.all (fun c => decide (c.st = .rollback) && c.retries == 1 && c.teams.isEmpty)) = true ∧
    ((trappedGroup true true).launch? 0 1).isSome = true ∧ then? (.trapEnd 0) (trappedGroup true true) (fun t => t.clusters.isEmpty && t.out.used.any (fun u => u.record.any (fun r => r.status == 3 && r.reason == 0x38))) = true := by decide
theorem has_break : then? (.brkResume 0) (onGroups (fun g => { g with brk := some 5 }) ready) (fun t => (grp t).any (fun g => g.brk.isNone)) = true ∧
    (ready.team? team0).any (fun T => T.slotOf (T.quads.getD 0 0) == 0) = true := by decide
/-- A hut command of VF 0 that translated page 0 is under way. -/
def underWay : State := onCtx (fun c => { c with ibusy := true, iall := true }) { State.reset with cmds := [hutCmd 0x200007] }
theorem has_invalidation :
    then? (.invalidateComplete 0) { underWay with tlb := (mapped ready).tlb } (fun t => (t.ctx 0).ibusy && t.tlb.isEmpty) = true ∧
    (State.reset.ctx 0).ibusy = false ∧ ((onCtx (fun c => { c with ibusy := true }) State.reset).ctx 0).ibusy = true ∧
    then? (.invalidateGo 0) (mapped ready) (fun t => (t.ctx 0).ibusy && t.tlb.length == 1) = true ∧
    (onCtx (fun c => { c with ibusy := true }) State.reset).accessesDone 0 0 = true ∧
    then? (.invalidateComplete 0) (onCtx (fun c => { c with ibusy := true }) State.reset) (fun t => !(t.ctx 0).ibusy) = true := by decide
theorem has_verify_timeout :
    (let s := onGroups (fun g => { g with heldAt := some 0 }) ready
     ((s.groupsOn 0).find? (fun x => x.2.place == 0)).any (fun x => x.2.heldAt.isSome) = true ∧ s.cycle < 0 + 2 ^ 16) ∧
    then? (.verifyTimeout 0 0) { onGroups (fun g => { g with heldAt := some 0 }) ready with cycle := 2 ^ 16 } (fun t => decide ((t.team? team0).isNone = true)) = true := by decide
def harvesting (n : Nat) : State := onCtx (fun c => { c with en := true, root := 0x100000, hcount := n, hbmp := 0x300000 }) (walking 0x200217)
theorem has_harvest :
    ((harvesting 0).ctx 0).hcount = 0 ∧ 2 ^ 24 < ((harvesting (2 ^ 24 + 1)).ctx 0).hcount ∧ ((harvesting 1).ctx 0).hbusy = false ∧ (harvesting 1).mem.wf = true ∧ ((harvesting 1).leafOfUnit 0 0) = some (0x104000, true) ∧
    then? (.harvestGo 0) (harvesting 0) (fun t => (t.ctx 0).herr) = true ∧
    then? (.harvestGo 0) (harvesting 1) (fun t => (t.ctx 0).hbusy && decide ((t.ctx 0).hdirty = [true]) && t.mem.nat 0x104000 8 == 0x200017) = true ∧
    then? (.harvestComplete 0) (onCtx (fun c => { c with hbusy := true, hread := true, hgo := (0, 3, 0x300000), hdirty := [true, false, true] }) (harvesting 3)) (fun t => !(t.ctx 0).hbusy && t.mem.read 0x300000 == 5) = true := by decide

/-! ### Witnesses: bivouac, boot, lanes and registers -/

def resting (st : BState) (timer : Nat) : State :=
  vfUp.setVf 0 { vfUp.vf 0 with tr := { Transport.reset with features := 0x10, featuresOk := true }, wclass := 2, idle := 5, timer := timer, bstate := st, wakeAt := some 0, lendvf := 1 }
def lender : State := (resting .collapsing 0).setVf 1 { Vf.reset with created := true }
theorem has_bivouac :
    ((resting .active 5).idle 0 = true ∧ ((resting .active 5).vf 0).idle ≤ ((resting .active 5).vf 0).timer ∧ ((resting .active 4).vf 0).timer < ((resting .active 4).vf 0).idle) ∧
    then? (.collapseBegin 0) (resting .active 5) (fun t => decide ((t.vf 0).bstate = .collapsing) && (t.vf 0).collapses == 1) = true ∧
    (lender.vf 0).lendvf.toNat = 1 ∧ (lender.vf 1).created = true ∧ lender.ownQuads 0 = [0] ∧ lender.coh.l2.isEmpty = true ∧
    then? (.collapseComplete 0) lender (fun t => decide ((t.vf 0).bstate = .collapsed) && decide ((t.quad 0).lentTo = some 1)) = true ∧
    then? (.wakeComplete 0) { resting .waking 0 with cycle := 2001 } (fun t => decide ((t.vf 0).bstate = .active) && (t.vf 0).lastwake == 2) = true ∧
    ((resting .waking 0).quad 0).lentTo = none ∧ ((resting .waking 0).quad 0).out.isEmpty = true ∧
    then? (.monitorClr 3) State.reset (fun t => (t.monitors.get 3 Monitor.reset).min == 0xFFFFFFFF) = true ∧
    then? (.monitorClr 3) { State.reset with monitors := [(3, { Monitor.reset with en := true, sampledAt := 0, samples := [7] })] } (fun t => (t.monitors.get 3 Monitor.reset).count == 1) = true := by decide
theorem has_self_refresh : (State.reset.mayRest 0 = true ∨ State.reset.mayRest 0 = false) ∧ ({ lender with restsz := 1, restbase := 2 ^ 34 } : State).mayRest 15 = true ∧ State.reset.mayRest 0 = false ∧ (16 ≤ 16 : Prop) := by decide
def bootAt (n : Nat) (b : Boot → Boot := id) : State := { State.reset with boot := b { State.reset.boot with stage := n } }
theorem has_boot :
    (State.reset.boot.stage = 0 ∧ State.reset.boot.romDone = false ∧ (bootAt 1).boot.stage ≠ 0 ∧ (bootAt 1).boot.images.take 2 = []) ∧
    then? .fwverify (bootAt 1) (fun t => t.boot.stage == 15 && t.boot.failcode == 1) = true ∧
    then? (.meminit true) (bootAt 2) (fun t => t.boot.stage == 3) = true ∧ then? (.meminit false) (bootAt 2) (fun t => t.boot.failcode == 2) = true ∧
    then? (.fabricTrain false) (bootAt 3) (fun t => t.boot.failcode == 3) = true ∧
    then? (.fabricTrain true) (bootAt 3 (fun b => { b with planedark := 8 })) (fun t => t.boot.stage == 4 && decide (lane7 t = some { st := .train, fails := 0, darkWait := true, exempt := true, marginal := false })) = true ∧
    then? .repair (bootAt 4) (fun t => t.boot.stage == 5 && t.pf0.ready) = true ∧
    then? .repair (bootAt 4 (fun b => { b with repair := [(3, 31)], repairOld := 1 })) (fun t => (t.quad 3).steered && (t.quad 3).flane == 31) = true ∧
    (bootAt 5 (fun b => { b with railsOff := true })).boot.railsOff = true ∧ then? .oobReset (bootAt 5 (fun b => { b with railsOff := true })) (fun t => t.boot.stage == 0 && t.boot.railsOff) = true ∧
    then? .junctionThrottle (onCtx (fun c => { c with capRefill := 9, refill := 9 }) State.reset) (fun t => t.boot.throt && (t.ctx 0).refill == 4) = true := by decide
/-- Whether firmware passes, no model fixes (log 4): both outcomes of its slots are met by whichever firmware has them. -/
theorem has_firmware (f e : FwImage) (hf : f.passes = true) (he : e.passes = false) :
    (bootAt 1 (fun b => { b with images := [f] })).boot.images = f :: [] ∧ f.passes = true ∧ (bootAt 1 (fun b => { b with images := [e, f] })).boot.images = e :: f :: [] ∧ e.passes = false :=
  ⟨rfl, hf, rfl, he⟩
def quadIs (x : Quad) : State := State.reset.setQuad 7 x
theorem has_spare_lanes :
    then? (.laneFailure 7 31) State.reset (fun t => decide ((t.quad 7).steering = some 31) && (t.quad 7).failcnt == 1) = true ∧
    then? (.laneFailure 7 32) State.reset (fun t => (t.quad 7).sparebad && !(t.quad 7).dead) = true ∧
    then? (.laneFailure 7 33) State.reset (fun t => decide (t.quad 7 = Quad.reset)) = true ∧
    then? (.laneFailure 7 0) (quadIs { Quad.reset with steered := true, flane := 3 }) (fun t => (t.quad 7).dead) = true ∧
    then? (.laneFailure 7 3) (quadIs { Quad.reset with steered := true, flane := 3 }) (fun t => !(t.quad 7).dead) = true ∧
    then? (.laneSteer 7) (quadIs { Quad.reset with steering := some 3 }) (fun t => (t.quad 7).steered && (t.quad 7).flane == 3) = true ∧
    then? (.laneSteer 7) (quadIs { Quad.reset with steering := some 3, holder := some (team0, 0) }) (fun t => !(t.quad 7).steered) = true ∧
    then? (.laneGo 0 7 31) State.reset (fun t => decide ((t.quad 7).steering = some 31)) = true ∧ State.reset.slotsOn 7 = [] ∧ (quadIs { Quad.reset with dead := true }).quad 7 ≠ Quad.reset := by decide
/-- A register reads a value after it was written. -/
def regAfter (s : State) (off : Nat) (x : BitVec 64) : Option (BitVec 64) := match exec (.registerWrite (.pf 0) off x) s with | .next t => some (t.readReg (.pf 0) off) | _ => none
theorem has_register_writes :
    (State.reset.pf0.vfEnable = false ∧ State.reset.pf1.vfEnable = false ∧ (withPf 1 true 1).pf0.vfEnable = true) ∧
    regAfter State.reset 0x10 0x3FFFFFF = some 0x3E00000 ∧ regAfter State.reset (0x10000 + 128 * 127) 0xFFFFFFFFFFFFFFFF = some 0xFFFFFFFFFF001 ∧
    regAfter State.reset (0x20000 + 256 * 15) 0xFFFF = some 0x1FF ∧ regAfter State.reset 0x28000 (2 ^ 40 - 2 ^ 31) = some 0xFF80000000 ∧ regAfter State.reset 0x28000 (2 ^ 40) = some 0 ∧
    regAfter State.reset 0x2C008 1200 = some 1200 ∧ regAfter State.reset 0x2C008 1199 = some 2800 ∧ regAfter State.reset 0x2C008 2801 = some 2800 ∧ regAfter State.reset (2 ^ 34 + 24) 0x123456789 = some 0x23456789 ∧ regAfter State.reset (0x1010 + 256 * 127) 0x3FFFFFF = some 0x3E00000 ∧
    (vfUp.vf 0).enabled = some (1 - 1) ∧ (match exec (.registerWrite (.vf 0) (2 ^ 32 + 32) 0x12345) vfUp with | .next t => some (t.readReg (.vf 0) (2 ^ 32 + 32)) | _ => none) = some 0x2345 ∧
    ((0x10 : BitVec 64).getLsbD 4 = true ∧ (7 : BitVec 64).getLsbD 4 = false ∧ (3 : BitVec 64).getLsbD 1 = true ∧ (3 : BitVec 64).getLsbD 0 = true ∧ (0x200000 : BitVec 64).getLsbD 21 = true ∧ 3 < 2 ^ 32 ∧ 3 % 8 ≠ 0) := by decide

/-! ### Witnesses: cases the statements add about waiting, hosts, peers, lanes and harvests -/

theorem has_paused_dispatch :
    (let s := waiting.setVf 0 { waiting.vf 0 with runstate := .paused }
     ((Stated.asModule s).firstLaunch 0).any (fun l => l.vf == 0) && !s.preemptHolds 0 && then? (.clusterPlace 0) s (fun t => t.clusters.isEmpty)) = true := by decide
theorem has_store_timeout :
    (let late := { queued .phys false with cycle := 2 ^ 21 }
     headIs (darkPort 0 (8 + k0) late) (fun T _ e => e.asked == some 0 && e.blocks.any (fun b => !e.done.contains b && (darkPort 0 (8 + k0) late).blockStalled (T.core / 32) b)) &&
       headIs late (fun T _ e => e.asked == some 0 && e.leaves.isEmpty && e.blocks.all (fun b => !late.blockStalled (T.core / 32) b)) &&
       then? (.storeDarkTimeout 0 0) (darkPort 0 (8 + k0) late) (fun t => (t.team? team0).isNone)) = true := by decide
theorem has_peer_turns :
    (headIs (darkPort 0 24 (queued (.peer 5) false)) (fun T _ e => decide (e.space = .peer 5) && !(darkPort 0 24 (queued (.peer 5) false)).pathUp (T.core / 32) 24) &&
      (let s := dirHas { DirEntry.reset with host0 := .s } (peerSent (queued (.peer 5) false))
       let s := onGroups (fun g => { g with storeQ := g.storeQ.map (fun e => { e with leaves := [0x200000] }) }) s
       headIs s (fun T _ e => e.blocks.all e.done.contains && (match (Stated.asModule s).leavesWait (T.core / 32) e.leaves with | some (dark, _) => !dark | none => false))) &&
      (let s := onGroups (fun g => { g with storeQ := g.storeQ.map (fun e => { e with leaves := [0x200000] }) }) (owning (queued .phys false))
       let s := dirHas { DirEntry.reset with host0 := .s } s
       then? (.storeQueueDrain 0 0) s (fun t => !wrote t))) = true := by decide
theorem has_snoop_ways :
    (hostHeld .m).snoopWays hb = true ∧ (darkPort 24 0 (hostHeld .m)).snoopWays hb = false ∧ (hostHeld .e).coh.snooped hb ≠ [] ∧ (hostHeld .e).coh.hostDirty hb = false ∧ State.reset.coh.snooped hb = [] ∧
    then? (.snpinv 0 hb) State.reset (fun t => decide (t.out.snoop = [(0, hb, 0)])) = true ∧ then? (.snpdata 0 hb) State.reset (fun t => decide (t.out.snoop = [(0, hb, 0)])) = true ∧
    then? (.snpdata 0 hb) (hostHeld .m) (fun t => decide (t.out.snoop = [(0, hb, 3)])) = true ∧ then? (.snpcur 0 hb) (hostHeld .e) (fun t => decide (t.out.snoop = [(0, hb, 4)])) = true := by decide
def asksKeeping (own : Bool) (keep : Nat) (s : State) : State := withCoh (fun c => { c with cxlReqs := [{ port := 0, block := hb, core := 3, own := own, ctx := 0, keep := keep }] }) s
theorem has_host_grant_kinds :
    (asksHost true State.reset).hostWays 0 hb = true ∧ (asksHost true State.reset).coh.holders hb = [] ∧ (asksHost true (hostHeld .s)).coh.holders hb ≠ [] ∧
    then? (.cxlCacheResponse 0 hb .e (List.replicate 64 7)) (asksHost true State.reset) (fun t => decide (t.coh.l1St 3 hb = .e) && decide (t.coh.l2St 0 hb = .e) && t.mem.read (64 * hb) == 7) = true ∧
    then? (.cxlCacheResponse 0 hb .s (List.replicate 64 7)) (asksKeeping false 3 State.reset) (fun t => decide (t.coh.l2St 0 hb = .i) && decide (t.out.host = [(0, hb, false)])) = true ∧
    then? (.cxlCacheResponse 0 hb .s (List.replicate 64 7)) (asksHost false State.reset) (fun t => decide (t.coh.l1St 3 hb = .s)) = true := by decide
/-- Port 0's link is up without CXL. -/
def ioHosted : State := { State.reset with pf0 := { State.reset.pf0 with linkUp := true } }
theorem has_io_requests :
    ioHosted.ioOnly 0 = true ∧ ioHosted.hdmOpen 0 0x8000 = false ∧ ioHosted.trackersFull 0 = false ∧ State.reset.ioOnly 0 = false ∧ hosted.ioOnly 0 = false ∧
    then? (.hostM2sRequest 0 0x8000 .readOwn) ioHosted (fun t => decide ((t.coh.dirEntry 0x8000).host0 = .i) && decide (t.out.host = [(0, 0x8000, true)])) = true ∧
    then? (.hostDarkTimeout 0 0x8000) (darkPort 24 (8 + k0) { withCoh (fun c => { c with homes := [(k0, [{ homeReq (.hostM2s .readOwn) with who := 8 }])] }) State.reset with cycle := 2 ^ 21 })
      (fun t => t.pf0.aer == 0x8000) = true ∧
    (let s := withCoh (fun c => { c with homes := [(k0, [{ homeReq (.hostM2s .readOwn) with who := 8 }])] }) State.reset
     (s.coh.homes.get k0 []).all (fun r => !s.stalled k0 r) ∧ then? (.hostDarkTimeout 0 0x8000) { s with cycle := 2 ^ 21 } (fun t => t.out.host.isEmpty) = true) := by decide
theorem has_answer_ways :
    (let s := withCoh (fun c => { c with backInv := [(1, 0x8000, true)] }) (dirHas { DirEntry.reset with host1 := .e } State.reset)
     s.wayUp 24 (s.portOf 0x200000) && !(darkPort 24 (8 + k0) s).wayUp 24 (s.portOf 0x200000) && then? (.birsp 1 0x8000 none) (darkPort 24 (8 + k0) s) (fun t => !t.coh.backInv.isEmpty)) = true := by decide
/-- The eviction of a host block by chiplet 0 whose way carried nothing. -/
def kept : State := withCoh (fun c => { c with notices := [{ chiplet := 0, block := hb, dirty := false, sent := false }], filter := [(0, hb, 0, .e)] }) State.reset
theorem has_host_resend :
    kept.wayUp 0 (kept.portOf (64 * hb)) = true ∧ isHost (64 * hb) = true ∧ isHost 0x200000 = false ∧
    then? (.noticeResend 0 hb) kept (fun t => t.coh.notices.isEmpty && t.coh.filter.isEmpty && decide (t.out.host = [(0, hb, false)])) = true := by decide
theorem has_hut_home : (({ homeReq .hst with who := 10, src := 3 } : HomeReq).who, ({ homeReq .hst with who := 10, src := 3 } : HomeReq).src) = (10, 3) ∧
    then? (.homeHst k0) (withCoh (fun c => { c with homes := [(k0, [{ homeReq .hst with who := 10, src := 3 }])] }) State.reset) (fun t => (t.coh.homes.get k0 []).isEmpty) = true := by decide
theorem has_flit_boundary :
    (let s := laneIs (flane .ready 2) State.reset
     decide (Stated.laneAt (s.boundary 0 1) dir01 7 = some (flane .active 0)) && ((s.boundary 0 1).pair (pairKey 0 1)).retrains == 1 &&
      ((laneIs (flane .drain 0) State.reset).boundary 0 1 |> lane7) == some (flane .train 0) && ((State.reset.sendOver 0 1 2).dirOf 0 1).rot == 2) = true := by decide
/-- The block of the running copy has left for a peer. -/
def awayCopy : Cmd := { copyRuns 0 with away := true }
theorem has_block_away :
    (command awayCopy).cmdRuns awayCopy = true ∧ awayCopy.writeFault = none ∧ (((Stated.asModule (command awayCopy)).readIdxs awayCopy).any (fun c => c.away && (c.blocks[c.next]?).isSome)) = true ∧
    (command awayCopy).pathUp 0 24 = true ∧ (darkPort 0 24 (command awayCopy)).pathUp 0 24 = false ∧
    then? (.asyncBlockWrite 4) (command awayCopy) (fun t => t.cmds.all (fun c => !c.away && c.next == 1)) = true ∧
    then? (.asyncBlockWrite 4) (darkPort 0 24 (command awayCopy)) (fun t => t.cmds.all (fun c => c.away && c.next == 0)) = true := by decide
/-- A copy to a page of a peer's memory. -/
def copyOut : Cmd := { copyRuns (2 ^ 57) with mod := 0x20 }
theorem has_block_sent :
    (let s := featured { command copyOut with peers := [(1, (5, true))] }
     blockEnds s copyOut == some 3) = true := by decide
theorem has_run_deadline :
    (sentRun.kind = 2 ∧ sentRun.accepted = true) ∧
    then? (.hutDeadline 4) { atHut (fun h => { h with running := some 4, tag := some (0, 7, 1) }) sentRun with cycle := 1024 }
      (fun t => t.cmds.all (fun c => c.finished && c.subbed == 1024)) = true := by decide
theorem has_dark_tile :
    (let s := darkPort 0 1 { pair sender team0 false with clusters := (pair sender team0 false).clusters.map (fun c => { c with teams := c.teams.map (fun t => if t.ref = sender then { t with core := 32 } else t) }) }
     (s.team? sender).any (fun D => !s.wayUp (D.core / 32) 0) && then? (.draddApply 3) s (fun t => t.tiles.length == 1) && then? (.draddApply 3) { s with cycle := 2 ^ 21 } (fun t => (t.team? sender).isNone)) = true := by decide
theorem has_harvest_waits :
    (let s := onCtx (fun c => { c with hbusy := true, hgo := (0, 1, 0x300000) }) (harvesting 1)
     (s.homeWait 24 (s.harvestBlocks 0).1 (s.harvestBlocks 0).2).isNone && ((dirHas { DirEntry.reset with host0 := .s } s).coh.dirEntry 0x8000).host0 == .s &&
       then? (.harvestComplete 0) s (fun t => (t.ctx 0).hbusy && (t.ctx 0).hread)) = true ∧
    (let s := onCtx (fun c => { c with hbusy := true, hread := true, hdirty := [true], hgo := (0, 1, 0x300000), hsince := 1 }) (harvesting 1)
     s.accessesDone 0 1 = true ∧ (s.homeWait 24 [] (blocksOf 0x300000 1)).isNone = true ∧
       (withCoh (fun c => { c with dir := [(0xC000, { DirEntry.reset with host0 := .s })] }) s).homeWait 24 [] (blocksOf 0x300000 1) ≠ none) := by decide
theorem has_restore_reach :
    (outIs .restoring).available 0 0 = true ∧
    ({ st := .restoring, rows := [], banks := [], acc := false, bsramGone := false } : Outgoing).bsramGone = false := by decide
/-- No launch of the trapped group has ended, and no command is under way. -/
theorem has_relaunch_grid : ((trappedGroup true true).launches.all (fun l => l.ended.isNone)) = true ∧ (trappedGroup true true).cmds = [] := by decide
theorem has_repeated_failure :
    (let s := State.reset.setQuad 0 { Quad.reset with steering := some 3, failcnt := 1 }
     then? (.laneFailure 0 3) s (fun t => (t.quad 0).failcnt == 1 && !(t.quad 0).dead) && then? (.laneFailure 0 4) s (fun t => (t.quad 0).failcnt == 2 && (t.quad 0).dead)) = true := by decide
theorem has_status_reset : (vfUp.vf 0).enabled.isSome = true ∧ then? (.registerWrite (.vf 0) (2 ^ 34 + 48) 0) vfUp (fun _ => true) = true := by decide
theorem has_queue_vector : (vfUp.vf 0).enabled.isSome = true ∧ (State.reset.vf 5).enabled = none ∧
    then? (.registerWrite (.vf 0) (2 ^ 32 + 32) 0x10007) vfUp (fun t => t.readReg (.vf 0) (2 ^ 32 + 32) == 7) = true := by decide

end Sys2Proof.Tests
end

/-! PROOF of O52: the steps of a core's async engine. -/

/-! ### What leaves the command list as it was

A completed command is forgotten for good: what `State.completeCmd` does after deleting it (a launch that ends, a cluster that is rolled back or retires) adds no
command. Most of those updates leave the list of commands as it was. -/

namespace Sys2Proof.Machine

theorem State.foldl_cmds {α : Type} {f : State → α → State} (hf : ∀ s x, (f s x).cmds = s.cmds) (l : List α) (s : State) : (l.foldl f s).cmds = s.cmds :=
  List.foldlRecOn (motive := fun t => t.cmds = s.cmds) l f rfl (fun t ht x _ => (hf t x).trans ht)

/-! Flits and recalls -/

@[simp] theorem State.updDir_cmds (s : State) (d : DirRef) (h : FDir → FDir) : (s.updDir d h).cmds = s.cmds := by
  unfold State.updDir; split <;> rfl

@[simp] theorem State.route_cmds (s : State) : s.route.cmds = s.cmds := rfl

@[simp] theorem State.boundary_cmds (s : State) (i j : Nat) : (s.boundary i j).cmds = s.cmds := by
  unfold State.boundary; dsimp only; split <;> simp

@[simp] theorem State.sendOver_cmds (s : State) (i j n : Nat) : (s.sendOver i j n).cmds = s.cmds := by
  unfold State.sendOver; split <;> simp

@[simp] theorem State.flits_cmds (s : State) (i j n : Nat) : (s.flits i j n).cmds = s.cmds := by
  unfold State.flits; dsimp only; split
  · rfl
  · split <;> simp

@[simp] theorem State.exchange_cmds (s : State) (i j out back : Nat) : (s.exchange i j out back).cmds = s.cmds := by
  simp [State.exchange]

@[simp] theorem State.sendBi_cmds (s : State) (port block : Nat) (inval : Bool) : (s.sendBi port block inval).cmds = s.cmds := by
  unfold State.sendBi; split <;> simp

@[simp] theorem State.sendBis_cmds (s : State) (l : List (Nat × Nat × Bool)) : (s.sendBis l).cmds = s.cmds :=
  State.foldl_cmds (fun _ _ => State.sendBi_cmds ..) l s

@[simp] theorem State.recallAll_cmds (s : State) (block : Nat) (inval : Bool) : (s.recallAll block inval).cmds = s.cmds := by
  unfold State.recallAll; dsimp only; split
  · rw [State.foldl_cmds (fun _ _ => State.exchange_cmds ..)]
  · split <;> simp

@[simp] theorem State.rouse_cmds (s : State) (block : Nat) : (s.rouse block).cmds = s.cmds := by
  unfold State.rouse; dsimp only; split <;> simp

@[simp] theorem State.access_cmds (s : State) (port : Nat) (inval : Bool) (block : Nat) : (s.access port inval block).cmds = s.cmds := by
  simp [State.access]

theorem State.homeWait_cmds {s s' : State} {port : Nat} {rd wr : List Nat} {dark : Bool} (h : s.homeWait port rd wr = some (dark, s')) : s'.cmds = s.cmds := by
  unfold State.homeWait at h; dsimp only at h
  split at h
  · cases h; rfl
  · split at h
    · split at h <;> cases h; rfl
    · cases h; simp

@[simp] theorem State.homeWrite_cmds (s : State) (port a : Nat) (bs : List Byte) : (s.homeWrite port a bs).cmds = s.cmds := by
  unfold State.homeWrite; dsimp only; split
  · rfl
  · split
    · next t h => exact State.homeWait_cmds (s' := t) h
    · exact State.foldl_cmds (fun _ _ => State.access_cmds ..) _ s

/-! The guest book, messages and launches -/

@[simp] theorem State.writeEntry_cmds (s : State) (c : Cluster) : (s.writeEntry c).cmds = s.cmds := by
  unfold State.writeEntry; exact State.homeWrite_cmds ..

@[simp] theorem State.putCluster_cmds (s : State) (c : Cluster) : (s.putCluster c).cmds = s.cmds := by simp [State.putCluster]

@[simp] theorem State.message_cmds (s : State) (v queue : Nat) (gen : BitVec 16) : (s.message v queue gen).cmds = s.cmds := by
  unfold State.message; dsimp only; split
  · rfl
  · split
    · split <;> rfl
    · split <;> rfl

@[simp] theorem State.sendMsix_cmds (s : State) (v queue : Nat) (gen : BitVec 16) : (s.sendMsix v queue gen).cmds = s.cmds := by
  unfold State.sendMsix; dsimp only; split <;> simp

@[simp] theorem State.writeEvent_cmds (s : State) (v : Nat) (e : VEvent) : (s.writeEvent v e).cmds = s.cmds := by
  simp [State.writeEvent]

@[simp] theorem State.raiseEvent_cmds (s : State) (v : Nat) (e : VEvent) : (s.raiseEvent v e).cmds = s.cmds := by
  unfold State.raiseEvent; dsimp only; split
  · simp
  · split <;> rfl

@[simp] theorem State.raiseTimeline_cmds (s : State) (v i value : Nat) : (s.raiseTimeline v i value).cmds = s.cmds := by
  simp [State.raiseTimeline]

@[simp] theorem State.completeLaunch_cmds (s : State) (l : Launch) (status reason : Nat) : (s.completeLaunch l status reason).cmds = s.cmds := by
  unfold State.completeLaunch; dsimp only; split <;> simp

@[simp] theorem State.unfuse_cmds (s : State) (c : Cluster) : (s.unfuse c).cmds = s.cmds := by
  unfold State.unfuse; split
  · split <;> rfl
  · rfl

@[simp] theorem State.settleQuads_cmds (s : State) : s.settleQuads.cmds = s.cmds := rfl

@[simp] theorem State.finishLaunch_cmds (s : State) (vf id : Nat) : (s.finishLaunch vf id).cmds = s.cmds := by
  unfold State.finishLaunch; split
  · rfl
  · split
    · rfl
    · split
      · simp
      · split <;> simp

@[simp] theorem State.tryRetire_cmds (s : State) (r : TeamRef) : (s.tryRetire r).cmds = s.cmds := by
  unfold State.tryRetire; dsimp only; split
  · rfl
  · split
    · rfl
    · split
      · simp
      · split
        · simp
        · split <;> simp

/-! ### A command that is gone stays gone -/

/-- No command of the state has a number. -/
def State.Lacks (s : State) (id : Nat) : Prop := ∀ k ∈ s.cmds, k.id ≠ id

theorem State.Lacks.congr {s t : State} {id : Nat} (h : s.Lacks id) (e : t.cmds = s.cmds) : t.Lacks id := by
  unfold State.Lacks; rw [e]; exact h

theorem State.Lacks.ite {p : Prop} [Decidable p] {s t : State} {id : Nat} (hs : s.Lacks id) (ht : t.Lacks id) : (if p then s else t).Lacks id := by
  split
  · exact hs
  · exact ht

theorem State.delCmd_lacks (s : State) (c : Cmd) : (s.delCmd c).Lacks c.id := by
  intro k hk
  simpa using (List.mem_filter.mp hk).2

/-- The commands of a killed cluster that run on keep their numbers (R365). -/
theorem State.Lacks.killTeams {s : State} {id : Nat} (h : s.Lacks id) (c : Cluster) : (s.killTeams c).Lacks id := by
  have hc : ∀ k ∈ (s.killTeams c).cmds, ∃ k' ∈ s.cmds, k'.id = k.id := by
    intro k hk
    unfold State.killTeams at hk
    obtain ⟨k', hk', rfl⟩ := List.mem_map.mp hk
    have hm := (List.mem_filter.mp hk').1
    refine ⟨k', ?_, ?_⟩
    · split at hm <;> exact hm
    · split <;> rfl
  intro k hk e
  obtain ⟨k', hm, hid⟩ := hc k hk
  exact h k' hm (hid.trans e)

theorem State.Lacks.killGrid {s : State} {id : Nat} (h : s.Lacks id) (vf launch : Nat) : (s.killGrid vf launch).Lacks id := by
  unfold State.killGrid
  refine State.Lacks.congr (List.foldlRecOn (motive := fun t : State => t.Lacks id) _ _ h ?_) rfl
  intro t ht c _
  split
  · exact ht
  · exact (ht.killTeams c).congr (State.writeEntry_cmds ..)

theorem State.Lacks.endGrid {s : State} {id : Nat} (h : s.Lacks id) (vf launch status reason : Nat) : (s.endGrid vf launch status reason).Lacks id := by
  unfold State.endGrid; split
  · exact h
  · split
    · exact h
    · exact (h.killGrid vf launch).congr (by simp)

theorem State.Lacks.killCluster {s : State} {id : Nat} (h : s.Lacks id) (c : Cluster) : (s.killCluster c).Lacks id := by
  unfold State.killCluster; split
  · exact h.congr (by simp)
  · exact (h.killTeams c).congr (by simp)

theorem State.Lacks.rollback {s : State} {id : Nat} (h : s.Lacks id) (c : Cluster) : (s.rollback c).Lacks id := by
  unfold State.rollback; dsimp only
  refine State.Lacks.ite (h.killCluster c) ((h.killTeams c).congr ?_)
  rw [State.raiseEvent_cmds]; split <;> simp

theorem State.Lacks.consume {s : State} {id : Nat} (h : s.Lacks id) (r : TeamRef) : (s.consume r).Lacks id := by
  unfold State.consume; split
  · exact h
  · split
    · exact h
    · split
      · exact h.endGrid _ _ _ _
      · split
        · exact h.endGrid _ _ _ _
        · exact h.rollback _

/-- A command that has completed is known no more: neither the end of its launch nor what follows a consumed error brings it back (R254, R268). -/
theorem State.completeCmd_lacks (s : State) (c : Cmd) (st : HState) (reason pmask mmask : Nat) : (s.completeCmd c st reason pmask mmask).Lacks c.id := by
  unfold State.completeCmd; extract_lets err rest counted r uncovered handled signalled deleted ended
  have h : ended.Lacks c.id := (signalled.delCmd_lacks c).congr (by simp only [ended]; split <;> simp [deleted])
  split
  · exact h.consume c.team
  · exact h.congr (State.tryRetire_cmds ..)

end Sys2Proof.Machine

/-! ### The steps of the engine, case by case

One equation per outcome of each of the four steps, on the state as the module's own (`Stated.asModule`). -/

namespace Sys2Proof.Machine

theorem module_eq_next (s : State) (h : State → State) : module s h = .next (h (Stated.asModule s)) := rfl

/-! Acceptance (R254 to R256) -/

/-- What the command checks of R256 decide: a command without fault is admitted with the record it was read with, any other completes in error with the first code. -/
def State.decideChecked (s : State) (c : Cmd) (bs : List Byte) : State :=
  match s.checkCmd c with
  | (0, c) => s.acceptCmd c bs
  | (r, c) => s.completeCmd c .error r 0 0

theorem State.decideChecked_ok {s : State} {c c' : Cmd} {bs : List Byte} (h : s.checkCmd c = (0, c')) : s.decideChecked c bs = s.acceptCmd c' bs := by
  simp only [State.decideChecked, h]

theorem State.decideChecked_error {s : State} {c c' : Cmd} {r : Nat} (bs : List Byte) (h : s.checkCmd c = (r, c')) (hr : r ≠ 0) :
    s.decideChecked c bs = s.completeCmd c' .error r 0 0 := by
  obtain ⟨n, rfl⟩ := Nat.exists_eq_succ_of_ne_zero hr
  simp only [State.decideChecked, h]

/-- What the read of a command's record comes to: a wait, a fault, the reason that a broken record gives, or the command's checks. -/
def State.takeRecord (c : Cmd) : Read64 × State → State
  | (.wait dark, s) => s.darkSince c dark
  | (.fault k, s) => s.completeCmd c .error k.code 0 0
  | (.ok bs, s) =>
    let shape : BitVec 512 := BitVec.ofNat 512 (natOfBytes bs)
    match shapeReason shape with
    | 0 => s.decideChecked { c with shape := shape } bs
    | r => s.completeCmd { c with shape := shape } .error r 0 0

theorem State.takeRecord_sound {s : State} {c : Cmd} {bs : List Byte} (h : shapeReason (BitVec.ofNat 512 (natOfBytes bs)) = 0) :
    State.takeRecord c (.ok bs, s) = s.decideChecked { c with shape := BitVec.ofNat 512 (natOfBytes bs) } bs := by
  simp only [State.takeRecord, h]

theorem State.takeRecord_broken {s : State} {c : Cmd} {bs : List Byte} (h : shapeReason (BitVec.ofNat 512 (natOfBytes bs)) ≠ 0) :
    State.takeRecord c (.ok bs, s) =
      s.completeCmd { c with shape := BitVec.ofNat 512 (natOfBytes bs) } .error (shapeReason (BitVec.ofNat 512 (natOfBytes bs))) 0 0 := by
  obtain ⟨n, hn⟩ := Nat.exists_eq_succ_of_ne_zero h
  simp only [State.takeRecord, hn]

theorem Cmd.plain_iff (c : Cmd) : c.plain = true ↔ Stated.noRecord c := by
  simp [Cmd.plain, Stated.noRecord, Cmd.m5]

/-- The command accepted next is one of the engine's, not yet accepted, and with ACQ nothing that it follows is still to complete (R254, R257). -/
theorem State.nextCmd_spec {s : State} {core : Nat} {c : Cmd} (h : s.nextCmd core = some c) :
    c ∈ s.cmds ∧ c.core = core ∧ c.accepted = false ∧ ∀ n ∈ c.after, ∀ k ∈ s.cmds, k.id ≠ n := by
  obtain ⟨hf, ha⟩ := Option.filter_eq_some_iff.mp h
  have hp := List.find?_some hf
  simp only [Bool.and_eq_true, beq_iff_eq, Bool.not_eq_true'] at hp
  obtain ⟨⟨hcore, hacc⟩, -⟩ := hp
  refine ⟨List.mem_of_find?_eq_some hf, hcore, hacc, fun n hn k hk => ?_⟩
  simpa using List.all_eq_true.mp (List.all_eq_true.mp ha n hn) k hk

theorem exec_asyncAccept_idle {s : State} {core : Nat} (h : s.nextCmd core = none) : exec (.asyncAccept core) s = .next (Stated.asModule s) := by
  change execAsyncAccept core s = _
  rw [execAsyncAccept, module_eq_next]
  simp only [show (Stated.asModule s).nextCmd core = none from h]

/-- An engine looks at its next command: its record where it names one, then its checks. -/
theorem exec_asyncAccept_next {s : State} {core : Nat} {c : Cmd} (h : s.nextCmd core = some c) : exec (.asyncAccept core) s = .next
    (let m := Stated.asModule s
     if c.unverified || decide (6 ≤ c.op) then m
     else if c.plain then m.decideChecked c []
     else if c.a.toNat % 64 ≠ 0 then m.completeCmd c .error 4 0 0
     else State.takeRecord c (m.readRecord core c.team.vf c.a.toNat)) := by
  change execAsyncAccept core s = _
  rw [execAsyncAccept, module_eq_next]
  simp only [show (Stated.asModule s).nextCmd core = some c from h]
  rfl

section Accept
variable {s : State} {core : Nat} {c : Cmd} (h : s.nextCmd core = some c) (hop : c.op ≤ 5) (hu : c.unverified = false)
include h hop hu

theorem exec_asyncAccept_plain (hp : Stated.noRecord c) : exec (.asyncAccept core) s = .next ((Stated.asModule s).decideChecked c []) := by
  rw [exec_asyncAccept_next h]; simp [hu, show ¬6 ≤ c.op by omega, (Cmd.plain_iff c).mpr hp]

variable (hp : ¬Stated.noRecord c)
include hp

theorem exec_asyncAccept_misaligned (ha : c.a.toNat % 64 ≠ 0) :
    exec (.asyncAccept core) s = .next ((Stated.asModule s).completeCmd c .error 4 0 0) := by
  rw [exec_asyncAccept_next h]; simp [hu, show ¬6 ≤ c.op by omega, mt (Cmd.plain_iff c).mp hp, ha]

theorem exec_asyncAccept_record (ha : c.a.toNat % 64 = 0) :
    exec (.asyncAccept core) s = .next (State.takeRecord c ((Stated.asModule s).readRecord core c.team.vf c.a.toNat)) := by
  rw [exec_asyncAccept_next h]; simp [hu, show ¬6 ≤ c.op by omega, mt (Cmd.plain_iff c).mp hp, ha]

end Accept

/-! Blocks (R258, R259) -/

/-- What a block's turn comes to. -/
def State.endBlock (c : Cmd) (key : Nat × Nat × Nat) : BlockEnd × State → State
  | (.waits dark, s) => s.darkSince c dark
  | (.fails k, s) => s.setCmd { c with next := c.next + 1, fault := worst c.fault (some k), asked := none, held := [] }
  | (.written held, s) => s.landBlock { c with held := held } key
  | (.sent held, s) => s.setCmd { c with held := held, away := true, asked := none }

section Blocks
variable {s : State} {id : Nat} {c : Cmd} (h : s.cmds.find? (fun (c : Cmd) => c.id == id) = some c)
include h

theorem exec_asyncBlockWrite_stopped (hr : s.cmdRuns c = false) : exec (.asyncBlockWrite id) s = .next (Stated.asModule s) := by
  change execAsyncBlockWrite id s = _
  rw [execAsyncBlockWrite, module_eq_next]
  simp only [show (Stated.asModule s).cmds.find? _ = some c from h, show (Stated.asModule s).cmdRuns c = false from hr, Bool.not_false, if_true]

variable (hr : s.cmdRuns c = true)
include hr

/-- A running command that is no broken `awrite` works on its next block. -/
theorem exec_asyncBlockWrite_runs : exec (.asyncBlockWrite id) s = .next
    (let m := Stated.asModule s
     match c.writeFault with
      | some r => m.setCmd { c with reject := some r }
      | none => match m.readIdxs c with
        | none => m
        | some c => match c.blocks[c.next]? with
          | none => m.setCmd c
          | some key =>
            if c.away then
              if m.pathUp (c.core / 32) ioPort then (m.flits ioPort (c.core / 32) 1).landBlock { c with away := false } key else m.darkSince c true
            else State.endBlock c key (m.cmdBlock c key)) := by
  change execAsyncBlockWrite id s = _
  rw [execAsyncBlockWrite, module_eq_next]
  simp only [show (Stated.asModule s).cmds.find? _ = some c from h, show (Stated.asModule s).cmdRuns c = true from hr, Bool.not_true, Bool.false_eq_true, if_false] <;> rfl

theorem exec_asyncBlockWrite_rejected {r : Nat} (hf : c.writeFault = some r) :
    exec (.asyncBlockWrite id) s = .next ((Stated.asModule s).setCmd { c with reject := some r }) := by
  rw [exec_asyncBlockWrite_runs h hr]; simp only [hf]

variable (hf : c.writeFault = none)
include hf

/-- The index list of a gather or scatter is not there yet. -/
theorem exec_asyncBlockWrite_unindexed (hi : s.readIdxs c = none) : exec (.asyncBlockWrite id) s = .next (Stated.asModule s) := by
  rw [exec_asyncBlockWrite_runs h hr]; simp only [hf, show (Stated.asModule s).readIdxs c = none from hi]

variable {c1 : Cmd} {key : Nat × Nat × Nat} (hi : (Stated.asModule s).readIdxs c = some c1) (hk : c1.blocks[c1.next]? = some key)
include hi hk

/-- The block that left for a peer lands with the peer's acknowledgement (R324). -/
theorem exec_asyncBlockWrite_away (ha : c1.away = true) : exec (.asyncBlockWrite id) s = .next
    (if s.pathUp (c1.core / 32) 24 then ((Stated.asModule s).flits 24 (c1.core / 32) 1).landBlock { c1 with away := false } key
     else (Stated.asModule s).darkSince c1 true) := by
  rw [exec_asyncBlockWrite_runs h hr]; simp only [hf, hi, hk, ha, if_true]; rfl

theorem exec_asyncBlockWrite_here (ha : c1.away = false) :
    exec (.asyncBlockWrite id) s = .next (State.endBlock c1 key ((Stated.asModule s).cmdBlock c1 key)) := by
  rw [exec_asyncBlockWrite_runs h hr]; simp only [hf, hi, hk, ha, Bool.false_eq_true, if_false]

end Blocks

/-! Timeout and completion (R254, R259, R269, R401) -/

section Ends
variable {s : State} {id : Nat} {c : Cmd} (h : s.cmds.find? (fun (c : Cmd) => c.id == id) = some c)
include h

theorem exec_asyncDarkTimeout_asked {since : Nat} (hs : c.asked = some since) : exec (.asyncDarkTimeout id) s = .next
    (let m := Stated.asModule s
     if ¬since + 2 ^ 21 ≤ s.cycle then m
     else if c.accepted = false then m.completeCmd c .error 0x20 0 0
     else m.setCmd { c with next := c.next + 1, fault := some .uncorrectable, asked := none, held := [], away := false }) := by
  have hd : (Stated.asModule s).overdue since = decide (since + 2 ^ 21 ≤ s.cycle) := rfl
  change execAsyncDarkTimeout id s = _
  rw [execAsyncDarkTimeout, module_eq_next]
  simp only [show (Stated.asModule s).cmds.find? _ = some c from h, hs, hd, Bool.not_eq_true', decide_eq_false_iff_not]

theorem exec_asyncComplete_cancelled (hc : c.cancel = true) : exec (.asyncComplete id) s = .next ((Stated.asModule s).completeCmd c .cancelled 0 0 0) := by
  change execAsyncComplete id s = _
  rw [execAsyncComplete, module_eq_next]
  simp only [show (Stated.asModule s).cmds.find? _ = some c from h, hc, if_true]

variable (hc : c.cancel = false)
include hc

/-- A hut or summit command completes as its collectors say. -/
theorem exec_asyncComplete_collected {st : HState} {reason : Nat} (hop : 6 ≤ c.op) (hr : c.result = some (st, reason)) (hf : c.finished = true) :
    exec (.asyncComplete id) s = .next ((Stated.asModule s).completeCmd c st reason c.pmask.toNat c.mmask.toNat) := by
  change execAsyncComplete id s = _
  rw [execAsyncComplete, module_eq_next]
  simp only [show (Stated.asModule s).cmds.find? _ = some c from h, hc, hop, hr, hf, Bool.false_eq_true, if_false, if_true]

variable (hop : c.op ≤ 5)
include hop

theorem exec_asyncComplete_rejected {r : Nat} (hr : c.reject = some r) :
    exec (.asyncComplete id) s = .next ((Stated.asModule s).completeCmd c .error r 0 0) := by
  change execAsyncComplete id s = _
  rw [execAsyncComplete, module_eq_next]
  simp only [show (Stated.asModule s).cmds.find? _ = some c from h, hc, show ¬6 ≤ c.op by omega, hr, Bool.false_eq_true, if_false]

/-- A running command whose blocks are all decided completes in the state that its faults give (R254 step 4, R259). -/
theorem exec_asyncComplete_decided (hr : c.reject = none) (hw : s.cmdRuns c = true) (hi : (c.op = 2 ∨ c.op = 3) → c.idxs.isSome = true)
    (hb : c.blocks.length ≤ c.next) : exec (.asyncComplete id) s = .next
      (match worst c.fault (if c.idxFault then some .bounds else none) with
        | some k => (Stated.asModule s).completeCmd c .error k.code 0 0
        | none => (Stated.asModule s).completeCmd c .done 0 0 0) := by
  have hgo : (!(Stated.asModule s).cmdRuns c || ((c.op == 2 || c.op == 3) && c.idxs.isNone) || decide (c.next < c.blocks.length)) = false := by
    simp only [Bool.or_eq_false_iff, Bool.not_eq_false', Bool.and_eq_false_imp, Bool.or_eq_true, beq_iff_eq, decide_eq_false_iff_not, Nat.not_lt]
    exact ⟨⟨hw, fun hg => by simpa using hi hg⟩, hb⟩
  change execAsyncComplete id s = _
  rw [execAsyncComplete, module_eq_next]
  simp only [show (Stated.asModule s).cmds.find? _ = some c from h, hc, show ¬6 ≤ c.op by omega, hr, hgo, Bool.false_eq_true, if_false] <;> rfl

end Ends

/-! ### The obligation -/

/-- A step that completes a command leaves it over. -/
theorem over_of_completes {i : Instr} {s m : State} {c : Cmd} {st : HState} {reason pmask mmask : Nat}
    (h : exec i s = .next (m.completeCmd c st reason pmask mmask)) :
    ∃ t : State, exec i s = .next t ∧ Stated.Over m c st reason pmask mmask t :=
  ⟨_, h, rfl, m.completeCmd_lacks c st reason pmask mmask⟩

/-- Acceptance (R254 to R256): the record's own faults first, then the checks of the command. -/
theorem engineAcceptance : Stated.EngineAcceptance := by
  intro s core; dsimp only
  refine ⟨exec_asyncAccept_idle, fun c h hop => ⟨State.nextCmd_spec h, fun hu => ?unverified, fun hu hp r c' hr => ?plain, fun hu hp => ⟨fun ha => ?misaligned, fun ha s1 => ?record⟩⟩⟩
  case unverified => rw [exec_asyncAccept_next h]; simp [hu]
  case plain =>
    have hstep := exec_asyncAccept_plain h hop hu hp
    refine ⟨?_, fun h0 => over_of_completes (hstep.trans (by rw [State.decideChecked_error [] hr h0]))⟩
    rintro rfl; rw [hstep, State.decideChecked_ok hr]
  case misaligned => exact over_of_completes (exec_asyncAccept_misaligned h hop hu hp ha)
  case record =>
    have hstep := exec_asyncAccept_record h hop hu hp ha
    refine ⟨fun dark hd => by rw [hstep, hd]; rfl, fun k hk => over_of_completes (by rw [hstep, hk]; rfl), fun bs hbs => ?_⟩
    rw [hbs] at hstep
    refine ⟨fun h0 => over_of_completes (by rw [hstep, State.takeRecord_broken h0]), fun h0 r c' hr => ?_⟩
    rw [State.takeRecord_sound h0] at hstep
    refine ⟨?_, fun hn => over_of_completes (by rw [hstep, State.decideChecked_error bs hr hn])⟩
    rintro rfl; rw [hstep, State.decideChecked_ok hr]

/-- Work and completion (R257 to R259, R265, R269, R401), one part for each of the three steps. -/
theorem engineWork : Stated.EngineWork := by
  intro s id c h; dsimp only
  refine ⟨exec_asyncBlockWrite_stopped h,
    fun hr => ⟨fun r => exec_asyncBlockWrite_rejected h hr, exec_asyncBlockWrite_unindexed h hr, fun hf c1 key s1 hi hk => ⟨fun ha => ?away, fun ha => ?here⟩⟩,
    fun since hs => ?timeout, fun hc => over_of_completes (exec_asyncComplete_cancelled h hc),
    fun hc hop st reason hr hf => over_of_completes (exec_asyncComplete_collected h hc hop hr hf),
    fun hc hop r hr => over_of_completes (exec_asyncComplete_rejected h hc hop hr), fun hc hop hr hw hi hb => ?decided⟩
  case away =>
    have hstep := exec_asyncBlockWrite_away h hr hf hi hk ha
    exact ⟨fun hd => by rw [hstep, if_neg (by simp [hd])], fun hu => by rw [hstep, if_pos hu]⟩
  case here =>
    have hstep := exec_asyncBlockWrite_here h hr hf hi hk ha
    exact ⟨fun dark hd => by rw [hstep, hd]; rfl, fun k hd => by rw [hstep, hd]; rfl, fun held hd => by rw [hstep, hd]; rfl, fun held hd => by rw [hstep, hd]; rfl⟩
  case timeout =>
    have hstep := exec_asyncDarkTimeout_asked h hs
    refine ⟨fun hlt => ?_, fun hge hacc => over_of_completes ?_, fun hge hacc => ?_⟩
    · rw [hstep, if_pos (Nat.not_le.mpr hlt)]
    · rw [hstep, if_neg (not_not_intro hge), if_pos hacc]
    · rw [hstep, if_neg (not_not_intro hge), if_neg (by simp [hacc])]
  case decided =>
    have hstep := exec_asyncComplete_decided h hc hop hr hw hi hb
    refine ⟨fun hf hx => over_of_completes ?_, fun k hk => over_of_completes ?_⟩
    · rw [hstep, hf, hx]; rfl
    · rw [hstep, hk]

/-- Settles O52: each step of the engine has one equation per outcome, and a completed command is gone because nothing after its deletion adds a command. -/
theorem engineSteps : Obligations.EngineSteps := ⟨engineAcceptance, engineWork⟩

end Sys2Proof.Machine
